-- ==== Sys2Proof/Word.lean ====
section
/-! DEFINITION. The word types of the Pelfold (spec/00_scope.md R2, spec/02_encoding.md R36, spec/04_numbers.md R90):
bytes, 32-bit words, 64-bit dwords, and the register-number types of R40. -/

namespace Sys2Proof

/-- A byte of memory (R2). -/
abbrev Byte := BitVec 8
/-- A 32-bit word: an instruction word, a literal, a lane of a vector register (R36, R90). -/
abbrev Word := BitVec 32
/-- A 64-bit dword: a scalar, a handle, a CSR value (R40, R203). -/
abbrev DWord := BitVec 64
/-- A set of lanes of a stand, bit l for lane l (R10, R17). -/
abbrev Mask := BitVec 32

/-- Vector register number v0–v127; 127 is `vz` (R40). -/
abbrev VReg := BitVec 7
/-- Scalar register number s0–s63; 63 is `sz` (R40). -/
abbrev SReg := BitVec 6
/-- Predicate number 0–16; 15 is `pt`, 16 is `em` (R40). -/
abbrev PReg := BitVec 5
/-- Accumulator number a0–a15 (R40). -/
abbrev AReg := BitVec 4
/-- Operand-slot name o0–o15 (R40). -/
abbrev OReg := BitVec 4
/-- Handle register h0–h15 (R40). -/
abbrev HReg := BitVec 4
/-- Copy token k0–k7 (R40). -/
abbrev Tok := BitVec 3

end Sys2Proof
end

