-- ==== Sys2Proof/Config.lean ====
section
/-! DEFINITION. What this part fixes: the counts and depths of spec/00_scope.md R1 and spec/02_encoding.md R60,
and the few values a lone Pelfold has (log entries 3 and 4). -/

namespace Sys2Proof.Config

/-- Dies of a package (R1). -/
def dies : Nat := 4
/-- Copses of a die (R1). -/
def copses : Nat := 12
/-- Physical cores of a copse, one of them withdrawn (R1, R268). -/
def physPerCopse : Nat := 9
/-- Working cores of a copse (R10). -/
def workPerCopse : Nat := 8
/-- Physical cores of a die (R286). -/
def physPerDie : Nat := 108
/-- Stand positions of a core (R10). -/
def standsPerCore : Nat := 64
/-- Pool units of a core (R115). -/
def poolUnits : Nat := 80
/-- Bytes of a pool unit (R115). -/
def unitBytes : Nat := 16384
/-- Operand slots of a core (R120). -/
def slotsPerCore : Nat := 64
/-- Home slices of a die (R1, R125). -/
def homesPerDie : Nat := 32
/-- Depth of the loads counter (R60). -/
def loadsDepth : Nat := 48
/-- Depth of the stores counter (R60). -/
def storesDepth : Nat := 48
/-- Depth of the copies counter (R60). -/
def copiesDepth : Nat := 16
/-- Depth of the tiles counter (R60). -/
def tilesDepth : Nat := 16
/-- Instructions that a path may issue past its oldest unresolved event (R22). -/
def aheadMost : Nat := 16
/-- Counter depths in deterministic mode: 16 loads, 16 stores, 4 copies, 4 tiles (R61). -/
def detDepth : Nat := 16
def detDepthSmall : Nat := 4
/-- Detached operations a stand may have outstanding (R50). -/
def detachedDepth : Nat := 16
/-- Drain-buffer entries of a core (R60). -/
def drainDepth : Nat := 8
/-- Combining-buffer entries of a core (R60, R175). -/
def combineDepth : Nat := 32
/-- The most payload that an Ultra Ethernet packet carries (R290). -/
def packetBytes : Nat := 4096
/-- I/O-engine prefetch of a chain (R60, R241). -/
def prefetch : Nat := 32
/-- Instructions a path issues in a row (R19). -/
def greedyRun : Nat := 256
/-- Entries of the core TLB and of the copse TLB (R130). -/
def coreTlb : Nat := 256
def copseTlb : Nat := 4096
/-- Active entries of a die's group controller (R207). -/
def activeGroups : Nat := 4096
/-- Group directory slots of a die (R207, R380). -/
def groupSlots : Nat := 16384
/-- Queue, chain and endpoint directory slots of a die (R380). -/
def objectSlots : Nat := 1024
/-- GRED value cells of a die (R217). -/
def gredCells : Nat := 256
/-- Members and pending joiners of a group (R210). -/
def groupMax : Nat := 24576
/-- Entries of a stand's membership list (R210). -/
def memberMax : Nat := 16
/-- Part revision (R79, R287). -/
def revision : Nat := 2
/-- Watchpoints and breakpoints of a core (R134, R272). -/
def watchpoints : Nat := 8
def breakpoints : Nat := 8
/-- Vacate reserve of a die in bytes per VU (R141). -/
def vacateReserve : Nat := 6912
/-- Charges of the vacate classes REPLAY, DETACH, ARRAY and DRAIN (R145, R150). -/
def chargeReplay : Nat := 1
def chargeDetach : Nat := 2
def chargeArray : Nat := 3
def chargeDrain : Nat := 4
/-- The value of `vxcost` (R150). -/
def vxcost : DWord := 0x00F43210#64
/-- Least cycles from a charged instruction's issue to the release of its charge (R293). -/
def minRelease : Nat := 16
/-- Nominal and floor clock in MHz (R1). -/
def nominalMHz : Nat := 2000
def floorMHz : Nat := 1400
/-- Corrected errors of a FEC window above which a wavelength is withdrawn (R283). -/
def fecLimit : Nat := 671
/-- Lines of a snapshot cache of 256 KiB and of a copse cache of 8 MiB (R1). -/
def snapLines : Nat := 4096
def copseLines : Nat := 131072
/-- The 1 KiB granule, line and sector sizes of the memory system (R129, R172, R184). -/
def lineBytes : Nat := 64
def sectorBytes : Nat := 32
def granuleBytes : Nat := 32
/-- Where the tags of the memory granules live beside the 52-bit physical space (log entry 9):
the tag of granule g is the low nibble of the byte at `tagBase + g`. -/
def tagBase : Nat := 2 ^ 52
/-- A byte that the spec leaves open: nothing is known of it (log entries 33 and 37). -/
opaque freeByte : Nat → Byte

end Sys2Proof.Config
end

