-- ==== Sys2Proof/Machine/Map.lean ====
section
/-! DEFINITION. Sparse data by a number: a list of (key, value) pairs in one canonical form, keys strictly rising and no
value equal to the value an unlisted key reads as. Memory, register files and the tables of the machine are kept so. -/

namespace Sys2Proof

/-- Sparse data keyed by a number. -/
abbrev SMap (α : Type) := List (Nat × α)

namespace SMap
variable {α : Type}

/-- The value at `k`; `d` where `k` is not listed. -/
def get (d : α) : SMap α → Nat → α
  | [], _ => d
  | (k', v) :: t, k => if k = k' then v else get d t k

/-- The value at `k`, if listed. -/
def get? : SMap α → Nat → Option α
  | [], _ => none
  | (k', v) :: t, k => if k = k' then some v else get? t k

/-- Put `v` at `k`, in key order. -/
def insert : SMap α → Nat → α → SMap α
  | [], k, v => [(k, v)]
  | (k', v') :: t, k, v =>
    if k < k' then (k, v) :: (k', v') :: t
    else if k = k' then (k, v) :: t
    else (k', v') :: insert t k v

/-- Take `k` out. -/
def erase : SMap α → Nat → SMap α
  | [], _ => []
  | (k', v') :: t, k => if k = k' then erase t k else (k', v') :: erase t k

/-- Write `v` at `k`, keeping the canonical form over the default `d`: writing `d` takes the entry out. -/
def set [DecidableEq α] (d : α) (m : SMap α) (k : Nat) (v : α) : SMap α :=
  if v = d then erase m k else insert m k v

/-- Every listed key is above `lo`, and keys rise strictly. -/
def sortedFrom : Nat → SMap α → Bool
  | _, [] => true
  | lo, (k, _) :: t => decide (lo ≤ k) && sortedFrom (k + 1) t

/-- The canonical form: keys strictly rising, no listed value equal to `d`. -/
def wf [DecidableEq α] (d : α) (m : SMap α) : Bool :=
  sortedFrom 0 m && m.all fun kv => decide (kv.2 ≠ d)

/-- Write a list of values at consecutive keys. -/
def setMany [DecidableEq α] (d : α) : SMap α → Nat → List α → SMap α
  | m, _, [] => m
  | m, k, v :: vs => setMany d (set d m k v) (k + 1) vs

/-- Read `n` values at consecutive keys. -/
def getMany (d : α) (m : SMap α) (k : Nat) : Nat → List α
  | 0 => []
  | n + 1 => get d m k :: getMany d m (k + 1) n

/-- Write a list of (key, value) pairs, in order. -/
def setAll [DecidableEq α] (d : α) : SMap α → List (Nat × α) → SMap α
  | m, [] => m
  | m, (k, v) :: t => setAll d (set d m k v) t

/-- Change the value at a listed key; a key that is not listed is left alone. -/
def modify (m : SMap α) (k : Nat) (f : α → α) : SMap α :=
  match get? m k with
  | some v => insert m k (f v)
  | none => m

/-- The canonical map of a function over the keys `0, …, n - 1`. -/
def tabulate [DecidableEq α] (d : α) (f : Nat → α) : Nat → Nat → SMap α
  | _, 0 => []
  | k, n + 1 => if f k = d then tabulate d f (k + 1) n else (k, f k) :: tabulate d f (k + 1) n

/-- The listed keys. -/
def keys (m : SMap α) : List Nat := m.map (·.1)

/-- The lowest key of `lo, lo + 1, …, lo + n - 1` that is not listed. -/
def lowestFree (m : SMap α) (lo : Nat) : Nat → Option Nat
  | 0 => none
  | n + 1 => if (get? m lo).isNone then some lo else lowestFree m (lo + 1) n

end SMap
end Sys2Proof
end

