-- ==== Sys2Proof/Machine/Bits.lean ====
section
/-! DEFINITION. Bit-level helpers: lengths, counts, reversal, sign extension, byte lists in little-endian order (R2), and
lane masks (R10, R17). -/

namespace Sys2Proof.Machine

/-- Number of binary digits of `m`; 0 for 0. -/
def bitLen (m : Nat) : Nat := if m = 0 then 0 else Nat.log2 m + 1

/-- Number of ones among the low `n` bits of `x`. -/
def popNat (x : Nat) : Nat → Nat
  | 0 => 0
  | n + 1 => popNat x n + (if x.testBit n then 1 else 0)

/-- Count of ones of a word (R350). -/
def popcount (w : Word) : Nat := popNat w.toNat 32

/-- Bit i of the result is bit `n - 1 - i` of `x` (R316). -/
def revNat (x : Nat) : Nat → Nat → Nat
  | _, 0 => 0
  | n, k + 1 => revNat x n k + (if x.testBit (n - 1 - k) then 2 ^ k else 0)

/-- The low `n` bits of `x` as a two's complement number (R93). -/
def signed (n x : Nat) : Int :=
  let y := x % 2 ^ n
  if y < 2 ^ (n - 1) then Int.ofNat y else Int.ofNat y - Int.ofNat (2 ^ n)

/-- An integer reduced to `n` bits. -/
def wrap (n : Nat) (i : Int) : Nat := (i % Int.ofNat (2 ^ n)).toNat

/-- The number made of little-endian bytes (R2). -/
def leNat : List Byte → Nat
  | [] => 0
  | b :: bs => b.toNat + 256 * leNat bs

/-- The low `n` bytes of a number, little-endian (R2). -/
def natLe (x : Nat) : Nat → List Byte
  | 0 => []
  | n + 1 => BitVec.ofNat 8 x :: natLe (x / 256) n

/-- `0, 1, …, n - 1` from `k`. -/
def upFrom (k : Nat) : Nat → List Nat
  | 0 => []
  | n + 1 => k :: upFrom (k + 1) n

/-- Lanes 0 to 31, ascending (R10). -/
def lanes : List Nat := upFrom 0 32

/-- The lanes of a mask, ascending. -/
def Mask.toList (m : Mask) : List Nat := lanes.filter fun l => m.getLsbD l

/-- The mask of a list of lanes. -/
def maskOf (ls : List Nat) : Mask := ls.foldl (fun m l => m ||| BitVec.ofNat 32 (2 ^ l)) 0

/-- The mask of the lanes where `f` holds. -/
def maskWhere (f : Nat → Bool) : Mask := maskOf (lanes.filter f)

/-- The lowest lane of a mask. -/
def Mask.first (m : Mask) : Option Nat := (Mask.toList m).head?

/-- Round `n` up to a multiple of `k`. -/
def roundUp (n k : Nat) : Nat := (n + k - 1) / k * k

/-- The ceiling of `n / k`. -/
def ceilDiv (n k : Nat) : Nat := (n + k - 1) / k

/-- Bits `[hi:lo]` of a dword, as a number. -/
def DWord.bits (x : DWord) (hi lo : Nat) : Nat := (x.toNat >>> lo) % 2 ^ (hi + 1 - lo)

/-- `n` at bits from `lo` up. -/
def field (n lo : Nat) : Nat := n * 2 ^ lo

/-- A dword from a number. -/
def dw (n : Nat) : DWord := BitVec.ofNat 64 n

/-- A word from a number. -/
def wd (n : Nat) : Word := BitVec.ofNat 32 n

/-- The low half of a dword. -/
def lo32 (x : DWord) : Word := x.setWidth 32

/-- Bit of a Bool. -/
def b2n (b : Bool) : Nat := if b then 1 else 0

end Sys2Proof.Machine
end

