-- ==== Sys2Proof/Machine/Float.lean ====
section
/-! DEFINITION. The element formats, exact values, rounding, conversion, codebook decoding and arithmetic of
spec/04_numbers.md (R89–R114) and of the lane instructions that use them (R329–R336). -/

namespace Sys2Proof.Machine

/-- Element-type codes (R89). -/
abbrev ET.b32 : Nat := 0
abbrev ET.fp32 : Nat := 1
abbrev ET.fp16 : Nat := 2
abbrev ET.bf16 : Nat := 3
abbrev ET.e4m3 : Nat := 4
abbrev ET.e5m2 : Nat := 5
abbrev ET.e2m1 : Nat := 6
abbrev ET.i32 : Nat := 7
abbrev ET.i16 : Nat := 8
abbrev ET.i8 : Nat := 9
abbrev ET.i4 : Nat := 10
abbrev ET.u32 : Nat := 11
abbrev ET.u16 : Nat := 12
abbrev ET.u8 : Nat := 13
abbrev ET.cb2 : Nat := 14
abbrev ET.ue8 : Nat := 15

/-- Rounding-mode codes (R107). -/
abbrev RM.rne : Nat := 0
abbrev RM.rtz : Nat := 1
abbrev RM.rdn : Nat := 2
abbrev RM.rup : Nat := 3
abbrev RM.rna : Nat := 4

/-- Bits of an element; a CB2 index has 16 (R89, R90). -/
def etBits (et : Nat) : Nat :=
  match et with
  | 0 | 1 | 7 | 11 => 32
  | 2 | 3 | 8 | 12 | 14 => 16
  | 6 | 10 => 4
  | _ => 8

/-- Whether the format is signed two's complement (R93). -/
def etSigned (et : Nat) : Bool := et == 7 || et == 8 || et == 9 || et == 10

/-- Whether the format is an integer format (R89). -/
def etInt (et : Nat) : Bool := decide (7 ≤ et ∧ et ≤ 13)

/-- Whether the format is one of the floating formats of R91. -/
def etFloat (et : Nat) : Bool := decide (1 ≤ et ∧ et ≤ 6)

/-- The exact value of an element: a NaN, an infinity, or (−1)^neg × m × 2^e (R91). -/
inductive FVal where
  | nan
  | inf (neg : Bool)
  | fin (neg : Bool) (m : Nat) (e : Int)
  deriving DecidableEq, Repr

/-- Which codes of a floating format are special (R91). -/
inductive FStyle where
  /-- Infinities and NaNs at the largest exponent. -/
  | ieee
  /-- NaN only, at the largest exponent and fraction (E4M3). -/
  | nanOnly
  /-- Neither (E2M1). -/
  | none
  deriving DecidableEq, Repr

/-- A floating format (R91). -/
structure FloatFmt where
  ebits : Nat
  fbits : Nat
  bias  : Nat
  style : FStyle
  deriving DecidableEq, Repr

/-- The floating formats of R91. -/
def floatFmt (et : Nat) : FloatFmt :=
  match et with
  | 2 => ⟨5, 10, 15, .ieee⟩
  | 3 => ⟨8, 7, 127, .ieee⟩
  | 4 => ⟨4, 3, 7, .nanOnly⟩
  | 5 => ⟨5, 2, 15, .ieee⟩
  | 6 => ⟨2, 1, 1, .none⟩
  | _ => ⟨8, 23, 127, .ieee⟩

/-- The canonical NaN of a format; 0 where it has none (R91, R94). -/
def nanCode (et : Nat) : Nat :=
  match et with
  | 1 => 0x7FC00000
  | 2 => 0x7E00
  | 3 => 0x7FC0
  | 4 => 0x7F
  | 5 => 0x7E
  | 15 => 0xFF
  | _ => 0

/-- Whether the format has NaN codes (R104). -/
def hasNan (et : Nat) : Bool := et == 1 || et == 2 || et == 3 || et == 4 || et == 5 || et == 15

/-- Largest finite code of a floating format without its sign (R91). -/
def FloatFmt.maxCode (f : FloatFmt) : Nat :=
  match f.style with
  | .ieee => (2 ^ f.ebits - 1) * 2 ^ f.fbits - 1
  | .nanOnly => 2 ^ (f.ebits + f.fbits) - 2
  | .none => 2 ^ (f.ebits + f.fbits) - 1

/-- The infinity code of a format that has infinities, without its sign. -/
def FloatFmt.infCode (f : FloatFmt) : Nat := (2 ^ f.ebits - 1) * 2 ^ f.fbits

/-- A code with its sign. -/
def FloatFmt.withSign (f : FloatFmt) (neg : Bool) (c : Nat) : Nat := (if neg then 2 ^ (f.ebits + f.fbits) else 0) + c

/-- The value of a code of a floating format (R91, R92). -/
def FloatFmt.decode (f : FloatFmt) (c : Nat) : FVal :=
  let neg := c.testBit (f.ebits + f.fbits)
  let e := (c >>> f.fbits) % 2 ^ f.ebits
  let x := c % 2 ^ f.fbits
  let top := 2 ^ f.ebits - 1
  if f.style = .ieee ∧ e = top then (if x = 0 then .inf neg else .nan)
  else if f.style = .nanOnly ∧ e = top ∧ x = 2 ^ f.fbits - 1 then .nan
  else if e = 0 then .fin neg x (1 - (f.bias : Int) - f.fbits)
  else .fin neg (2 ^ f.fbits + x) ((e : Int) - f.bias - f.fbits)

/-- The value of an element of format `et` in the low bits of `c` (R90–R94). B32 and CB2 codes are no values; they never
reach this function. -/
def decodeVal (et c : Nat) : FVal :=
  if etInt et then
    let n := etBits et
    let i : Int := if etSigned et then signed n c else Int.ofNat (c % 2 ^ n)
    .fin (decide (i < 0)) i.natAbs 0
  else if et = ET.ue8 then
    if c % 256 = 255 then .nan else .fin false 1 (Int.ofNat (c % 256) - 127)
  else (floatFmt et).decode c

/-- A result code with the flags it sets (R109): bit 0 NV, 1 OF, 2 UF, 3 NX. -/
structure Res where
  code  : Nat
  flags : BitVec 4 := 0
  deriving DecidableEq, Repr

abbrev Flag.nv : BitVec 4 := 1
abbrev Flag.ovf : BitVec 4 := 2
abbrev Flag.unf : BitVec 4 := 4
abbrev Flag.nx : BitVec 4 := 8

/-- `m / 2^sh` rounded to a whole number under a rounding mode, and whether it was inexact (R107). -/
def shrRound (rm : Nat) (neg : Bool) (m : Nat) (sh : Int) : Nat × Bool :=
  if sh ≤ 0 then (m * 2 ^ (-sh).toNat, false)
  else
    let k := sh.toNat
    let q := m >>> k
    let r := m % 2 ^ k
    if r = 0 then (q, false)
    else
      let half := 2 ^ (k - 1)
      let up :=
        if rm = RM.rne then decide (half < r) || (decide (r = half) && decide (q % 2 = 1))
        else if rm = RM.rna then decide (half ≤ r)
        else if rm = RM.rup then !neg
        else if rm = RM.rdn then neg
        else false
      (if up then q + 1 else q, true)

/-- A nonzero finite value rounded to a floating format with the exponent unbounded above (R102, R108): the code without
its sign, which may lie above `maxCode`; the flags NX and UF (R109). -/
def FloatFmt.round (f : FloatFmt) (rm : Nat) (neg : Bool) (m : Nat) (e : Int) : Nat × BitVec 4 :=
  let top : Int := e + bitLen m - 1
  let emin : Int := 1 - (f.bias : Int)
  let q : Int := (if top < emin then emin else top) - f.fbits
  let (r, inex) := shrRound rm neg m (q - e)
  let tiny := decide (top < emin) &&
    (let (r2, _) := shrRound rm neg m (top - f.fbits - e)
     decide (top + (if r2 = 2 ^ (f.fbits + 1) then 1 else 0) < emin))
  -- the code of r × 2^q: a carry out of the fraction moves into the exponent by itself
  let code := if r < 2 ^ f.fbits then r else ((q + f.fbits + f.bias - 1).toNat) * 2 ^ f.fbits + r
  (code, (if inex then Flag.nx else 0) ||| (if inex && tiny then Flag.unf else 0))

/-- A value written in a floating format: rounded once, with saturation (R103) or the overflow of IEEE 754 (R108). -/
def encodeFloat (et rm : Nat) (sat : Bool) (v : FVal) : Res :=
  let f := floatFmt et
  match v with
  | .nan => if hasNan et then ⟨nanCode et, 0⟩ else ⟨0, Flag.nv⟩
  | .inf neg =>
    if sat || decide (f.style ≠ .ieee) then ⟨f.withSign neg f.maxCode, Flag.ovf ||| Flag.nx⟩
    else ⟨f.withSign neg f.infCode, 0⟩
  | .fin neg m e =>
    if m = 0 then ⟨f.withSign neg 0, 0⟩
    else
      let (c, fl) := f.round rm neg m e
      if c ≤ f.maxCode then ⟨f.withSign neg c, fl⟩
      else
        let toInf := !sat && decide (f.style = .ieee) &&
          (rm == RM.rne || rm == RM.rna || (rm == RM.rup && !neg) || (rm == RM.rdn && neg))
        ⟨f.withSign neg (if toInf then f.infCode else f.maxCode), fl ||| Flag.ovf ||| Flag.nx⟩

/-- A value written in an integer format, saturating (R102–R105). -/
def encodeInt (et rm : Nat) (v : FVal) : Res :=
  let n := etBits et
  let hi : Int := if etSigned et then Int.ofNat (2 ^ (n - 1)) - 1 else Int.ofNat (2 ^ n) - 1
  let lo : Int := if etSigned et then - Int.ofNat (2 ^ (n - 1)) else 0
  match v with
  | .nan => ⟨0, Flag.nv⟩
  | .inf neg => ⟨wrap n (if neg then lo else hi), Flag.ovf ||| Flag.nx⟩
  | .fin neg m e =>
    let (q, inex) := shrRound rm neg m (-e)
    let i : Int := if neg then - Int.ofNat q else Int.ofNat q
    if hi < i then ⟨wrap n hi, Flag.ovf ||| Flag.nx⟩
    else if i < lo then ⟨wrap n lo, Flag.ovf ||| Flag.nx⟩
    else ⟨wrap n i, if inex then Flag.nx else 0⟩

/-- A value written as UE8 (R106). DEDUCED: −∞ is a negative value, and only a rounded value above 2^127 overflows (log
entry 20). A value at or below 2^-128 underflows in every rounding mode: it is rounded with its exponent unbounded (DEDUCED; log entry 89). -/
def encodeUe8 (rm : Nat) (v : FVal) : Res :=
  match v with
  | .nan => ⟨0xFF, 0⟩
  | .inf true => ⟨0, Flag.unf ||| Flag.nx ||| Flag.nv⟩
  | .inf false => ⟨0xFE, Flag.ovf ||| Flag.nx⟩
  | .fin neg m e =>
    if m = 0 then ⟨0, Flag.unf ||| Flag.nx⟩
    else if neg then ⟨0, Flag.unf ||| Flag.nx ||| Flag.nv⟩
    else
      let b := bitLen m
      let n : Int := e + b - 1
      let exact := decide (m = 2 ^ (b - 1))
      let up := !exact && (rm == RM.rup || ((rm == RM.rne || rm == RM.rna) && decide (3 * 2 ^ (b - 1) ≤ 2 * m)))
      let k : Int := if up then n + 1 else n
      if k < -127 then ⟨0, Flag.unf ||| Flag.nx⟩
      else if 127 < k then ⟨0xFE, Flag.ovf ||| Flag.nx⟩
      else ⟨(k + 127).toNat, if exact then 0 else Flag.nx⟩

/-- A value written in the format `et`. -/
def encodeVal (et rm : Nat) (sat : Bool) (v : FVal) : Res :=
  if etInt et then encodeInt et rm v
  else if et = ET.ue8 then encodeUe8 rm v
  else encodeFloat et rm sat v

/-- A block scale as an element carries it: none, NaN, or the power of two (R94, R101). -/
inductive Scale where
  | none
  | nan
  | pow (k : Int)
  deriving DecidableEq, Repr

/-- The scale a UE8 byte stands for (R94). -/
def Scale.ofCode (c : Nat) : Scale := if c % 256 = 255 then .nan else .pow (Int.ofNat (c % 256) - 127)

/-- The exact product of a value and a scale (R101). -/
def FVal.scaled (v : FVal) : Scale → FVal
  | .none => v
  | .nan => .nan
  | .pow k =>
    match v with
    | .fin neg m e => .fin neg m (e + k)
    | w => w

/-- Conversion from format `x` to format `y` (R102–R106). CB2 never reaches it (R58). -/
def convert (x y rm : Nat) (sc : Scale) (c : Nat) : Res :=
  if x = ET.b32 ∨ y = ET.b32 then ⟨c % 2 ^ 32, 0⟩
  else if x = y ∧ sc = .none then
    ⟨if decodeVal x c = .nan then nanCode y else c % 2 ^ etBits y, 0⟩
  else encodeVal y rm true ((decodeVal x c).scaled sc)

/-- What a register holds after an element of format `et` is written (R90). -/
def fillReg (et c : Nat) : Word :=
  if etSigned et then BitVec.ofInt 32 (signed (etBits et) c) else wd (c % 2 ^ etBits et)

/-- The eight values of a CB2 index under a table row, unscaled (R95). -/
def cb2Values (x row : Nat) : List FVal :=
  let h := x % 2
  let par := popNat (x >>> 1) 7 % 2
  (upFrom 0 8).map fun j =>
    let s := if j = 7 then decide (par = 1) else x.testBit (j + 1)
    let m := 2 * ((row >>> (4 * j)) % 16) + h
    .fin (s && decide (m ≠ 0)) m (-1)

/-- Negation. -/
def FVal.neg : FVal → FVal
  | .nan => .nan
  | .inf s => .inf (!s)
  | .fin s m e => .fin (!s) m e

/-- The exact product; `none` for 0 × ∞ (R330). NaN inputs are sorted out before. -/
def FVal.mul (x y : FVal) : Option FVal :=
  match x, y with
  | .nan, _ => some .nan
  | _, .nan => some .nan
  | .inf s, .inf t => some (.inf (s != t))
  | .inf s, .fin t m _ => if m = 0 then none else some (.inf (s != t))
  | .fin s m _, .inf t => if m = 0 then none else some (.inf (s != t))
  | .fin s m e, .fin t n k => some (.fin (s != t) (m * n) (e + k))

/-- The signed multiple of 2^e0 that a finite value is. -/
def FVal.at (e0 : Int) : FVal → Int
  | .fin s m e =>
    let x := Int.ofNat (m * 2 ^ (e - e0).toNat)
    if s then -x else x
  | _ => 0

/-- The least exponent of the nonzero finite values of a list. -/
def minExp : List FVal → Option Int
  | [] => none
  | .fin _ m e :: t =>
    if m = 0 then minExp t
    else match minExp t with
      | none => some e
      | some k => some (if e < k then e else k)
  | _ :: t => minExp t

/-- Whether some value of the list is a NaN. -/
def anyNan (vs : List FVal) : Bool := vs.any (· == .nan)

/-- The exact sum of a list of values without NaN; `none` for infinities of both signs; the sign of a zero sum by R330. -/
def exactSum (rm : Nat) (vs : List FVal) : Option FVal :=
  let pos := vs.any (· == .inf false)
  let neg := vs.any (· == .inf true)
  if pos && neg then none
  else if pos then some (.inf false)
  else if neg then some (.inf true)
  else
    let zero : FVal := .fin (decide (rm = RM.rdn)) 0 0
    match minExp vs with
    | none =>
      let signs := vs.map fun v => match v with | .fin s _ _ => s | _ => false
      if signs.all (· == true) then some (.fin true 0 0)
      else if signs.all (· == false) then some (.fin false 0 0)
      else some zero
    | some e0 =>
      let t : Int := vs.foldl (fun a v => a + v.at e0) 0
      if t = 0 then some zero else some (.fin (decide (t < 0)) t.natAbs e0)

/-- The result of an exact computation that may be invalid, rounded once (R108). -/
def finish (et rm : Nat) (v : Option FVal) : Res :=
  match v with
  | none => ⟨nanCode et, Flag.nv⟩
  | some v => encodeFloat et rm false v

/-- FADD (R330). -/
def fpAdd (et rm a b : Nat) : Res :=
  let x := decodeVal et a
  let y := decodeVal et b
  if anyNan [x, y] then ⟨nanCode et, 0⟩ else finish et rm (exactSum rm [x, y])

/-- FSUB (R330). -/
def fpSub (et rm a b : Nat) : Res :=
  let x := decodeVal et a
  let y := decodeVal et b
  if anyNan [x, y] then ⟨nanCode et, 0⟩ else finish et rm (exactSum rm [x, y.neg])

/-- FMUL (R330). -/
def fpMul (et rm a b : Nat) : Res :=
  let x := decodeVal et a
  let y := decodeVal et b
  if anyNan [x, y] then ⟨nanCode et, 0⟩ else finish et rm (x.mul y)

/-- FFMA: a × b + c, rounded once (R111, R334). -/
def fpFma (et rm a b c : Nat) : Res :=
  let x := decodeVal et a
  let y := decodeVal et b
  let z := decodeVal et c
  if anyNan [x, y, z] then ⟨nanCode et, 0⟩
  else finish et rm (match x.mul y with | none => none | some p => exactSum rm [p, z])

/-- FDP2: two products of halves and the FP32 addend, rounded once to FP32 (R111, R333). -/
def fpDp2 (et rm a b d : Nat) : Res :=
  let a0 := decodeVal et (a % 2 ^ 16)
  let a1 := decodeVal et (a >>> 16)
  let b0 := decodeVal et (b % 2 ^ 16)
  let b1 := decodeVal et (b >>> 16)
  let z := decodeVal ET.fp32 d
  if anyNan [a0, a1, b0, b1, z] then ⟨nanCode ET.fp32, 0⟩
  else finish ET.fp32 rm (match a0.mul b0, a1.mul b1 with
    | some p, some q => exactSum rm [p, q, z]
    | _, _ => none)

/-- Three-way comparison of values that are not NaN, −0 equal to +0: negative, zero or positive. -/
def FVal.cmp (x y : FVal) : Int :=
  match x, y with
  | .inf s, .inf t => (if s then -1 else 1) - (if t then -1 else 1)
  | .inf s, _ => if s then -1 else 1
  | _, .inf t => if t then 1 else -1
  | _, _ =>
    let e0 := (minExp [x, y]).getD 0
    x.at e0 - y.at e0

/-- Comparison with −0 below +0 (R335). -/
def FVal.cmpZ (x y : FVal) : Int :=
  let c := x.cmp y
  if c = 0 then
    match x, y with
    | .fin s _ _, .fin t _ _ => if s && !t then -1 else if !s && t then 1 else 0
    | _, _ => 0
  else c

/-- The conditions of FSET (R336). -/
def fpCond (et c a b : Nat) : Bool :=
  let x := decodeVal et a
  let y := decodeVal et b
  if anyNan [x, y] then c == 1 || c == 6
  else
    let k := x.cmp y
    match c with
    | 0 => decide (k = 0)
    | 1 => decide (k ≠ 0)
    | 2 => decide (k < 0)
    | 3 => decide (k ≤ 0)
    | 4 => decide (0 < k)
    | 5 => decide (0 ≤ k)
    | 6 => false
    | _ => true

/-- The lesser or greater of two elements, as codes of the format (R335; R325 for the integer formats). -/
def elemMinMax (et : Nat) (max : Bool) (a b : Nat) : Nat :=
  let n := etBits et
  let a := a % 2 ^ n
  let b := b % 2 ^ n
  if etFloat et then
    let x := decodeVal et a
    let y := decodeVal et b
    if anyNan [x, y] then nanCode et
    else
      let k := x.cmpZ y
      if max then (if 0 ≤ k then a else b) else (if k ≤ 0 then a else b)
  else
    let x : Int := if etSigned et then signed n a else Int.ofNat a
    let y : Int := if etSigned et then signed n b else Int.ofNat b
    if max then (if y ≤ x then a else b) else (if x ≤ y then a else b)

/-- FABS and FNEG (R329). -/
def fpSign (et : Nat) (neg : Bool) (a : Nat) : Nat :=
  let n := etBits et
  let a := a % 2 ^ n
  if decodeVal et a = .nan then nanCode et
  else
    let s := a.testBit (n - 1)
    let m := a % 2 ^ (n - 1)
    if neg then (if s then m else m + 2 ^ (n - 1)) else m

/-- The sum of one chunk of an MMA added to an FP32 accumulator under RNE: a zero chunk adds +0 (R114). -/
def accAdd (d : Nat) (t : Option FVal) : Res :=
  match t, decodeVal ET.fp32 d with
  | some .nan, _ => ⟨nanCode ET.fp32, 0⟩
  | _, .nan => ⟨nanCode ET.fp32, 0⟩
  | none, _ => ⟨nanCode ET.fp32, Flag.nv⟩
  | some (.fin _ 0 _), x => finish ET.fp32 RM.rne (exactSum RM.rne [x, .fin false 0 0])
  | some v, x => finish ET.fp32 RM.rne (exactSum RM.rne [x, v])

end Sys2Proof.Machine
end

