-- ==== Sys2Proof/Machine/Hash.lean ====
section
/-! DEFINITION. The three digests of the spec: CRC-32C of headers and images (R76, R260), SipHash-2-4 of handles (R204) and
SHA-384 of firmware images (R291; the algorithm of FIPS 180-4, which the rule names). -/

namespace Sys2Proof.Machine

/-- Eight steps of the reflected CRC-32C register (polynomial 0x82F63B78). -/
def crcBits (c : Nat) : Nat → Nat
  | 0 => c
  | n + 1 => crcBits (if c % 2 = 1 then (c / 2) ^^^ 0x82F63B78 else c / 2) n

/-- CRC-32C: reflected, initial value and final XOR 0xFFFF_FFFF (R76). -/
def crc32c (bs : List Byte) : Nat := (bs.foldl (fun c b => crcBits (c ^^^ b.toNat) 8) 0xFFFFFFFF) ^^^ 0xFFFFFFFF

namespace Sip

/-- The four words of the SipHash state. -/
structure S where
  v0 : DWord
  v1 : DWord
  v2 : DWord
  v3 : DWord

/-- One SipRound. -/
def round (s : S) : S :=
  let v0 := s.v0 + s.v1
  let v1 := (s.v1.rotateLeft 13) ^^^ v0
  let v0 := v0.rotateLeft 32
  let v2 := s.v2 + s.v3
  let v3 := (s.v3.rotateLeft 16) ^^^ v2
  let v0 := v0 + v3
  let v3 := (v3.rotateLeft 21) ^^^ v0
  let v2 := v2 + v1
  let v1 := (v1.rotateLeft 17) ^^^ v2
  let v2 := v2.rotateLeft 32
  ⟨v0, v1, v2, v3⟩

/-- Two rounds between taking a block in. -/
def block (s : S) (m : DWord) : S :=
  let t := round (round { s with v3 := s.v3 ^^^ m })
  { t with v0 := t.v0 ^^^ m }

end Sip

/-- SipHash-2-4 of one 8-byte block under the key (k0, k1) (R204). -/
def sipHash (k0 k1 m : DWord) : DWord :=
  let s : Sip.S := ⟨k0 ^^^ 0x736f6d6570736575#64, k1 ^^^ 0x646f72616e646f6d#64, k0 ^^^ 0x6c7967656e657261#64, k1 ^^^ 0x7465646279746573#64⟩
  let s := Sip.block (Sip.block s m) 0x0800000000000000#64
  let s := Sip.round (Sip.round (Sip.round (Sip.round { s with v2 := s.v2 ^^^ 0xff#64 })))
  s.v0 ^^^ s.v1 ^^^ s.v2 ^^^ s.v3

namespace Sha

/-- The round constants: the first 64 fraction bits of the cube roots of the first 80 primes. -/
def k : List DWord := (
  [0x428A2F98D728AE22, 0x7137449123EF65CD, 0xB5C0FBCFEC4D3B2F, 0xE9B5DBA58189DBBC,
   0x3956C25BF348B538, 0x59F111F1B605D019, 0x923F82A4AF194F9B, 0xAB1C5ED5DA6D8118,
   0xD807AA98A3030242, 0x12835B0145706FBE, 0x243185BE4EE4B28C, 0x550C7DC3D5FFB4E2,
   0x72BE5D74F27B896F, 0x80DEB1FE3B1696B1, 0x9BDC06A725C71235, 0xC19BF174CF692694] ++
  [0xE49B69C19EF14AD2, 0xEFBE4786384F25E3, 0x0FC19DC68B8CD5B5, 0x240CA1CC77AC9C65,
   0x2DE92C6F592B0275, 0x4A7484AA6EA6E483, 0x5CB0A9DCBD41FBD4, 0x76F988DA831153B5,
   0x983E5152EE66DFAB, 0xA831C66D2DB43210, 0xB00327C898FB213F, 0xBF597FC7BEEF0EE4,
   0xC6E00BF33DA88FC2, 0xD5A79147930AA725, 0x06CA6351E003826F, 0x142929670A0E6E70] ++
  [0x27B70A8546D22FFC, 0x2E1B21385C26C926, 0x4D2C6DFC5AC42AED, 0x53380D139D95B3DF,
   0x650A73548BAF63DE, 0x766A0ABB3C77B2A8, 0x81C2C92E47EDAEE6, 0x92722C851482353B,
   0xA2BFE8A14CF10364, 0xA81A664BBC423001, 0xC24B8B70D0F89791, 0xC76C51A30654BE30,
   0xD192E819D6EF5218, 0xD69906245565A910, 0xF40E35855771202A, 0x106AA07032BBD1B8] ++
  [0x19A4C116B8D2D0C8, 0x1E376C085141AB53, 0x2748774CDF8EEB99, 0x34B0BCB5E19B48A8,
   0x391C0CB3C5C95A63, 0x4ED8AA4AE3418ACB, 0x5B9CCA4F7763E373, 0x682E6FF3D6B2B8A3,
   0x748F82EE5DEFB2FC, 0x78A5636F43172F60, 0x84C87814A1F0AB72, 0x8CC702081A6439EC,
   0x90BEFFFA23631E28, 0xA4506CEBDE82BDE9, 0xBEF9A3F7B2C67915, 0xC67178F2E372532B] ++
  [0xCA273ECEEA26619C, 0xD186B8C721C0C207, 0xEADA7DD6CDE0EB1E, 0xF57D4F7FEE6ED178,
   0x06F067AA72176FBA, 0x0A637DC5A2C898A6, 0x113F9804BEF90DAE, 0x1B710B35131C471B,
   0x28DB77F523047D84, 0x32CAAB7B40C72493, 0x3C9EBE0A15C9BEBC, 0x431D67C49C100D4C,
   0x4CC5D4BECB3E42B6, 0x597F299CFC657E2A, 0x5FCB6FAB3AD6FAEC, 0x6C44198C4A475817] : List Nat).map dw

/-- The initial hash value of SHA-384. -/
def init : List DWord := ([
  0xCBBB9D5DC1059ED8, 0x629A292A367CD507, 0x9159015A3070DD17, 0x152FECD8F70E5939,
  0x67332667FFC00B31, 0x8EB44A8768581511, 0xDB0C2E0D64F98FA7, 0x47B5481DBEFA4FA4] : List Nat).map dw

def rotr (x : DWord) (n : Nat) : DWord := x.rotateRight n

/-- The message schedule grown to `n` more words; `w` holds the last 16 words, newest first. -/
def schedule : List DWord → Nat → List DWord
  | _, 0 => []
  | w, n + 1 =>
    let x2 := w.getD 1 0
    let x7 := w.getD 6 0
    let x15 := w.getD 14 0
    let x16 := w.getD 15 0
    let s0 := rotr x15 1 ^^^ rotr x15 8 ^^^ (x15 >>> 7)
    let s1 := rotr x2 19 ^^^ rotr x2 61 ^^^ (x2 >>> 6)
    let x := s1 + x7 + s0 + x16
    x :: schedule (x :: w.take 15) n

/-- One round on the working variables a to h. -/
def step (v : List DWord) (kw : DWord × DWord) : List DWord :=
  match v with
  | [a, b, c, d, e, f, g, h] =>
    let s1 := rotr e 14 ^^^ rotr e 18 ^^^ rotr e 41
    let t1 := h + s1 + ((e &&& f) ^^^ (~~~e &&& g)) + kw.1 + kw.2
    let s0 := rotr a 28 ^^^ rotr a 34 ^^^ rotr a 39
    let t2 := s0 + ((a &&& b) ^^^ (a &&& c) ^^^ (b &&& c))
    [t1 + t2, a, b, c, d + t1, e, f, g]
  | _ => v

/-- One block of 16 words. -/
def block (h : List DWord) (m : List DWord) : List DWord :=
  let w := m ++ schedule m.reverse 64
  (h.zip ((k.zip w).foldl step h)).map fun p => p.1 + p.2

/-- Big-endian words of a byte list. -/
def beWords : List Byte → List DWord
  | b0 :: b1 :: b2 :: b3 :: b4 :: b5 :: b6 :: b7 :: t => dw (leNat [b7, b6, b5, b4, b3, b2, b1, b0]) :: beWords t
  | _ => []

/-- All blocks of a word list; `n` bounds their number. -/
def blocks (h : List DWord) (ws : List DWord) : Nat → List DWord
  | 0 => h
  | n + 1 => if ws.isEmpty then h else blocks (block h (ws.take 16)) (ws.drop 16) n

end Sha

/-- SHA-384 of a byte list: 48 bytes (R291). -/
def sha384 (bs : List Byte) : List Byte :=
  let n := bs.length
  let zeros := (128 - (n + 17) % 128) % 128
  let padded := bs ++ [0x80#8] ++ List.replicate zeros 0 ++ (natLe (8 * n) 16).reverse
  let h := Sha.blocks Sha.init (Sha.beWords padded) (padded.length / 128)
  (h.take 6).flatMap fun w => (natLe w.toNat 8).reverse

end Sys2Proof.Machine
end

