-- ==== Sys2Proof/Syntax.lean ====
section
/-! DEFINITION. The instructions and steps of the Pelfold as syntax: one constructor of `Instr` for each row of
spec/opcode_table.json (spec/02_encoding.md R54–R57, spec/95_what_each_step_holds.md). -/

namespace Sys2Proof

/-- The VER field of a word that is an instruction; VER 3 is no instruction (R37, R58). -/
inductive Ver where
  | v0 | v1 | v2
  deriving DecidableEq, Repr

/-- VER and SCH of an instruction word (R36, R37). SCH is a hint that never changes a result (R38). -/
structure Hdr where
  ver : Ver
  sch : BitVec 2
  deriving DecidableEq, Repr

/-- What the device behind an I/O chain answers for the entry that completes (R238, R239):
the bytes it delivers (none for a write), or a failure with its own status byte after the bytes it delivered. Before that, in any order: packet `i` of an
RDMA entry, with the bytes that a read delivers (R290). -/
inductive DevResult where
  | done (bytes : List Byte)
  | failed (bytes : List Byte) (status : Byte)
  | packet (i : Nat) (bytes : List Byte)
  deriving DecidableEq, Repr

/-- The structures of the first row of R264's table. -/
inductive StandPart where
  | registers | predicates | scalars | handles | accumulators | operandSlots | pathTable | overflow
  deriving DecidableEq, Repr

/-- Where an uncorrectable error is found (R264). -/
inductive ErrLoc where
  /-- A structure that holds a stand's own state. -/
  | standSide (part : StandPart) (st : Nat)
  /-- A clean line of core `core`'s snapshot cache, or of copse `core`'s cache where `copse` is set. -/
  | cleanLine (copse : Bool) (core : Nat) (line : Nat)
  /-- A dirty cache line, main memory or a home slice: the sector at this physical address. -/
  | memory (pa : Nat)
  | scratchpad (grove : Nat)
  | residual (st : Nat) (slot : Nat)
  | drainEntry (op : Nat)
  | queueEntry (q : Nat) (k : Nat)
  | counterLine (pa : Nat)
  deriving DecidableEq, Repr

/-- What the targeted self-test of R267 tests: a physical core, or a 64 KiB frame of memory. -/
inductive TestTarget where
  | core (core : Nat)
  | frame (pa : Nat)
  deriving DecidableEq, Repr

/-- What a debugger halts: a stand or a grove (R272). -/
inductive HaltTarget where
  | stand (st : Nat)
  | grove (g : Nat)
  deriving DecidableEq, Repr

/-- A breakpoint: a kernel header and a word offset (R272). -/
structure Breakpoint where
  header : DWord
  pc     : BitVec 17
  deriving DecidableEq, Repr

/-- A watchpoint: a virtual range `[lo, lo + len)` of load kind, store kind or both (R134). -/
structure Watchpoint where
  lo     : Nat
  len    : Nat
  loads  : Bool
  stores : Bool
  deriving DecidableEq, Repr

/-- The instructions and the other indivisible steps of the Pelfold: one constructor for each row of
spec/opcode_table.json. The first 151 are the encoded instructions, with the header fields VER and SCH
(R37) and their operands by kind (R40); the other 101 are the operations and events of
spec/95_what_each_step_holds.md, which have no encoding: they reach the machine through `State.agenda`. -/
inductive Instr where
  /-- ILLEGAL (R58: a word with OP 0x00). -/
  | illegal (word : Word)
  /-- NOP (R352). -/
  | nop (h : Hdr)
  /-- BRA (R315). -/
  | bra (h : Hdr) (neg : Bool) (p : PReg) (tgt : BitVec 16) (jn : BitVec 16)
  /-- BRX (R317). -/
  | brx (h : Hdr) (n : BitVec 7) (a : VReg) (b : SReg)
  /-- JOIN (R15, R343). -/
  | join (h : Hdr)
  /-- CALL (R320). -/
  | call (h : Hdr) (d : SReg) (lit : Word)
  /-- RET (R359). -/
  | ret (h : Hdr) (a : SReg)
  /-- EXIT (R327). -/
  | exit (h : Hdr)
  /-- WAIT (R53). -/
  | wait (h : Hdr) (lit : Word)
  /-- YIELD (R377). -/
  | yield (h : Hdr)
  /-- SPAWN (R31, R368). -/
  | spawn (h : Hdr) (d : SReg) (a : SReg) (lit : Word)
  /-- TRAP (R258). -/
  | trap (h : Hdr) (a : SReg) (code : BitVec 7)
  /-- ERET (R258). -/
  | eret (h : Hdr)
  /-- BRK (R258). -/
  | brk (h : Hdr)
  /-- IDEM (R258). -/
  | idem (h : Hdr)
  /-- MODE (R46). -/
  | mode (h : Hdr) (msk : BitVec 7) (lit : Word)
  /-- IADD (R338). -/
  | iadd (h : Hdr) (d : VReg) (a : VReg) (b : VReg)
  /-- ISUB (R338). -/
  | isub (h : Hdr) (d : VReg) (a : VReg) (b : VReg)
  /-- IMUL (R338). -/
  | imul (h : Hdr) (d : VReg) (a : VReg) (b : VReg)
  /-- IMULH (R338). -/
  | imulh (h : Hdr) (d : VReg) (a : VReg) (b : VReg)
  /-- IMAD (R341). -/
  | imad (h : Hdr) (d : VReg) (a : VReg) (b : VReg)
  /-- IMIN (R338). -/
  | imin (h : Hdr) (d : VReg) (a : VReg) (b : VReg)
  /-- IMAX (R338). -/
  | imax (h : Hdr) (d : VReg) (a : VReg) (b : VReg)
  /-- AND (R313). -/
  | and (h : Hdr) (d : VReg) (a : VReg) (b : VReg)
  /-- OR (R353). -/
  | or (h : Hdr) (d : VReg) (a : VReg) (b : VReg)
  /-- XOR (R376). -/
  | xor (h : Hdr) (d : VReg) (a : VReg) (b : VReg)
  /-- SHL (R364). -/
  | shl (h : Hdr) (d : VReg) (a : VReg) (b : VReg)
  /-- SHR (R364). -/
  | shr (h : Hdr) (d : VReg) (a : VReg) (b : VReg)
  /-- SAR (R364). -/
  | sar (h : Hdr) (d : VReg) (a : VReg) (b : VReg)
  /-- ISET (R342). -/
  | iset (h : Hdr) (c : BitVec 3) (p : BitVec 4) (a : VReg) (b : VReg)
  /-- SEL (R365). -/
  | sel (h : Hdr) (d : VReg) (a : VReg) (p : PReg)
  /-- IDP4 (R340). -/
  | idp4 (h : Hdr) (d : VReg) (a : VReg) (b : VReg)
  /-- FADD (R330). -/
  | fadd (h : Hdr) (d : VReg) (a : VReg) (b : VReg)
  /-- FSUB (R330). -/
  | fsub (h : Hdr) (d : VReg) (a : VReg) (b : VReg)
  /-- FMUL (R330). -/
  | fmul (h : Hdr) (d : VReg) (a : VReg) (b : VReg)
  /-- FFMA (R334). -/
  | ffma (h : Hdr) (d : VReg) (a : VReg) (b : VReg)
  /-- FMIN (R335). -/
  | fmin (h : Hdr) (d : VReg) (a : VReg) (b : VReg)
  /-- FMAX (R335). -/
  | fmax (h : Hdr) (d : VReg) (a : VReg) (b : VReg)
  /-- FSET (R336). -/
  | fset (h : Hdr) (c : BitVec 3) (p : BitVec 4) (a : VReg) (b : VReg)
  /-- FDP2 (R333). -/
  | fdp2 (h : Hdr) (d : VReg) (a : VReg) (b : VReg)
  /-- MOV (R350). -/
  | mov (h : Hdr) (d : VReg) (a : VReg)
  /-- NOT (R350). -/
  | not (h : Hdr) (d : VReg) (a : VReg)
  /-- IABS (R337). -/
  | iabs (h : Hdr) (d : VReg) (a : VReg)
  /-- INEG (R337). -/
  | ineg (h : Hdr) (d : VReg) (a : VReg)
  /-- POPC (R350). -/
  | popc (h : Hdr) (d : VReg) (a : VReg)
  /-- CLZ (R316). -/
  | clz (h : Hdr) (d : VReg) (a : VReg)
  /-- BREV (R316). -/
  | brev (h : Hdr) (d : VReg) (a : VReg)
  /-- LRANK (R298). -/
  | lrank (h : Hdr) (d : VReg) (a : VReg)
  /-- LIDX (R348). -/
  | lidx (h : Hdr) (d : VReg)
  /-- FABS (R329). -/
  | fabs (h : Hdr) (d : VReg) (a : VReg)
  /-- FNEG (R329). -/
  | fneg (h : Hdr) (d : VReg) (a : VReg)
  /-- FRCP (R332). -/
  | frcp (h : Hdr) (d : VReg) (a : VReg)
  /-- FRSQ (R332). -/
  | frsq (h : Hdr) (d : VReg) (a : VReg)
  /-- FSQRT (R332). -/
  | fsqrt (h : Hdr) (d : VReg) (a : VReg)
  /-- FEXP2 (R332). -/
  | fexp2 (h : Hdr) (d : VReg) (a : VReg)
  /-- FLOG2 (R332). -/
  | flog2 (h : Hdr) (d : VReg) (a : VReg)
  /-- FSIN (R332). -/
  | fsin (h : Hdr) (d : VReg) (a : VReg)
  /-- FCOS (R332). -/
  | fcos (h : Hdr) (d : VReg) (a : VReg)
  /-- CVT (R324). -/
  | cvt (h : Hdr) (src : BitVec 4) (d : VReg) (a : VReg)
  /-- IADDK (R339). -/
  | iaddk (h : Hdr) (d : VReg) (a : VReg) (lit : Word)
  /-- MOVK (R351). -/
  | movk (h : Hdr) (d : VReg) (lit : Word)
  /-- CSRR (R321). -/
  | csrr (h : Hdr) (d : SReg) (n : BitVec 14)
  /-- CSRW (R321). -/
  | csrw (h : Hdr) (d : SReg) (n : BitVec 14)
  /-- PAND (R354). -/
  | pand (h : Hdr) (d : PReg) (a : PReg) (b : PReg)
  /-- POR (R354). -/
  | por (h : Hdr) (d : PReg) (a : PReg) (b : PReg)
  /-- PXOR (R354). -/
  | pxor (h : Hdr) (d : PReg) (a : PReg) (b : PReg)
  /-- PANDN (R354). -/
  | pandn (h : Hdr) (d : PReg) (a : PReg) (b : PReg)
  /-- P2S (R303). -/
  | p2s (h : Hdr) (d : SReg) (a : PReg)
  /-- S2P (R360). -/
  | s2p (h : Hdr) (d : PReg) (a : SReg)
  /-- LSHF (R344). -/
  | lshf (h : Hdr) (d : VReg) (a : VReg) (b : VReg)
  /-- LBCS (R344). -/
  | lbcs (h : Hdr) (d : VReg) (a : VReg) (lane : BitVec 5)
  /-- LMATCH (R297). -/
  | lmatch (h : Hdr) (d : VReg) (a : VReg)
  /-- LPFX (R299). -/
  | lpfx (h : Hdr) (d : VReg) (a : VReg) (excl : Bool)
  /-- LRED (R301). -/
  | lred (h : Hdr) (d : VReg) (a : VReg) (kind : BitVec 2)
  /-- LVOTE (R349). -/
  | lvote (h : Hdr) (kind : BitVec 2) (p : BitVec 4) (a : PReg)
  /-- XCHG (R218). -/
  | xchg (h : Hdr) (d : VReg) (a : VReg) (hd : HReg)
  /-- V2S (R361). -/
  | v2s (h : Hdr) (d : SReg) (a : VReg) (lane : BitVec 5)
  /-- S2V (R361). -/
  | s2v (h : Hdr) (d : VReg) (a : SReg) (hi : Bool)
  /-- SADD (R362). -/
  | sadd (h : Hdr) (d : SReg) (a : SReg) (b : SReg)
  /-- SSUB (R362). -/
  | ssub (h : Hdr) (d : SReg) (a : SReg) (b : SReg)
  /-- SMUL (R362). -/
  | smul (h : Hdr) (d : SReg) (a : SReg) (b : SReg)
  /-- SAND (R362). -/
  | sand (h : Hdr) (d : SReg) (a : SReg) (b : SReg)
  /-- SOR (R362). -/
  | sor (h : Hdr) (d : SReg) (a : SReg) (b : SReg)
  /-- SXOR (R362). -/
  | sxor (h : Hdr) (d : SReg) (a : SReg) (b : SReg)
  /-- SSHL (R362). -/
  | sshl (h : Hdr) (d : SReg) (a : SReg) (b : SReg)
  /-- SSHR (R362). -/
  | sshr (h : Hdr) (d : SReg) (a : SReg) (b : SReg)
  /-- SSET (R369). -/
  | sset (h : Hdr) (c : BitVec 3) (p : BitVec 4) (a : SReg) (b : SReg)
  /-- SMOVK (R363). -/
  | smovk (h : Hdr) (d : SReg) (lit : Word)
  /-- SADDK (R363). -/
  | saddk (h : Hdr) (d : SReg) (a : SReg) (lit : Word)
  /-- SLD (R366). -/
  | sld (h : Hdr) (d : SReg) (a : SReg)
  /-- SST (R366). -/
  | sst (h : Hdr) (d : SReg) (a : SReg)
  /-- LD (R345, R346). -/
  | ld (h : Hdr) (d : VReg) (a : VReg) (b : SReg)
  /-- ST (R370, R371). -/
  | st (h : Hdr) (d : VReg) (a : VReg) (b : SReg)
  /-- PREF (R355). -/
  | pref (h : Hdr) (copse : Bool) (a : VReg) (b : SReg)
  /-- PHASE (R172). -/
  | phase (h : Hdr) (kind : BitVec 2) (scope : BitVec 3)
  /-- ACVT (R123). -/
  | acvt (h : Hdr) (toGen : Bool) (win : BitVec 2) (d : VReg) (a : VReg)
  /-- AWIN (R124). -/
  | awin (h : Hdr) (d : PReg) (a : VReg) (kind : BitVec 2)
  /-- DISCARD (R135). -/
  | discard (h : Hdr) (a : SReg) (b : SReg)
  /-- AADD (R307, R308). -/
  | aadd (h : Hdr) (d : VReg) (a : VReg) (b : VReg)
  /-- AMIN (R307, R308). -/
  | amin (h : Hdr) (d : VReg) (a : VReg) (b : VReg)
  /-- AMAX (R307, R308). -/
  | amax (h : Hdr) (d : VReg) (a : VReg) (b : VReg)
  /-- AAND (R307, R308). -/
  | aand (h : Hdr) (d : VReg) (a : VReg) (b : VReg)
  /-- AOR (R307, R308). -/
  | aor (h : Hdr) (d : VReg) (a : VReg) (b : VReg)
  /-- AXOR (R307, R308). -/
  | axor (h : Hdr) (d : VReg) (a : VReg) (b : VReg)
  /-- AXCH (R307, R308). -/
  | axch (h : Hdr) (d : VReg) (a : VReg) (b : VReg)
  /-- ACAS (R307, R308). -/
  | acas (h : Hdr) (d : VReg) (a : VReg) (b : VReg)
  /-- TACC (R189). -/
  | tacc (h : Hdr) (d : AReg) (a : SReg) (lit : Word)
  /-- AST (R311). -/
  | ast (h : Hdr) (d : AReg) (a : SReg) (lit : Word)
  /-- ALD (R311). -/
  | ald (h : Hdr) (d : AReg) (a : SReg) (lit : Word)
  /-- RFLUSH (R197). -/
  | rflush (h : Hdr) (a : SReg) (b : SReg)
  /-- TAGSET (R373). -/
  | tagset (h : Hdr) (a : VReg) (b : VReg)
  /-- TAGGET (R373). -/
  | tagget (h : Hdr) (d : VReg) (a : VReg)
  /-- CPIN (R235). -/
  | cpin (h : Hdr) (slot : Bool) (k : Tok) (a : SReg) (b : SReg) (rows : BitVec 12) (bytes : BitVec 20)
  /-- CPOUT (R235). -/
  | cpout (h : Hdr) (k : Tok) (a : SReg) (b : SReg) (rows : BitVec 12) (bytes : BitVec 20)
  /-- KTST (R236). -/
  | ktst (h : Hdr) (d : PReg) (k : Tok)
  /-- TMARK (R375). -/
  | tmark (h : Hdr) (a : SReg)
  /-- VRES (R157). -/
  | vres (h : Hdr) (a : SReg)
  /-- VREL (R157). -/
  | vrel (h : Hdr)
  /-- PTST (R304). -/
  | ptst (h : Hdr) (d : SReg) (a : SReg)
  /-- PTLD (R305). -/
  | ptld (h : Hdr) (a : SReg)
  /-- BTAKE (R232). -/
  | btake (h : Hdr) (matrix : Bool)
  /-- BPASS (R232). -/
  | bpass (h : Hdr) (matrix : Bool)
  /-- OCLM (R222). -/
  | oclm (h : Hdr) (d : OReg)
  /-- OREL (R222). -/
  | orel (h : Hdr) (d : OReg)
  /-- OLD (R225). -/
  | old (h : Hdr) (d : OReg) (a : SReg) (rows : BitVec 7)
  /-- MMA (R227). -/
  | mma (h : Hdr) (d : AReg) (a : OReg) (b : OReg)
  /-- AZERO (R314). -/
  | azero (h : Hdr) (d : AReg)
  /-- AMOV (R302). -/
  | amov (h : Hdr) (d : VReg) (a : AReg) (col : Bool) (n : BitVec 5)
  /-- AMOVV (R302). -/
  | amovv (h : Hdr) (d : AReg) (a : VReg) (col : Bool) (n : BitVec 5)
  /-- GANG (R229). -/
  | gang (h : Hdr) (a : SReg)
  /-- CBLD (R97, R98). -/
  | cbld (h : Hdr) (tab : BitVec 3) (a : SReg)
  /-- GCRT (R214). -/
  | gcrt (h : Hdr) (d : SReg) (a : SReg) (b : HReg)
  /-- GJOIN (R215). -/
  | gjoin (h : Hdr) (d : SReg) (a : HReg)
  /-- GLEAVE (R215). -/
  | gleave (h : Hdr) (d : SReg) (a : HReg)
  /-- GBAR (R215). -/
  | gbar (h : Hdr) (d : SReg) (a : HReg)
  /-- GVOTE (R216). -/
  | gvote (h : Hdr) (kind : BitVec 2) (p : BitVec 4) (a : HReg) (b : SReg)
  /-- GRED (R217). -/
  | gred (h : Hdr) (d : SReg) (a : HReg) (b : SReg) (op : BitVec 2)
  /-- GINFO (R215). -/
  | ginfo (h : Hdr) (d : SReg) (a : HReg)
  /-- GDEL (R215). -/
  | gdel (h : Hdr) (d : SReg) (a : HReg)
  /-- H2S (R206). -/
  | h2s (h : Hdr) (d : SReg) (a : HReg)
  /-- S2H (R206). -/
  | s2h (h : Hdr) (d : HReg) (a : SReg) (clr : BitVec 4)
  /-- QENQ (R245). -/
  | qenq (h : Hdr) (d : SReg) (a : HReg) (b : SReg)
  /-- QDEQ (R245). -/
  | qdeq (h : Hdr) (d : SReg) (a : HReg) (b : SReg)
  /-- QSTEAL (R245). -/
  | qsteal (h : Hdr) (d : SReg) (a : HReg) (b : SReg)
  /-- TDONE (R251). -/
  | tdone (h : Hdr) (d : SReg) (a : SReg)
  /-- TFULL (R248). -/
  | tfull (h : Hdr) (d : SReg) (a : SReg)
  /-- TEMPTY (R248). -/
  | tempty (h : Hdr) (d : SReg) (a : SReg)
  /-- TSTAT (R248). -/
  | tstat (h : Hdr) (d : SReg) (a : SReg)
  /-- CHAPP (R240). -/
  | chapp (h : Hdr) (d : SReg) (a : HReg) (b : SReg)
  /-- CHADV (R240). -/
  | chadv (h : Hdr) (a : HReg)
  /-- CHSEQ (R240). -/
  | chseq (h : Hdr) (d : SReg) (a : HReg)
  /-- LAUNCH_RECORD_ENQUEUE (R253; bytes: what the host writes to the enqueue port of queue q). -/
  | launchRecordEnqueue (q : Nat) (bytes : List Byte)
  /-- GROVE_PLACEMENT (R28, R382; die: whose distributor). -/
  | grovePlacement (die : Nat)
  /-- COLEVEL_LAUNCH_PLACEMENT (R29). -/
  | colevelLaunchPlacement (die : Nat)
  /-- STEAL_MESSAGE (R27; die: the distributor that asks). -/
  | stealMessage (die : Nat)
  /-- STAND_RETIRE (R32; st: the stand's key). -/
  | standRetire (st : Nat)
  /-- COMPLETION_COUNTER_DECREMENT (R33; l: the launch whose oldest completed grove is counted). -/
  | completionCounterDecrement (l : Nat)
  /-- FORWARDED_RECORD (R34, R35). -/
  | forwardedRecord (msg : List Byte)
  /-- SCHEDULER_QUERY (R34, R35). -/
  | schedulerQuery (msg : List Byte)
  /-- GREEDY_RUN_LIMIT (R19). -/
  | greedyRunLimit (core : Nat) (quarter : Nat)
  /-- CONTEXT_SWITCH_TIMESLICE (R21). -/
  | contextSwitchTimeslice (core : Nat)
  /-- CONTEXT_SWITCH_IDLE (R21). -/
  | contextSwitchIdle (core : Nat)
  /-- SPECULATION_SQUASH (R24). -/
  | speculationSquash (st : Nat) (path : Nat)
  /-- PAGE_FAULT_RESOLVED (R132). -/
  | pageFaultResolved (st : Nat) (path : Nat)
  /-- PAGE_FAULT_FATAL (R133). -/
  | pageFaultFatal (st : Nat) (path : Nat)
  /-- LOAD_DATA_RETURN (R48, R346). -/
  | loadDataReturn (op : Nat)
  /-- STORE_PERFORMED (R48, R371). -/
  | storePerformed (op : Nat)
  /-- ATOMIC_AT_HOME (R308; k: which word of the operation). -/
  | atomicAtHome (op : Nat) (k : Nat)
  /-- ATOMIC_REPLY (R309). -/
  | atomicReply (op : Nat)
  /-- COMBINE_ENTRY_TIMEOUT (R175; k: position in the buffer). -/
  | combineEntryTimeout (core : Nat) (k : Nat)
  /-- PUBLICATION_COMPLETE (R179). -/
  | publicationComplete (pub : Nat)
  /-- COPY_COMPLETE (R235). -/
  | copyComplete (op : Nat)
  /-- OLD_FILL_COMPLETE (R225). -/
  | oldFillComplete (op : Nat)
  /-- MMA_ARRAY_START (R228). -/
  | mmaArrayStart (op : Nat)
  /-- MMA_FINISH (R227). -/
  | mmaFinish (op : Nat)
  /-- ALD_COMPLETE (R311). -/
  | aldComplete (op : Nat)
  /-- AST_PERFORMED (R311). -/
  | astPerformed (op : Nat)
  /-- CBLD_TABLE_WRITE (R98). -/
  | cbldTableWrite (op : Nat)
  /-- TILE_OFFER (R191). -/
  | tileOffer (core : Nat)
  /-- TILE_HEADER_AT_HOME (R192). -/
  | tileHeaderAtHome (op : Nat)
  /-- TILE_GRANT (R195). -/
  | tileGrant (op : Nat)
  /-- TILE_REFUSED (R193). -/
  | tileRefused (op : Nat)
  /-- TILE_REOFFER_TIMER (R193). -/
  | tileReofferTimer (core : Nat)
  /-- RESIDUAL_RETRY_TIMER (R195). -/
  | residualRetryTimer (st : Nat) (slot : Nat)
  /-- FLUSH_REQUEST_AT_HOME (R196). -/
  | flushRequestAtHome (op : Nat)
  /-- TILE_APPLY (R190). -/
  | tileApply (home : Nat) (op : Nat)
  /-- GROUP_OP_AT_CONTROLLER (R212). -/
  | groupOpAtController (op : Nat)
  /-- GROUP_REPLY (R213). -/
  | groupReply (op : Nat)
  /-- GRED_CELLS_FREE (R217). -/
  | gredCellsFree (die : Nat)
  /-- QUEUE_OP_AT_CONTROLLER (R245, R358). -/
  | queueOpAtController (op : Nat)
  /-- REMOTE_QENQ_MESSAGE (R247; m: the message's number). -/
  | remoteQenqMessage (m : Nat)
  /-- COUNTER_DECREMENT_AT_HOME (R251). -/
  | counterDecrementAtHome (op : Nat)
  /-- SUCCESSOR_ENQUEUE_RETRY (R251; m: the waiting enqueue's number). -/
  | successorEnqueueRetry (m : Nat)
  /-- BUFFER_BIT_AT_HOME (R248). -/
  | bufferBitAtHome (op : Nat)
  /-- IO_ENTRY_START (R241). -/
  | ioEntryStart (chain : Nat)
  /-- IO_ENTRY_COMPLETE (R187, R238; n: the entry, dev: what the device answered). -/
  | ioEntryComplete (chain : Nat) (n : Nat) (dev : DevResult)
  /-- REMOTE_OP_TIMEOUT (R271). -/
  | remoteOpTimeout (op : Nat)
  /-- HOLD_NOTICE (R270). -/
  | holdNotice (pelfold : Nat)
  /-- WATCHDOG_EXPIRY (R270). -/
  | watchdogExpiry (st : Nat)
  /-- CCMD_ADMIT (R286). -/
  | ccmdAdmit (c : Nat)
  /-- CCMD_END (R286). -/
  | ccmdEnd (c : Nat)
  /-- CCMD_VACATE (R286). -/
  | ccmdVacate (c : Nat)
  /-- REPLY_SLOT_WRITE (R262; op: the redirected operation). -/
  | replySlotWrite (c : Nat) (op : Nat)
  /-- VACATE_COMPLETE (R138). -/
  | vacateComplete (c : Nat)
  /-- CCMD_RESTORE (R286). -/
  | ccmdRestore (c : Nat)
  /-- RESTORE_GROVE_PLACEMENT (R381). -/
  | restoreGrovePlacement (die : Nat)
  /-- CCMD_ATTACH_DEBUGGER (R286). -/
  | ccmdAttachDebugger (c : Nat)
  /-- CCMD_DETACH_DEBUGGER (R286). -/
  | ccmdDetachDebugger (c : Nat)
  /-- TLB_INVALIDATE_CONTEXT (R287; v: the value written to TLBCTL). -/
  | tlbInvalidateContext (die : Nat) (v : DWord)
  /-- TLB_INVALIDATE_RANGE (R287). -/
  | tlbInvalidateRange (die : Nat) (v : DWord)
  /-- TLB_INVALIDATION_COMPLETE (R130). -/
  | tlbInvalidationComplete (die : Nat)
  /-- DDIR_WRITE (R287). -/
  | ddirWrite (die : Nat) (v : DWord)
  /-- SWITCH_COMMAND (R287; v: the value written to SWPOL). -/
  | switchCommand (core : Nat) (v : DWord)
  /-- CREATE_QUEUE (R288). -/
  | createQueue (die : Nat) (c : Nat)
  /-- DESTROY_QUEUE (R288). -/
  | destroyQueue (die : Nat) (c : Nat)
  /-- CREATE_CHAIN (R288). -/
  | createChain (die : Nat) (c : Nat)
  /-- DESTROY_CHAIN (R288). -/
  | destroyChain (die : Nat) (c : Nat)
  /-- CREATE_ENDPOINT (R288). -/
  | createEndpoint (die : Nat) (c : Nat)
  /-- DESTROY_ENDPOINT (R288). -/
  | destroyEndpoint (die : Nat) (c : Nat)
  /-- CONFIG_REGISTER_WRITE (R285). -/
  | configRegisterWrite (addr : Nat) (size : Nat) (v : DWord)
  /-- LOCK_INTERFACE_REQUEST (R289). -/
  | lockInterfaceRequest (i : Nat)
  /-- START_INTERFACE_REQUEST (R289). -/
  | startInterfaceRequest (i : Nat)
  /-- STOP_INTERFACE_REQUEST (R289). -/
  | stopInterfaceRequest (i : Nat)
  /-- INTERFACE_LINK_ERROR (R289). -/
  | interfaceLinkError (i : Nat)
  /-- UNCORRECTABLE_ERROR (R264). -/
  | uncorrectableError (loc : ErrLoc)
  /-- ERROR_SELF_TEST (R267). -/
  | errorSelfTest (tgt : TestTarget) (pass : Bool)
  /-- COPPICE_SCAN_END (R268). -/
  | coppiceScanEnd (die : Nat) (copse : Nat) (pass : Bool)
  /-- TOKEN_TAP_VISIT (R277). -/
  | tokenTapVisit (home : Nat)
  /-- LIMITER_REFILL (R279). -/
  | limiterRefill (die : Nat) (c : Nat)
  /-- PACKET_ARRIVAL (R178). -/
  | packetArrival (src : Nat) (seq : Nat) (op : Nat)
  /-- FLIT_PAYLOAD_ERROR (R280). -/
  | flitPayloadError (c : Nat) (op : Nat)
  /-- LINK_FAILURE (R282). -/
  | linkFailure (link : Nat)
  /-- WAVELENGTH_ERROR_WINDOW (R283). -/
  | wavelengthErrorWindow (fibre : Nat) (wl : Nat) (errors : Nat)
  /-- WAVELENGTH_RETRAIN_DONE (R283). -/
  | wavelengthRetrainDone (fibre : Nat) (wl : Nat) (ok : Bool)
  /-- SUPPLY_SAG (R292). -/
  | supplySag (die : Nat) (mhz : Nat)
  /-- THERMAL_THROTTLE (R292). -/
  | thermalThrottle (die : Nat) (hot : Bool)
  /-- THERMAL_ALERT (R292). -/
  | thermalAlert (die : Nat)
  /-- DEBUG_HALT (R272). -/
  | debugHalt (c : Nat) (tgt : HaltTarget)
  /-- DEBUG_SET_HELD (R272). -/
  | debugSetHeld (st : Nat) (path : Nat)
  /-- BREAKPOINT_HIT (R272). -/
  | breakpointHit (st : Nat) (path : Nat)
  /-- SINGLE_STEP (R273). -/
  | singleStep (st : Nat) (path : Nat)
  /-- DEBUG_SET_BREAKPOINT (R272). -/
  | debugSetBreakpoint (core : Nat) (k : Nat) (bp : Option Breakpoint)
  /-- DEBUG_SET_WATCHPOINT (R134). -/
  | debugSetWatchpoint (core : Nat) (k : Nat) (wp : Option Watchpoint)
  /-- DEBUG_RELEASE_HELD (R273). -/
  | debugReleaseHeld (st : Nat) (path : Nat)
  /-- DETERMINISTIC_MODE_SWITCH (R61; base, len: the locked copse-cache window). -/
  | deterministicModeSwitch (core : Nat) (on : Bool) (base : Nat) (len : Nat)
  /-- SCHEDULER_MESSAGE_DROPPED (R35). -/
  | schedulerMessageDropped (msg : List Byte)
  /-- HOLD_NOTICE_SEND (R270). -/
  | holdNoticeSend
  /-- SPDM_MEASUREMENTS_REQUEST (R291). -/
  | spdmMeasurementsRequest
  /-- BOOT (R291). -/
  | boot
  /-- FLIT_HEADER_ERROR (R280). -/
  | flitHeaderError
  /-- THERMAL_SHUTDOWN (R292). -/
  | thermalShutdown
  /-- PARTITION_REINITIALISE (R280). -/
  | partitionReinitialise
  deriving DecidableEq, Repr

end Sys2Proof
end

