-- ==== Sys2Proof/Machine/State.lean ====
section
/-! DEFINITION. The state of one Pelfold as plain data: everything the spec gives the machine, the reasons a step may
stop, and the machine right after reset. INVENTORY.md lists every field with the rule that names it and its reset value. -/

namespace Sys2Proof.Machine

/-- Why the machine stops with a fault. -/
inductive Fault where
  /-- The package is powered down after a thermal shutdown (R292); the spec gives no step after it. Raised by `step`
  alone. Safe: the model stops. -/
  | poweredDown
  deriving DecidableEq, Repr

/-- Why an instruction has no meaning. -/
inductive Refusal where
  /-- An arm of `exec` without a meaning; no arm answers so. Safe. -/
  | notModelled (mnemonic : String)
  deriving DecidableEq, Repr

/-- State of a path-table entry (R12); codes 5–7 are illegal and never loaded (R263). -/
inductive PState where
  | free | active | record | serial | serialj
  deriving DecidableEq, Repr

/-- Why a path is not ready (R20), coded for stall samples as R274 gives them. -/
inductive Wait where
  | operand | vacate | baton | counter | group | slot | home | publication
  deriving DecidableEq, Repr

/-- An instruction parked on a page fault: its unfinished lanes, the lanes of its first issue (none where an image brought it
back: the image does not hold them), the lowest unfinished address, whether the fetch faulted, the operation of the lanes
that perform, and the instruction where its fetch has not faulted (R132, R133, R346, R378). -/
structure Park where
  lanes : Mask
  first : Option Mask := none
  va    : DWord
  fetch : Bool
  op    : Option Nat := none
  ins   : Option Instr := none
  deriving DecidableEq, Repr

/-- Lanes to which the next issue of a path is limited: exactly `lanes` when a parked instruction issues again (R132,
R133), `em` ∧ `lanes` after an ERET with PART (R258); `first` holds the lanes of the first issue where they are known, `op`
the operation that the instruction's earlier lanes are, and `ins` the instruction where that is known. -/
structure Part where
  lanes : Mask
  exact : Bool
  first : Option Mask := none
  op    : Option Nat := none
  ins   : Option Instr := none
  deriving DecidableEq, Repr

/-- One of the 8 entries of a stand's path table, or an overflow slot (R11, R14), with the issue state of its path
(R19, R20): age, why it waits, what it is parked on, and what its next issue must still do. -/
structure Path where
  state  : PState := .free
  parent : BitVec 3 := 0
  link   : BitVec 6 := 0
  held   : Bool := false
  pc     : BitVec 17 := 0
  jt     : BitVec 17 := 0
  xpc    : BitVec 17 := 0
  mask   : Mask := 0
  aux    : Mask := 0
  age    : Nat := 0
  /-- It has not issued yet: its age is the cycle at which it first becomes ready (R19). -/
  fresh  : Bool := false
  wait   : Option Wait := none
  parked : Option Park := none
  part   : Option Part := none
  /-- Tiles an RFLUSH of this path waits for (R197). -/
  flush  : Option (List Nat) := none
  /-- The publication a PTST of this path waits for (R304). -/
  pub    : Option Nat := none
  /-- An MMA of this path waits for the fills of its slots (R228, R229). -/
  filling : Bool := false
  /-- Stores to live lines that were dropped: operation, address and lanes of each, raised at the path's next issue after the
  operation has completed (R208). -/
  glines : List (Nat × DWord × Mask) := []
  /-- The debugger lets this entry run one instruction (R273). -/
  single : Bool := false
  /-- Released by the debugger: no breakpoint stops its next issue (R272). -/
  pass   : Bool := false
  deriving DecidableEq, Repr

/-- The active idempotent region of a stand (R258, R260). -/
structure Region where
  ientry : Nat
  iend   : Nat
  mask   : Mask
  em     : Mask
  deriving DecidableEq, Repr

/-- An entry of a stand's membership list (R210, R261). -/
structure Member where
  die     : Nat
  index   : Nat
  gen     : Nat
  ord     : Nat
  ret     : Nat
  pending : Bool
  deriving DecidableEq, Repr

/-- A residual slot in use (R194), with its retry state (R195). -/
structure Residual where
  rva      : DWord
  rpa      : Nat
  stride   : Nat
  et       : Nat
  poisoned : Bool
  count    : Nat
  tile     : SMap Word
  /-- Physical addresses of the 32 rows, as TACC's check or a restore translated them. -/
  rows     : List Nat
  /-- Cycle of the refusal that started the present wait, the wait, and refusals in a row. -/
  since    : Nat
  delay    : Nat
  refused  : Nat
  /-- The offer of this slot that is under way. -/
  offer    : Option Nat
  deriving DecidableEq, Repr

/-- A replay record of a restored stand that has not issued yet (R262, R379): whether lanes of it have performed at this issue, why it
waits, what it is parked on (address, and whether its fetch faulted), and the operation of its earlier lanes; whether its instruction counts
in `retcnt` when it issues (R221); and the instruction, where it has been fetched. -/
structure Replay where
  pc    : BitVec 17
  path  : Nat
  lanes : Mask
  part  : Bool := false
  wait  : Option Wait := none
  parked : Option (DWord × Bool) := none
  op    : Option Nat := none
  counts : Bool := false
  ins   : Option Instr := none
  deriving DecidableEq, Repr

/-- A failed remote operation whose REMOTEDOWN is still to be raised (R271): the instruction, its vacate class, its
address and lanes; the operand slot name or the scratchpad bytes (grove, first and last) that a failed copy was to write. -/
structure Armed where
  ins   : Instr
  cls   : Nat
  va    : DWord
  lanes : Mask
  slot  : Option Nat := none
  range : Option (Nat × Nat × Nat) := none
  deriving DecidableEq, Repr

/-- A stand (R10, R116, R260): registers, `mode`, paths, counters, trap registers and what else the image header holds. -/
structure Stand where
  /-- A number of the stand's own that it keeps across a restore. -/
  uid     : Nat := 0
  ctx     : Nat := 0
  grove   : Nat := 0
  standid : Nat := 0
  /-- Vector registers: lane l of register v at 32 v + l (R40). -/
  vregs   : SMap Word := []
  /-- Scalars s0–s62 (R40). -/
  sregs   : SMap DWord := []
  /-- Predicates p0–p14 (R40). -/
  preds   : SMap Mask := []
  /-- Handle registers h0–h15 (R203). -/
  hregs   : SMap DWord := []
  /-- Accumulators: element [i][j] of a at 1024 a + 32 i + j (R189, R261). -/
  accs    : SMap Word := []
  mode    : Word := 0
  flags   : BitVec 4 := 0
  /-- The disabled-lane mask (R17). -/
  dis     : Mask := 0
  paths   : SMap Path := []
  /-- The path overflow area (R14). -/
  ovf    : SMap Path := []
  loads   : Nat := 0
  stores  : Nat := 0
  copies  : Nat := 0
  tiles   : Nat := 0
  /-- Detached operations outstanding (R50). -/
  detached : Nat := 0
  tokmask : BitVec 8 := 0
  avail   : Nat := 0
  lent    : Nat := 0
  vxTrap  : Bool := false
  stalled : Bool := false
  hopeless : Bool := false
  accref  : Word := 0
  residuals : SMap Residual := []
  /-- Operand-slot names bound to physical slots of the core (R222). -/
  oslots  : SMap Nat := []
  gang    : DWord := 0
  scloff  : Word := 0
  taskrec : DWord := 0
  retcnt  : DWord := 0
  tcause  : DWord := 0
  tepc    : DWord := 0
  tval    : DWord := 0
  tmask   : DWord := 0
  tvec    : DWord := 0
  tscratch : DWord := 0
  /-- In the trap handler, and on which path-table entry (R256). -/
  inHandler : Option Nat := none
  region  : Option Region := none
  members : List Member := []
  replays : List Replay := []
  /-- The handler that runs was entered for a replayed operation: the records after it wait for ERET (R379), and `kept` is what the
  path that runs it had left to do. -/
  deferred : Bool := false
  kept    : Option Part := none
  /-- The replayed operation that its handler serves counts in `retcnt` when it issues again (R221). -/
  recount : Bool := false
  armed   : List Armed := []
  /-- Stopped by a region restart until its counters and tokens settle (R265). -/
  restart : Bool := false
  /-- On a core that may switch contexts: no path of the stand would issue now, were its context running (R21). The model's own field. -/
  blocked : Bool := false
  /-- Die-local cycle at which the stand last retired an instruction (R270). -/
  lastRet : Nat := 0
  deriving DecidableEq, Repr

/-- What the checked kernel header of a launch says, with the tables as the check read them (R76–R82). -/
structure Kernel where
  addr     : DWord := 0
  vregs    : Nat := 8
  sregs    : Nat := 8
  nacc     : Nat := 0
  nslot    : Nat := 0
  nhand    : Nat := 0
  nres     : Nat := 0
  grovemax : Nat := 1
  level    : Nat := 0
  scratch  : Nat := 0
  partw    : Word := 0
  gangdef  : Nat := 0
  ring     : Nat := 0
  mbat     : Nat := 255
  sbat     : Nat := 255
  trapoff  : Nat := 0
  trapen   : Word := 0
  entries  : List Nat := [16]
  /-- Idempotent regions: (ientry, iend). -/
  idems    : List (Nat × Nat) := []
  /-- Codebook tables carried: (table, physical address). -/
  tables   : List (Nat × Nat) := []
  idemk    : Bool := false
  lvlreq   : Bool := false
  replayOk : Bool := false
  deriving DecidableEq, Repr

/-- A block of eight groves of a launch, or what is left of it to place (R26, R27). -/
structure Block where
  num     : Nat
  die     : Nat
  left    : List Nat
  touched : Bool
  deriving DecidableEq, Repr

/-- A launch accepted by a queue (R25–R33). -/
structure Launch where
  ctx    : Nat := 0
  queue  : Nat := 0
  kernel : Kernel := {}
  gx     : Nat := 1
  gy     : Nat := 1
  gz     : Nat := 1
  arg    : DWord := 0
  /-- Physical address of the completion counter line, as the header check recorded it (R79). -/
  succ   : Option Nat := none
  level  : Nat := 0
  hint   : Nat := 0
  blocks : List Block := []
  /-- Groves completed whose decrement has not performed (R33). -/
  done   : Nat := 0
  /-- Groves not yet completed. -/
  left   : Nat := 0
  /-- Physical cores that ran its groves and have not passed a scan since (R269). -/
  cores  : List Nat := []
  deriving DecidableEq, Repr

/-- A grove on a core (R10, R30, R115). -/
structure Grove where
  launch  : Nat := 0
  g       : Nat := 0
  core    : Nat := 0
  units   : Nat := 0
  scratch : SMap Byte := []
  /-- Byte offset of the grove's block in its core's save area (R260). -/
  block   : Nat := 0
  /-- Stands not yet retired (R323). -/
  size    : Nat := 0
  /-- `standid` of the holder of the stream and of the matrix baton (R231); `none` where the baton does not exist. -/
  sbat    : Option Nat := none
  mbat    : Option Nat := none
  deriving DecidableEq, Repr

/-- A physical operand slot that a name is bound to (R120, R223). -/
structure OpSlot where
  sfmt    : Nat := 0
  geom    : Nat := 0
  table   : Nat := 0
  rows    : Nat := 0
  sscl    : Nat := 0
  sstride : Nat := 0
  sppa    : Nat := 0
  data    : SMap Byte := []
  scales  : SMap Byte := []
  deriving DecidableEq, Repr

/-- Who wrote what a cache has not written out, or put an operand into the combining buffer: context, stand, path, operation (the first of its
instruction), and the address and lanes that its GROUPLINE names (R130, R208). -/
structure Owner where
  ctx   : Nat
  uid   : Nat
  path  : Nat
  op    : Nat
  va    : DWord
  lanes : Mask
  deriving DecidableEq, Repr

/-- A line held in a snapshot or copse cache: its bytes, which of them it holds, which are not written out (R164, R169), and who wrote
which of these last. -/
structure Line where
  data  : SMap Byte := []
  valid : BitVec 64 := 0
  dirty : BitVec 64 := 0
  owners : List (BitVec 64 × Owner) := []
  deriving DecidableEq, Repr

/-- A translation held in a TLB: context, page base, size, and the leaf entry (R127, R130). -/
structure TlbEntry where
  ctx  : Nat
  va   : Nat
  size : Nat
  leaf : DWord
  deriving DecidableEq, Repr

/-- An entry of the combining buffer, with everyone whose operand it holds (R175). -/
structure Comb where
  pa      : Nat
  ins     : Instr
  et      : Nat
  rm      : Nat
  value   : Word
  owners  : List Owner
  created : Nat
  deriving DecidableEq, Repr

/-- A path stalled on the vacate check, and its charge (R152); an instruction that a path was to issue speculatively stalls as path 8 and up
(R154). -/
structure Stall where
  st   : Nat
  path : Nat
  cost : Nat
  deriving DecidableEq, Repr

/-- A resident context slot of a core (R21, R143, R96): the estimate's terms S, P, C and Q, the stalled charges in
order, and the codebook tables with their recorded sources. -/
structure CtxSlot where
  ctx     : Option Nat := none
  s       : Nat := 0
  p       : Nat := 0
  c       : Nat := 0
  q       : Nat := 0
  stalled : List Stall := []
  /-- Row i of table t at 256 t + i. -/
  tabs    : SMap Word := []
  sources : SMap Nat := []
  deriving DecidableEq, Repr

/-- A quarter's greedy path and how many instructions it has issued in a row (R19); in deterministic mode the path that it runs to completion,
with its stand's number (R61). -/
structure Quarter where
  greedy : Option (Nat × Nat) := none
  run    : Nat := 0
  only   : Option (Nat × Nat × Nat) := none
  deriving DecidableEq, Repr

/-- The trace buffer registers of a core and its trace state (R275, R287). -/
structure Trace where
  base  : DWord := 0
  size  : DWord := 0
  on    : Bool := false
  off   : Nat := 0
  /-- Records written for each path since its last SYNC; a path not listed needs a SYNC first. -/
  since : SMap Nat := []
  lost  : Nat := 0
  deriving DecidableEq, Repr

/-- A physical core (R1, R10, R115). -/
structure Core where
  /-- Copse-local working number; `none` while withdrawn or retired (R268). -/
  work    : Option Nat := none
  retired : Bool := false
  slot0   : CtxSlot := {}
  slot1   : CtxSlot := {}
  /-- Which resident context slot runs (R21). -/
  running : Bool := false
  /-- Cycle since which the running context runs, and cycle at which a path of it last issued (R21). -/
  ranFrom  : Nat := 0
  idleFrom : Nat := 0
  units   : Nat := 0
  oslots  : SMap OpSlot := []
  snap    : SMap Line := []
  tlb     : List TlbEntry := []
  combine : List Comb := []
  /-- The drain path: tile operations in issue order (R181, R191). -/
  drain   : List Nat := []
  watch   : SMap Watchpoint := []
  breaks  : SMap Breakpoint := []
  slice   : Nat := 0
  idleSw  : Bool := false
  /-- Deterministic mode, and the locked window (R61). -/
  det     : Bool := false
  window  : Nat × Nat := (0, 0)
  trace   : Trace := {}
  quarters : SMap Quarter := []
  deriving DecidableEq, Repr

/-- A copse: its cache and TLB (R1, R130, R168). -/
structure Copse where
  cache : SMap Line := []
  tlb   : List TlbEntry := []
  deriving DecidableEq, Repr

/-- A log of a die in memory: base, capacity in records, next index (R287). -/
structure Log where
  base : Nat := 0
  cap  : Nat := 0
  next : Nat := 0
  deriving DecidableEq, Repr

/-- A context's injection limiter on a die: burst, rate, and what is in the bucket (R279). -/
structure Limiter where
  burst : Nat := 0
  rate  : Nat := 0
  level : Nat := 0
  deriving DecidableEq, Repr

/-- A die: cycle counter, clock, window registers, GRED cells, distributor turn (R1, R217, R287, R288, R382). -/
structure Die where
  cyc    : Nat := 0
  mhz    : Nat := Config.nominalMHz
  hot    : Bool := false
  ddir   : Nat := 0
  /-- The die has served a GCRT since power-on (R287). -/
  gcrt   : Bool := false
  tlbva  : DWord := 0
  tlbBusy : Bool := false
  /-- Operations that used the entries an invalidation under way has taken out (R130). -/
  tlbOps : List Nat := []
  elog   : Log := {}
  dlog   : Log := {}
  obja   : DWord := 0
  objb   : DWord := 0
  objc   : DWord := 0
  objres : DWord := 0
  /-- Value cells in use (R217). -/
  cells  : Nat := 0
  /-- Group operations waiting for cells, in order of arrival (R217). -/
  cellWait : List Nat := []
  limiters : SMap Limiter := []
  /-- The launch queue whose turn it is (R382). -/
  turn   : Nat := 0
  deriving DecidableEq, Repr

/-- What a group's round in progress is (R212). -/
inductive GOp where
  | gbar
  | gvote (kind : Nat)
  | gred (op et : Nat)
  | xchg
  deriving DecidableEq, Repr

/-- An arrival of a round (R211, R212): the operation, which carries the rest, the stand, and its gsi. -/
structure Arrival where
  op   : Nat
  uid  : Nat
  gsi  : Nat
  deriving DecidableEq, Repr

/-- A live group (R207–R212). -/
structure Group where
  ctx    : Nat
  pa     : Nat
  scope  : Nat
  /-- The creator's grove, copse and die, which bound a group of grove, copse and tract scope (R214). -/
  grove  : Nat
  copse  : Nat
  die    : Nat
  m      : Nat := 0
  a      : Nat := 0
  j      : Nat := 0
  ground : Word := 0
  joins  : Nat := 0
  fault  : Bool := false
  record : Bool := false
  replay : Bool := false
  gop    : Option GOp := none
  arrivals : List Arrival := []
  /-- Round operations of pending joiners (R212), and GRED arrivals waiting for value cells (R217), in order. -/
  pendingOps : List Nat := []
  /-- Cells this group's round holds, and the RM of the last GRED that arrived (R113, R217). -/
  cells  : Nat := 0
  lastRm : Nat := 0
  /-- Whether an entry of the active table holds its state, or it is written back to its line (R207). -/
  active : Bool := true
  deriving DecidableEq, Repr

/-- A record of a queue: its 64 bytes, whether an error has poisoned it (R242, R252), and for a launch record the launch it became
when the queue accepted it. -/
structure Rec where
  bytes    : List Byte
  poisoned : Bool := false
  launch   : Option Nat := none
  deriving DecidableEq, Repr

/-- A hardware work queue (R243, R253). -/
structure Queue where
  ctx     : Nat
  ring    : Nat
  cap     : Nat
  scope   : Nat
  launch  : Bool
  recs    : List Rec := []
  seq     : Nat := 0
  broken  : Bool := false
  deriving DecidableEq, Repr

/-- An entry of a chain that the engine has started (R241): its number, its 64 bytes, and the packets of an RDMA entry that have come or gone (R290). -/
structure IoEntry where
  n     : Nat
  bytes : List Byte
  moved : List Nat := []
  deriving DecidableEq, Repr

/-- An I/O chain (R237, R240, R241). -/
structure Chain where
  ctx       : Nat
  ring      : Nat
  cap       : Nat
  scope     : Nat
  appended  : Nat := 0
  published : Nat := 0
  completed : Nat := 0
  started   : Nat := 0
  flight    : List IoEntry := []
  /-- Entries whose data and status are in memory but whose number cannot be published yet (R187). -/
  finished  : List Nat := []
  deriving DecidableEq, Repr

/-- An NVMe or Ultra Ethernet endpoint (R237, R288). -/
structure Endpoint where
  ctx   : Nat
  nvme  : Bool
  unit  : Nat
  ns    : Nat
  blk   : Nat
  deriving DecidableEq, Repr

/-- State of a context descriptor (R286). -/
inductive CState where
  | free | admitted | vacating | vacated | restoring | halted
  deriving DecidableEq, Repr

/-- A machine-check record (R257). -/
structure MCheck where
  ctx  : Nat
  gsi  : Nat
  kind : Nat
  tepc : Nat
  tval : DWord
  cyc  : Nat
  deriving DecidableEq, Repr

/-- A trap that is the reply of an operation of a saved stand and is not raised again by issuing it: an XCHG's HANDLE (R218, R219). -/
structure Owed where
  pc    : BitVec 17
  path  : Nat
  cause : Nat
  tval  : DWord
  deriving DecidableEq, Repr

/-- A saved stand: its number, its place in the grove, where its image lies, and where it stood (R260); and the bytes of its local part where
a restore has put another stand there before it (R122). -/
structure SavedStand where
  uid     : Nat
  standid : Nat
  idx     : Nat
  image   : Nat
  /-- Failed remote operations still to be raised; operations whose redirected reply was a trap and that issue again; and traps that the stand takes when
  it resumes. -/
  armed   : List Armed
  again   : List Replay
  owed    : List Owed := []
  local_  : Option (List Byte) := none
  deriving DecidableEq, Repr

/-- A grove that a vacate or halt saved and no restore has placed yet (R260, R381). The scratchpad's saved bytes lie in
memory at `scr`. -/
structure SavedGrove where
  id     : Nat
  grove  : Grove
  stands : List SavedStand
  scr    : Nat
  /-- The context slot's recorded table sources on the core it left (R96). -/
  sources : SMap Nat
  /-- A coppice drain restores on this core at the same indices (R268, R381). -/
  onto   : Option Nat
  deriving DecidableEq, Repr

/-- A context descriptor (R286) and what the controllers keep of the context. -/
structure Ctx where
  state    : CState := .free
  debugger : Bool := false
  result   : Nat := 0
  cbound   : DWord := 0
  cplace   : DWord := 0
  croot    : DWord := 0
  clocal   : DWord := 0
  ckey0    : DWord := 0
  ckey1    : DWord := 0
  keyed    : Bool := false
  cgroup   : DWord := 0
  clogsz   : DWord := 0
  clogdrop : DWord := 0
  /-- Bytes of the arrival log in use (R221, R286). -/
  logUsed  : Nat := 0
  cwdog    : DWord := 0
  csave    : SMap DWord := []
  clocb    : SMap DWord := []
  cstride  : DWord := 0
  cirq     : DWord := 0
  cmrec    : Option MCheck := none
  saved    : List SavedGrove := []
  deriving DecidableEq, Repr

/-- TDISP state of a tenant interface (R289). -/
inductive IfState where
  | unlocked | locked | run | error
  deriving DecidableEq, Repr

/-- A tenant interface (R285, R289). -/
structure TenantIf where
  state  : IfState := .unlocked
  bars   : SMap DWord := []
  queues : SMap DWord := []
  ctxs   : SMap DWord := []
  /-- Device access to host memory is open (R289). -/
  access : Bool := false
  deriving DecidableEq, Repr

/-- A request that has arrived at its home (R278). -/
structure Arrived where
  op     : Nat
  sub    : Nat
  core   : Nat
  slack  : Nat
  passed : Nat := 0
  deriving DecidableEq, Repr

/-- A tile accepted at a home (R190, R192, R196): granted, or of flush class. -/
structure HomeTile where
  op    : Nat
  core  : Nat
  rpa   : Nat
  flush : Bool
  /-- The payload has been sent. -/
  sent  : Bool
  deriving DecidableEq, Repr

/-- A home slice: its channel's token and how often it has passed each copse that holds a request (R277), its request queue (R278) and
its tiles (R192). -/
structure Home where
  tap     : Nat := 0
  t       : Nat := 63
  low     : Option Nat := none
  passes  : SMap Nat := []
  arrived : List Arrived := []
  tiles   : List HomeTile := []
  deriving DecidableEq, Repr

/-- A place that holds a byte: a physical address (tags above `Config.tagBase`), or an offset of a grove's scratchpad. -/
inductive Place where
  | mem (pa : Nat)
  | scr (grove : Nat) (off : Nat)
  deriving DecidableEq, Repr

/-- One lane's access after its checks: the lane, its address, where its bytes lie, and the page it lies on (R130, R345). -/
structure Acc where
  lane : Nat
  va   : DWord
  pl   : Place
  fmt  : Nat
  geom : Nat
  /-- Physical base and size of the page; 0 for a window. -/
  page : Nat
  psz  : Nat
  deriving DecidableEq, Repr

/-- How far a detached operation is. -/
inductive DStage where
  /-- On its way to the place where it performs. -/
  | sent
  /-- Arrived at a round and waiting for it (R149). -/
  | lodged
  /-- Performed; its reply is on the way. -/
  | replied
  deriving DecidableEq, Repr

/-- What a reply carries: the status or value, further scalars, a predicate or lane values with their mask. -/
structure Reply where
  status : DWord := 0
  extra  : Option DWord := none
  record : Option (List Byte) := none
  vote   : Option Mask := none
  flags  : BitVec 4 := 0
  lanes  : Mask := 0
  vals   : SMap Word := []
  /-- A trap the reply raises instead (HANDLE of XCHG, POISON of TDONE, DIVERGE): cause and `tval` (R205, R221, R251). -/
  trap   : Option (Nat × DWord) := none
  deriving DecidableEq, Repr

/-- What a detached operation carries from its issue: a scalar (the value of GRED, the address of GCRT, TDONE and the buffer bits),
its physical address, GVOTE's bit, the mask and lanes of XCHG, a record, the handle, and the stand's `retcnt` (R221); and what its controller has read so far
for QDEQ or QSTEAL: position of the record, number of its buffer, and whether the buffer's bit is as it must be (R249). -/
structure Ask where
  val    : DWord := 0
  pa     : Nat := 0
  bit    : Bool := false
  act    : Mask := 0
  vals   : SMap Word := []
  bytes  : List Byte := []
  handle : DWord := 0
  ret    : DWord := 0
  bits   : List (Nat × Nat × Bool) := []
  deriving DecidableEq, Repr

/-- How far a tile operation is (R191–R197). -/
inductive TStage where
  | drain | offered | granted | refused | backoff | flushing | home
  deriving DecidableEq, Repr

/-- A tile in the drain path, or a residual slot offered by itself (R189, R195, R311). -/
structure Tile where
  rva      : DWord
  rpa      : Nat
  stride   : Nat
  et       : Nat
  /-- Physical addresses of the 32 rows. -/
  rows     : List Nat
  vals     : SMap Word
  stage    : TStage
  /-- AST writes the rows; it is never refused. -/
  ast      : Bool
  /-- The residual slot this is an offer of, or that rides on it. -/
  slot     : Option Nat
  grow     : Bool
  poisoned : Bool
  refusals : Nat
  delay    : Nat
  since    : Nat
  deriving DecidableEq, Repr

/-- One word of an atomic (R308): its place, the lanes that name it in ascending order, and whether it has performed. -/
structure AWord where
  pl    : Place
  va    : DWord
  lanes : List Nat
  done  : Bool
  deriving DecidableEq, Repr

/-- A byte to write: its place, its address, and which of its bits (a nibble of a 4-bit element, or all: R370). -/
structure Wr where
  pl  : Place
  va  : DWord
  b   : Byte
  msk : Byte
  deriving DecidableEq, Repr

/-- How far an MMA is: lodged at the latch of its gang's leader, waiting for the array, or in it (R227–R230). -/
inductive MStage where
  | lodged | queued | started
  deriving DecidableEq, Repr

/-- What an outstanding operation still has to do. -/
inductive Work where
  /-- LD: lanes to read, with `scloff` of the issue; none left where the rest of its lanes are parked. -/
  | load (accs : List Acc) (scloff : Nat)
  /-- SLD. -/
  | sload (acc : Acc)
  /-- TAGGET. -/
  | tagget (accs : List Acc)
  /-- ST, SST, TAGSET: bytes to write, in ascending lanes; the scope of an ordered one. -/
  | store (wr : List Wr) (sc : Option Nat)
  /-- DISCARD: its address, and tiles to drop. -/
  | discard (va : DWord) (tiles : List Nat)
  /-- An atomic: its words, operand lanes, compare lanes, what each lane got, lanes found poisoned, flags. -/
  | atomic (ws : List AWord) (et rm : Nat) (x y : SMap Word) (ret : SMap Word) (poison : Mask) (fl : BitVec 4)
  | cbld (pa : Nat) (va : DWord)
  | pref
  /-- PTLD: physical addresses of the image's 16-byte pieces, and the bytes of growth charged. -/
  | ptld (image : List Nat)
  /-- CPIN or CPOUT: (from, to) byte pairs by ascending global address, the token, the scratch range, and the slot fill. -/
  | copy (mv : List (Place × Place)) (slot : Option (Nat × OpSlot)) (range : Option (Nat × Nat × Nat)) (out : Bool)
  /-- OLD: the slot, its descriptor, and the scratchpad bytes to read. -/
  | old (pslot : Nat) (desc : OpSlot) (src : List Place)
  | ald (rows : List Nat)
  /-- MMA: its physical slots, how far it is, the tables it read when it started, and what it will write. -/
  | mma (sa sb : Nat) (stage : MStage) (tabs : List Nat) (vals : SMap Word) (fl : BitVec 4)
  | tile (t : Tile)
  /-- The charge of an RFLUSH: the tiles that must still leave the drain path (R197). -/
  | rflush (ops : List Nat)
  | det (stage : DStage) (ask : Ask) (rep : Reply)
  deriving DecidableEq, Repr

/-- The wait counter that counts an operation (R48), or the detached count (R50). -/
inductive Ctr where
  | none | loads | stores | copies | tiles | detached
  deriving DecidableEq, Repr

/-- An outstanding operation (R48, R145). Its key in `State.outs` rises in issue order. -/
structure Out where
  st    : Nat
  uid   : Nat
  ctx   : Nat
  path  : Nat
  pc    : BitVec 17
  ins   : Instr
  lanes : Mask
  /-- `mode` at issue, and whether a replay record issued it (R379). -/
  mode  : Word
  rpl   : Bool
  /-- Vacate class, fixed charge outstanding, what of it is drawn from the reservation, bytes of growth announced (R145–R155). -/
  cls   : Nat
  vu    : Nat
  drawn : Nat
  grow  : Nat
  /-- The stand whose reservation `drawn` came from, where that is another one: the member that completed a rendezvous (R149, R155). -/
  payer : Option Nat
  ctr   : Ctr
  cyc   : Nat
  /-- The scope whose acquire holds the stand's later accesses until this operation completes (R173, R219). -/
  acq   : Option Nat
  spec  : Bool
  /-- The Pelfold that must answer, when it is another one (R271). -/
  remote : Option Nat
  /-- After a halt: the image place of the reply slot its reply goes to (R262). -/
  redirect : Option Nat
  /-- Its stand has been halted: it completes without it (R145). -/
  orphan : Bool
  /-- Lanes of its instruction are parked on a page fault: it stays counted until they are done too (R48, R346). -/
  more   : Bool
  /-- The operation of the same instruction's earlier lanes, which counts and carries the charge (R132, R346). -/
  lead   : Option Nat
  /-- Conversion flags that the load sets when it leaves its counter (R347). -/
  fl     : BitVec 4
  /-- The instruction counted in `retcnt` when it committed (R221). -/
  counted : Bool
  /-- Bytes of memory that a load found in the snapshot cache while it was speculative (R23, R347). -/
  seen  : SMap Byte := []
  /-- The homes that have served its request before the last of them has (R276–R278). -/
  gone  : List Nat := []
  work  : Work
  deriving DecidableEq, Repr

/-- An instruction that a path has issued past an unresolved branch, or that branch: its PC, and the operation of a load (R22). -/
structure Beyond where
  pc : BitVec 17
  op : Option Nat := none
  deriving DecidableEq, Repr

/-- What a path of stand `uid` has issued ahead of its PC, the branch where it waits first; the PC after the last; and whether it went another
way, so that all of it is to be squashed (R22, R24). -/
structure Ahead where
  uid    : Nat
  past   : List Beyond
  next   : BitVec 17
  squash : Bool := false
  deriving DecidableEq, Repr

/-- A publication that a release started (R172, R179): the stand, its core, the scope, whether later reads wait for it,
the tile operations that must be applied first (R199), and the chain, with its generation, whose tail a CHADV publishes after
it (R240). -/
structure Pub where
  id    : Nat
  uid   : Nat
  core  : Nat
  scope : Nat
  reads : Bool
  tiles : List Nat
  chain : Option (Nat × Nat) := none
  deriving DecidableEq, Repr

/-- The enqueue of a successor record, under way to a queue of another die or waiting after FULL (R247, R251): the queue handle, the
record, the counter line that gets the outcome, and whether the line is a launch's completion counter, whose provisional flag
stays (R33, R269). -/
structure Enq where
  id     : Nat
  handle : DWord
  ctx    : Nat
  bytes  : List Byte
  line   : Nat
  retry  : Bool
  keep   : Bool
  deriving DecidableEq, Repr

/-- What the Pelfold sends to the outside: to the host and system software, the debugger, a rack scheduler or an SPDM requester. -/
inductive Msg where
  | pageFault (ctx gsi : Nat) (va : DWord)
  | mcheck (r : MCheck)
  | irq (vector : Nat)
  | completion (ctx launch : Nat)
  | debugStop (ctx gsi path : Nat)
  | report (bytes : List Byte)
  | spdm (blocks : List (List Byte))
  | thermal (die : Nat)
  /-- An RDMA write to the remote memory of an Ultra Ethernet peer (R238). -/
  | rdmaWrite (peer : Nat) (raddr rkey : DWord) (bytes : List Byte)
  | frame (pa : Nat)
  | reexecute (launch : Nat)
  | hold
  deriving DecidableEq, Repr

/-- The firmware images, in the order in which the boot ROM measures them (R291; log entry 92). -/
inductive FwKind where
  | boot
  | distributor (die : Nat)
  | controller (die : Nat)
  | fabric
  deriving DecidableEq, Repr

/-- The images of a Pelfold in that order. -/
def fwOrder : List FwKind :=
  [.boot, .distributor 0, .controller 0, .distributor 1, .controller 1, .distributor 2, .controller 2, .distributor 3, .controller 3, .fabric]

/-- A firmware image as the boot ROM finds it: its bytes and whether its signature holds (R291). -/
structure Firmware where
  kind  : FwKind
  bytes : List Byte
  valid : Bool
  deriving DecidableEq, Repr

/-- Whether the package has booted (R291, R292). -/
inductive Power where
  | off | reset | recovery | on
  deriving DecidableEq, Repr

/-- The fabric as one Pelfold sees it (R178, R270, R280–R283). -/
structure Fabric where
  /-- The partition carries traffic. -/
  up      : Bool := true
  /-- Links out of every routing table. -/
  down    : List Nat := []
  /-- Withdrawn wavelengths of each transmit fibre. -/
  waves   : SMap (BitVec 8) := []
  /-- Next sequence number awaited from each source core, and packets held for reordering (R178). -/
  next    : SMap Nat := []
  heldPk  : List (Nat × Nat × Nat) := []
  /-- Cycle of die 0 at which each Pelfold's last hold notice came (R270). -/
  holds   : SMap Nat := []
  deriving DecidableEq, Repr

/-- The path at the issue position: stand key, path-table index, and whether a replay record issues (R379). -/
structure Cur where
  st     : Nat
  path   : Nat
  replay : Bool
  deriving DecidableEq, Repr

/-- The state of one Pelfold. -/
structure State where
  power    : Power
  firmware : List Firmware
  /-- SHA-384 measurements, one per image (R291). -/
  measured : List (List Byte)
  /-- The Pelfold's number in its load-store domain (R125). -/
  devid    : Nat
  /-- Memory at the homes, by physical address (R125). -/
  mem      : List (Nat × Byte)
  /-- Poisoned sectors (by sector number), tile-buffer full bits and live backing lines (by line number) (R200, R208, R248). -/
  poison   : SMap Bool
  full     : SMap Bool
  live     : SMap Nat
  /-- Retired 64 KiB frames of memory, by frame number (R267). -/
  badFrames : SMap Bool
  ctxs     : SMap Ctx
  ifs      : SMap TenantIf
  dies     : SMap Die
  copses   : SMap Copse
  cores    : SMap Core
  homes    : SMap Home
  launches : SMap Launch
  groves   : SMap Grove
  stands   : SMap Stand
  /-- Generations of the directory slots, by kind, die and index; 1 where not listed (R380). -/
  gens     : SMap Nat
  groups   : SMap Group
  queues   : SMap Queue
  chains   : SMap Chain
  endpoints : SMap Endpoint
  /-- Records dropped at each queue window (R253). -/
  qdrop    : SMap DWord
  outs     : SMap Out
  /-- What paths have issued speculatively, by `aheadKey` (R22). -/
  ahead    : SMap Ahead
  pubs     : List Pub
  enqs     : List Enq
  fab      : Fabric
  sent     : List Msg
  cur      : Cur
  /-- The quarter that issued last, and the number for the next operation, publication, launch, grove or stand. -/
  turn     : Nat
  nextId   : Nat
  /-- What reaches the machine from outside, and which unit moves next: the steps to come (log entry 2). -/
  agenda   : List Instr
  deriving DecidableEq, Repr

/-- A physical core right after power-on: physical core 8 of each copse is withdrawn (R268). -/
def Core.init (k : Nat) : Core :=
  { work := if k % Config.physPerCopse < Config.workPerCopse then some (k % Config.physPerCopse) else none }

/-- The machine right after reset: nothing admitted, launched or placed, memory with nothing listed (R261, R268, R287, R380). -/
def State.reset : State where
  power    := .reset
  firmware := fwOrder.map fun k => ⟨k, [], true⟩
  measured := []
  devid    := 0
  mem      := []
  poison   := []
  full     := []
  live     := []
  badFrames := []
  ctxs     := []
  ifs      := []
  dies     := []
  copses   := []
  cores    := []
  homes    := []
  launches := []
  groves   := []
  stands   := []
  gens     := []
  groups   := []
  queues   := []
  chains   := []
  endpoints := []
  qdrop    := []
  outs     := []
  ahead    := []
  pubs     := []
  enqs     := []
  fab      := {}
  sent     := []
  cur      := ⟨0, 0, false⟩
  turn     := 0
  nextId   := 1
  agenda   := []

end Sys2Proof.Machine
end

