-- ==== Sys2Proof/Machine/Access.lean ====
section
/-! DEFINITION. One home for every piece of state: the accessors through which the machine reads and writes its tables,
the numbering of cores and stands (R1, R10, R286), and what follows from a stand's place (its context, kernel, contract). -/

namespace Sys2Proof.Machine

/-- The answer of an arm of `exec`. -/
abbrev Out? := Host.Outcome State Fault Refusal

/-- Physical core of a stand key, and its core-local index (R10). -/
def coreOf (key : Nat) : Nat := key / Config.standsPerCore
def idxOf (key : Nat) : Nat := key % Config.standsPerCore
/-- Die and copse (of the Pelfold) of a physical core. -/
def dieOfCore (k : Nat) : Nat := k / Config.physPerDie
def copseOfCore (k : Nat) : Nat := k / Config.physPerCopse
/-- Copse of a core within its die (`copseid`). -/
def copseInDie (k : Nat) : Nat := copseOfCore k % Config.copses
/-- Physical cores of the Pelfold, ascending. -/
def allCores : List Nat := upFrom 0 (Config.dies * Config.physPerDie)
/-- Physical cores of a die. -/
def coresOfDie (d : Nat) : List Nat := upFrom (d * Config.physPerDie) Config.physPerDie

def State.core (s : State) (k : Nat) : Core := (SMap.get? s.cores k).getD (Core.init k)
def State.setCore (s : State) (k : Nat) (c : Core) : State := { s with cores := SMap.insert s.cores k c }
def State.modCore (s : State) (k : Nat) (f : Core → Core) : State := s.setCore k (f (s.core k))
def State.copse (s : State) (k : Nat) : Copse := SMap.get {} s.copses k
def State.setCopse (s : State) (k : Nat) (c : Copse) : State := { s with copses := SMap.insert s.copses k c }
def State.die (s : State) (d : Nat) : Die := SMap.get {} s.dies d
def State.setDie (s : State) (d : Nat) (x : Die) : State := { s with dies := SMap.insert s.dies d x }
def State.modDie (s : State) (d : Nat) (f : Die → Die) : State := s.setDie d (f (s.die d))
def State.ctx (s : State) (c : Nat) : Ctx := SMap.get {} s.ctxs c
def State.setCtx (s : State) (c : Nat) (x : Ctx) : State := { s with ctxs := SMap.insert s.ctxs c x }
def State.modCtx (s : State) (c : Nat) (f : Ctx → Ctx) : State := s.setCtx c (f (s.ctx c))
def State.home (s : State) (h : Nat) : Home := SMap.get {} s.homes h
def State.setHome (s : State) (h : Nat) (x : Home) : State := { s with homes := SMap.insert s.homes h x }
def State.modHome (s : State) (h : Nat) (f : Home → Home) : State := s.setHome h (f (s.home h))
def State.iface (s : State) (i : Nat) : TenantIf := SMap.get {} s.ifs i
def State.setIface (s : State) (i : Nat) (x : TenantIf) : State := { s with ifs := SMap.insert s.ifs i x }
def State.stand (s : State) (k : Nat) : Stand := SMap.get {} s.stands k
def State.setStand (s : State) (k : Nat) (x : Stand) : State := { s with stands := SMap.insert s.stands k x }
def State.modStand (s : State) (k : Nat) (f : Stand → Stand) : State := s.setStand k (f (s.stand k))
/-- Change a stand that is still there; nothing happens to a key that holds none. -/
def State.modStand? (s : State) (k : Nat) (f : Stand → Stand) : State := { s with stands := SMap.modify s.stands k f }
def State.grove (s : State) (g : Nat) : Grove := SMap.get {} s.groves g
def State.setGrove (s : State) (g : Nat) (x : Grove) : State := { s with groves := SMap.insert s.groves g x }
def State.modGrove (s : State) (g : Nat) (f : Grove → Grove) : State := s.setGrove g (f (s.grove g))
def State.launch (s : State) (l : Nat) : Launch := SMap.get {} s.launches l
def State.setLaunch (s : State) (l : Nat) (x : Launch) : State := { s with launches := SMap.insert s.launches l x }
def State.modLaunch (s : State) (l : Nat) (f : Launch → Launch) : State := s.setLaunch l (f (s.launch l))
def State.setOut (s : State) (i : Nat) (o : Out) : State := { s with outs := SMap.insert s.outs i o }
def State.dropOut (s : State) (i : Nat) : State := { s with outs := SMap.erase s.outs i }
/-- Tell the outside world something. -/
def State.tell (s : State) (m : Msg) : State := { s with sent := s.sent ++ [m] }
/-- Take the next number for an operation, publication, launch, grove or stand. -/
def State.bump (s : State) : State := { s with nextId := s.nextId + 1 }

/-- A grove's launch, and the kernel and context it runs. -/
def State.launchOf (s : State) (st : Stand) : Launch := s.launch (s.grove st.grove).launch
def State.kernelOf (s : State) (st : Stand) : Kernel := (s.launchOf st).kernel

/-- Working-core number of a physical core within its copse; a withdrawn core reads as its physical place (R268). -/
def State.workOf (s : State) (k : Nat) : Nat := ((s.core k).work).getD (k % Config.physPerCopse)

/-- Physical core with copse-local working number `w` in copse `c` of the Pelfold (R268). -/
def State.physOf (s : State) (c w : Nat) : Option Nat :=
  (upFrom (c * Config.physPerCopse) Config.physPerCopse).find? fun k => (s.core k).work = some w

/-- Number of the working core on its die: copse × 8 + working core (R28, R211). -/
def State.workInDie (s : State) (k : Nat) : Nat := copseInDie k * Config.workPerCopse + s.workOf k

/-- The global stand index (R211): die × 6144 + core × 64 + index, over working cores. -/
def State.gsi (s : State) (key : Nat) : Nat :=
  let k := coreOf key
  dieOfCore k * 6144 + s.workInDie k * 64 + idxOf key

/-- Which resident context slot of core `k` holds context `c` (R21). -/
def State.slotOf (s : State) (k c : Nat) : Option Bool :=
  let x := s.core k
  if x.slot0.ctx = some c then some false
  else if x.slot1.ctx = some c then some true
  else none

def Core.slot (c : Core) (b : Bool) : CtxSlot := if b then c.slot1 else c.slot0
def Core.setSlot (c : Core) (b : Bool) (x : CtxSlot) : Core := if b then { c with slot1 := x } else { c with slot0 := x }

/-- The context slot of context `c` on core `k`; an empty slot where it holds none. -/
def State.ctxSlot (s : State) (k c : Nat) : CtxSlot :=
  match s.slotOf k c with
  | some b => (s.core k).slot b
  | none => {}

/-- Change the context slot of context `c` on core `k`. -/
def State.modSlot (s : State) (k c : Nat) (f : CtxSlot → CtxSlot) : State :=
  match s.slotOf k c with
  | some b => s.modCore k fun x => x.setSlot b (f (x.slot b))
  | none => s

/-- The contract (R140, R142, R286). -/
def Ctx.vxcbnd (c : Ctx) : Nat := DWord.bits c.cbound 15 0
def Ctx.rho (c : Ctx) : Nat := DWord.bits c.cbound 27 16
/-- Dies the context may occupy (R286). -/
def Ctx.dieMask (c : Ctx) : Nat := DWord.bits c.cplace 3 0
def Ctx.dieList (c : Ctx) : List Nat := (upFrom 0 4).filter fun d => c.dieMask.testBit d
def Ctx.vxctx (c : Ctx) : Nat := if c.dieList.length ≤ 1 then 2 else 5
def Ctx.vxbnd (c : Ctx) : Nat := c.vxcbnd - c.vxctx
/-- The most cores of die `d` the context may occupy (R286). -/
def Ctx.maxCores (c : Ctx) (d : Nat) : Nat := DWord.bits c.cplace (15 + 8 * d) (8 + 8 * d)
/-- Local bytes per lane (R122). -/
def Ctx.locsz (c : Ctx) : Nat := DWord.bits c.clocal 16 0

/-- Save area and local region of physical core `k` (R260, R122, R286). -/
def Ctx.saveArea (c : Ctx) (k : Nat) : Nat :=
  (SMap.get 0 c.csave (dieOfCore k)).toNat + (k % Config.physPerDie) * DWord.bits c.cstride 31 0
def Ctx.localRegion (c : Ctx) (k : Nat) : Nat :=
  (SMap.get 0 c.clocb (dieOfCore k)).toNat + (k % Config.physPerDie) * DWord.bits c.cstride 63 32
/-- The local part of the stand at core-local index `i` of core `k` (R122). -/
def Ctx.localPart (c : Ctx) (key : Nat) : Nat := c.localRegion (coreOf key) + idxOf key * 32 * c.locsz

/-- A path-table entry. -/
def Stand.path (st : Stand) (i : Nat) : Path := SMap.get {} st.paths i
def Stand.setPath (st : Stand) (i : Nat) (p : Path) : Stand := { st with paths := SMap.set {} st.paths i p }
def Stand.modPath (st : Stand) (i : Nat) (f : Path → Path) : Stand := st.setPath i (f (st.path i))
/-- The indices of the path table. -/
def pathIdx : List Nat := upFrom 0 8
/-- A slot of the path overflow area (R14). -/
def Stand.overSlot (st : Stand) (i : Nat) : Path := SMap.get {} st.ovf i
def Stand.setOver (st : Stand) (i : Nat) (p : Path) : Stand := { st with ovf := SMap.set {} st.ovf i p }

/-- Whether an entry has lanes that issue (R20). -/
def PState.runs : PState → Bool
  | .active | .serial | .serialj => true
  | _ => false

/-- Stands of a context, of a core, of a grove: keys in ascending order. -/
def State.standsWhere (s : State) (f : Nat → Stand → Bool) : List Nat := (s.stands.filter fun kv => f kv.1 kv.2).map (·.1)
def State.standsOfCtx (s : State) (c : Nat) : List Nat := s.standsWhere fun _ st => st.ctx == c
def State.standsOfCore (s : State) (k : Nat) : List Nat := s.standsWhere fun key _ => coreOf key == k
def State.standsOfGrove (s : State) (g : Nat) : List Nat := s.standsWhere fun _ st => st.grove == g

/-- The key at which the stand with number `uid` sits now. -/
def State.keyOfUid (s : State) (uid : Nat) : Option Nat := (s.stands.find? fun kv => kv.2.uid == uid).map (·.1)

/-- The outstanding operations of the stand with number `uid`, in issue order; what it has issued speculatively is not among them: no other
instruction waits for it or follows it (R24). -/
def State.outsOf (s : State) (uid : Nat) : List (Nat × Out) := s.outs.filter fun kv => kv.2.uid == uid && !kv.2.spec
/-- What a path of that stand has issued speculatively and is still to do (R22). -/
def State.specOps (s : State) (uid idx : Nat) : List (Nat × Out) := s.outs.filter fun kv => kv.2.uid == uid && kv.2.spec && kv.2.path == idx

/-- Change the stand that issued an operation, unless a halt has parted them (R145). -/
def State.modOwner (s : State) (o : Out) (f : Stand → Stand) : State := if o.orphan then s else s.modStand? o.st f

/-- The count of a wait counter, and the count changed (R48, R50). -/
def Stand.count (st : Stand) : Ctr → Nat
  | .none => 0
  | .loads => st.loads
  | .stores => st.stores
  | .copies => st.copies
  | .tiles => st.tiles
  | .detached => st.detached
def Stand.setCount (st : Stand) (c : Ctr) (n : Nat) : Stand :=
  match c with
  | .none => st
  | .loads => { st with loads := n }
  | .stores => { st with stores := n }
  | .copies => { st with copies := n }
  | .tiles => { st with tiles := n }
  | .detached => { st with detached := n }
/-- An operation leaves the counter that counts it. -/
def State.uncount (s : State) (o : Out) : State := s.modOwner o fun t => t.setCount o.ctr (t.count o.ctr - 1)

/-- The die-local cycle of the die of core `k` (R287). -/
def State.cycOf (s : State) (k : Nat) : Nat := (s.die (dieOfCore k)).cyc

/-- Let time pass on a die until cycle `c` at the least. -/
def State.reachCyc (s : State) (d c : Nat) : State := if (s.die d).cyc < c then s.modDie d fun x => { x with cyc := c } else s

/-- Mark every path, and every replay record, as possibly ready again: what it waited for may have come (R20). -/
def State.wake (s : State) : State :=
  { s with stands := s.stands.map fun kv => (kv.1, { kv.2 with
      paths := kv.2.paths.map fun pv => (pv.1, { pv.2 with wait := none }),
      replays := kv.2.replays.map fun r => { r with wait := none } }) }

end Sys2Proof.Machine
end

