-- ==== Sys2Proof/Machine/Paths.lean ====
section
/-! DEFINITION. The path table of a stand: enabled lanes, splits, joins, exits and the overflow area (R11–R18, R318,
R327, R343), and the bytes of an entry (R11). -/

namespace Sys2Proof.Machine

/-- `em` of a path: its MASK without the disabled lanes (R17). -/
def Stand.em (st : Stand) (i : Nat) : Mask := (st.path i).mask &&& ~~~st.dis

/-- Write `em`: lanes outside MASK are not touched (R17). -/
def Stand.setEm (st : Stand) (i : Nat) (v : Mask) : Stand :=
  let m := (st.path i).mask
  { st with dis := (st.dis &&& ~~~m) ||| (m &&& ~~~v) }

/-- FREE entries, ascending. -/
def Stand.freePaths (st : Stand) : List Nat := pathIdx.filter fun i => (st.path i).state == .free

/-- Whether every entry but `i` is FREE (R258, R304). -/
def Stand.alone (st : Stand) (i : Nat) : Bool := pathIdx.all fun j => j == i || (st.path j).state == .free

/-- The lanes of a stand that have not exited: none where every entry is FREE (R16). -/
def Stand.hasLanes (st : Stand) : Bool := pathIdx.any fun i => (st.path i).state != .free

/-- A new path; it is older than one that becomes ready after cycle `now` (R13, R19). -/
def Path.start (parent : Nat) (pc : BitVec 17) (mask : Mask) (now : Nat) : Path :=
  { state := .active, parent := BitVec.ofNat 3 parent, pc := pc, mask := mask, age := now, fresh := true }

/-- What of an entry an overflow slot holds: the 16 bytes of the table, nothing of the issue state (R13). -/
def Path.entry (p : Path) : Path :=
  { state := p.state, parent := p.parent, link := p.link, held := p.held, pc := p.pc, jt := p.jt, xpc := p.xpc, mask := p.mask, aux := p.aux }

/-- A concurrent split: the entry becomes a RECORD, and the groups take FREE entries in order, lowest first (R13, R318). -/
def Stand.splitFree (st : Stand) (i : Nat) (jt : BitVec 17) (now : Nat) (groups : List (BitVec 17 × Mask)) : Stand :=
  let p := st.path i
  let st1 := st.setPath i { p with state := .record, jt := jt, aux := 0 }
  (st.freePaths.zip groups).foldl (fun t jg => t.setPath jg.1 (Path.start i jg.2.1 jg.2.2 now)) st1

/-- A serial split: `m` runs at `pc`, `n` waits at `xpc`; an entry that was serial already goes to the lowest free overflow
slot (R13, R318). -/
def Stand.splitSerial (st : Stand) (i : Nat) (jt pc : BitVec 17) (m : Mask) (xpc : BitVec 17) (n : Mask) : Stand :=
  let p := st.path i
  if p.state == .active then
    st.setPath i { p with state := .serial, pc := pc, mask := m, xpc := xpc, aux := n, jt := jt, link := 0 }
  else
    let slot := (SMap.lowestFree st.ovf 0 32).getD 0
    (st.setOver slot p.entry).setPath i
      { p with state := .serial, pc := pc, mask := m, xpc := xpc, aux := n, jt := jt, link := BitVec.ofNat 6 (slot + 1) }

/-- Move a path by a BRA whose checks have passed: `none` where a branch declared uniform is mixed (R13). -/
def Stand.branch (st : Stand) (i : Nat) (taken : Mask) (tgt fall : BitVec 17) (jt : Option (BitVec 17)) (now : Nat) : Option Stand :=
  let p := st.path i
  if taken = 0 then some (st.setPath i { p with pc := fall })
  else if taken = st.em i then some (st.setPath i { p with pc := tgt })
  else
    let rest := p.mask &&& ~~~taken
    jt.map fun j =>
      if p.state == .active && decide (2 ≤ st.freePaths.length) then st.splitFree i j now [(tgt, taken), (fall, rest)]
      else st.splitSerial i j tgt taken fall rest

/-- A record whose arrived lanes are all its lanes becomes ACTIVE at the word after its join (R15). -/
def Stand.mergeRecord (st : Stand) (r now : Nat) : Stand :=
  let p := st.path r
  st.setPath r { p with state := .active, pc := p.jt + 1, aux := 0, jt := 0, age := now, wait := none }

/-- The merge of a SERIALJ entry with lanes `m`, at the word after its join; with a LINK the displaced content comes back
(R15). -/
def Stand.mergeSerial (st : Stand) (i : Nat) (m : Mask) (now : Nat) : Stand :=
  let p := st.path i
  if p.link = 0 then
    st.setPath i { p with state := .active, mask := m, pc := p.jt + 1, aux := 0, jt := 0, xpc := 0, age := now, wait := none }
  else
    let slot := p.link.toNat - 1
    let q := st.overSlot slot
    (st.setOver slot {}).setPath i
      { p with state := q.state, parent := q.parent, link := q.link, xpc := q.xpc, jt := q.jt, aux := q.aux, held := q.held,
               mask := m, pc := p.jt + 1 }

/-- JOIN by the path at entry `i` with PC `pc` (R15); the PC of a path that goes on is set here. What a path's stores still have to raise
goes on with its lanes (R208). -/
def Stand.join (st : Stand) (i : Nat) (pc : BitVec 17) (now : Nat) : Stand :=
  let p := st.path i
  let r := p.parent.toNat
  let q := st.path r
  match p.state with
  | .active =>
    if q.state == .record && r != i && pc == q.jt then
      let st1 := (st.setPath i {}).setPath r { q with aux := q.aux ||| p.mask, glines := q.glines ++ p.glines }
      if q.aux ||| p.mask = q.mask then st1.mergeRecord r now else st1
    else st.setPath i { p with pc := pc + 1 }
  | .serial =>
    if pc = p.jt then st.setPath i { p with state := .serialj, aux := p.mask, mask := p.aux, pc := p.xpc, xpc := 0 }
    else st.setPath i { p with pc := pc + 1 }
  | .serialj =>
    if pc = p.jt then st.mergeSerial i (p.mask ||| p.aux) now
    else st.setPath i { p with pc := pc + 1 }
  | _ => st

/-- Take lanes out of the MASK of the ancestor records of entry `r` and above (R16). -/
def Stand.dropAncestors (st : Stand) (x : Mask) : Nat → Nat → Stand
  | _, 0 => st
  | i, fuel + 1 =>
    let r := (st.path i).parent.toNat
    if r = i then st
    else
      let q := st.path r
      (if q.state == .record then st.setPath r { q with mask := q.mask &&& ~~~x } else st).dropAncestors x r fuel

/-- Take lanes out of the MASK of the displaced content that LINKs reach (R16). -/
def Stand.dropOver (st : Stand) (x : Mask) : Nat → Nat → Stand
  | _, 0 => st
  | link, fuel + 1 =>
    if link = 0 then st
    else
      let q := st.overSlot (link - 1)
      (st.setOver (link - 1) { q with mask := q.mask &&& ~~~x }).dropOver x q.link.toNat fuel

/-- What follows when the running group of entry `i` is empty, or the MASK of record `i` has lost lanes (R16). -/
def Stand.settle (st : Stand) (now : Nat) : Nat → Nat → Stand
  | _, 0 => st
  | i, fuel + 1 =>
    let p := st.path i
    let r := p.parent.toNat
    let free := fun (t : Stand) => let t1 := t.setPath i {}; if r = i then t1 else t1.settle now r fuel
    match p.state with
    | .free => st
    | .active => if p.mask = 0 then free st else st
    | .record =>
      if p.mask = 0 then free st
      else if p.aux = p.mask then st.mergeRecord i now
      else st
    | .serial =>
      if p.mask ≠ 0 then st
      else if p.aux ≠ 0 then st.setPath i { p with state := .serialj, mask := p.aux, aux := 0, pc := p.xpc, xpc := 0 }
      else if p.link = 0 then free st
      else (st.mergeSerial i 0 now).settle now i fuel
    | .serialj =>
      if p.mask ≠ 0 then st
      else if p.aux ≠ 0 then st.mergeSerial i p.aux now
      else if p.link = 0 then free st
      else (st.mergeSerial i 0 now).settle now i fuel

/-- Remove lanes `x` of the path at entry `i` from the stand (R16). Groups that the fuel counts: 8 entries and 32 slots. -/
def Stand.removeLanes (st : Stand) (i : Nat) (x : Mask) (now : Nat) : Stand :=
  let p := st.path i
  (((st.setPath i { p with mask := p.mask &&& ~~~x }).dropAncestors x i 8).dropOver x p.link.toNat 33).settle now i 48

/-- Whether entry `j` belongs to the handler that runs at entry `i`: the entry itself, or one split off from it. -/
def Stand.underEntry (st : Stand) (i : Nat) : Nat → Nat → Bool
  | _, 0 => false
  | j, fuel + 1 => j == i || (let r := (st.path j).parent.toNat; r != j && st.underEntry i r fuel)

/-- Whether a trap handler holds entry `j` back (R256). -/
def Stand.heldByTrap (st : Stand) (j : Nat) : Bool :=
  match st.inHandler with
  | none => false
  | some i => !st.underEntry i j 9

/-- The path that takes a late trap of an operation that the path at entry `idx` issued: the one that now runs its lowest lane, else that one,
else any that runs (log entry 23). -/
def Stand.pathFor (st : Stand) (idx : Nat) (m : Mask) : Option Nat :=
  let runs := pathIdx.filter fun i => (st.path i).state.runs
  let byLane := match Mask.first m with
    | some l => runs.find? fun i => (st.path i).mask.getLsbD l
    | none => none
  match byLane with
  | some i => some i
  | none => if runs.contains idx then some idx else runs.head?

/-- Codes of the states (R12), and back; codes 5–7 are illegal. -/
def PState.code : PState → Nat
  | .free => 0 | .active => 1 | .record => 2 | .serial => 3 | .serialj => 4
def PState.ofCode : Nat → Option PState
  | 0 => some .free | 1 => some .active | 2 => some .record | 3 => some .serial | 4 => some .serialj | _ => none

/-- An entry as a 128-bit number, and back; an illegal STATE gives none (R11). -/
def Path.bits (p : Path) : Nat :=
  field p.state.code 125 + field p.parent.toNat 122 + field p.link.toNat 116 + field (b2n p.held) 115 + field p.pc.toNat 98
    + field p.jt.toNat 81 + field p.xpc.toNat 64 + field p.mask.toNat 32 + p.aux.toNat
def Path.ofBits (n : Nat) : Option Path :=
  (PState.ofCode (n / 2 ^ 125 % 8)).map fun st =>
    { state := st, parent := BitVec.ofNat 3 (n / 2 ^ 122), link := BitVec.ofNat 6 (n / 2 ^ 116), held := n.testBit 115,
      pc := BitVec.ofNat 17 (n / 2 ^ 98), jt := BitVec.ofNat 17 (n / 2 ^ 81), xpc := BitVec.ofNat 17 (n / 2 ^ 64),
      mask := BitVec.ofNat 32 (n / 2 ^ 32), aux := BitVec.ofNat 32 n }

end Sys2Proof.Machine
end

