-- ==== Sys2Proof/WellFormed.lean ====
section
/-! DEFINITION. Well-formed instructions: the operand ranges that the field kinds of spec/02_encoding.md R40 and the
entries of spec/20 to spec/23 give, where the operand's type does not give them already. The ranges of the steps
without an encoding are those of the objects they name (R1, R10, R286). -/

namespace Sys2Proof

/-- Every operand lies in the range the spec gives its field. -/
def Instr.wellFormed : Instr → Bool
  | .illegal word => decide (word.extractLsb' 21 7 = 0)
  | .nop _ => true
  | .bra _ _ p _ _ => decide (p.toNat ≤ 16)
  | .brx _ _ _ _ => true
  | .join _ => true
  | .call _ _ _ => true
  | .ret _ _ => true
  | .exit _ => true
  | .wait _ _ => true
  | .yield _ => true
  | .spawn _ _ _ _ => true
  | .trap _ _ _ => true
  | .eret _ => true
  | .brk _ => true
  | .idem _ => true
  | .mode _ _ _ => true
  | .iadd _ _ _ _ => true
  | .isub _ _ _ _ => true
  | .imul _ _ _ _ => true
  | .imulh _ _ _ _ => true
  | .imad _ _ _ _ => true
  | .imin _ _ _ _ => true
  | .imax _ _ _ _ => true
  | .and _ _ _ _ => true
  | .or _ _ _ _ => true
  | .xor _ _ _ _ => true
  | .shl _ _ _ _ => true
  | .shr _ _ _ _ => true
  | .sar _ _ _ _ => true
  | .iset _ c _ _ _ => decide (c.toNat ≤ 5)
  | .sel _ _ _ p => decide (p.toNat ≤ 16)
  | .idp4 _ _ _ _ => true
  | .fadd _ _ _ _ => true
  | .fsub _ _ _ _ => true
  | .fmul _ _ _ _ => true
  | .ffma _ _ _ _ => true
  | .fmin _ _ _ _ => true
  | .fmax _ _ _ _ => true
  | .fset _ _ _ _ _ => true
  | .fdp2 _ _ _ _ => true
  | .mov _ _ _ => true
  | .not _ _ _ => true
  | .iabs _ _ _ => true
  | .ineg _ _ _ => true
  | .popc _ _ _ => true
  | .clz _ _ _ => true
  | .brev _ _ _ => true
  | .lrank _ _ _ => true
  | .lidx _ _ => true
  | .fabs _ _ _ => true
  | .fneg _ _ _ => true
  | .frcp _ _ _ => true
  | .frsq _ _ _ => true
  | .fsqrt _ _ _ => true
  | .fexp2 _ _ _ => true
  | .flog2 _ _ _ => true
  | .fsin _ _ _ => true
  | .fcos _ _ _ => true
  | .cvt _ _ _ _ => true
  | .iaddk _ _ _ _ => true
  | .movk _ _ _ => true
  | .csrr _ _ _ => true
  | .csrw _ _ _ => true
  | .pand _ d a b => decide (d.toNat ≤ 16 ∧ a.toNat ≤ 16 ∧ b.toNat ≤ 16)
  | .por _ d a b => decide (d.toNat ≤ 16 ∧ a.toNat ≤ 16 ∧ b.toNat ≤ 16)
  | .pxor _ d a b => decide (d.toNat ≤ 16 ∧ a.toNat ≤ 16 ∧ b.toNat ≤ 16)
  | .pandn _ d a b => decide (d.toNat ≤ 16 ∧ a.toNat ≤ 16 ∧ b.toNat ≤ 16)
  | .p2s _ _ a => decide (a.toNat ≤ 16)
  | .s2p _ d _ => decide (d.toNat ≤ 16)
  | .lshf _ _ _ _ => true
  | .lbcs _ _ _ _ => true
  | .lmatch _ _ _ => true
  | .lpfx _ _ _ _ => true
  | .lred _ _ _ kind => decide (kind ≠ 3)
  | .lvote _ kind _ a => decide (a.toNat ≤ 16 ∧ kind ≠ 3)
  | .xchg _ _ _ _ => true
  | .v2s _ _ _ _ => true
  | .s2v _ _ _ _ => true
  | .sadd _ _ _ _ => true
  | .ssub _ _ _ _ => true
  | .smul _ _ _ _ => true
  | .sand _ _ _ _ => true
  | .sor _ _ _ _ => true
  | .sxor _ _ _ _ => true
  | .sshl _ _ _ _ => true
  | .sshr _ _ _ _ => true
  | .sset _ _ _ _ _ => true
  | .smovk _ _ _ => true
  | .saddk _ _ _ _ => true
  | .sld _ _ _ => true
  | .sst _ _ _ => true
  | .ld _ _ _ _ => true
  | .st _ _ _ _ => true
  | .pref _ _ _ _ => true
  | .phase _ kind scope => decide (kind ≠ 0 ∧ scope.toNat < 6)
  | .acvt _ _ win _ _ => decide (win ≠ 3)
  | .awin _ d _ _ => decide (d.toNat ≤ 16)
  | .discard _ _ _ => true
  | .aadd _ _ _ _ => true
  | .amin _ _ _ _ => true
  | .amax _ _ _ _ => true
  | .aand _ _ _ _ => true
  | .aor _ _ _ _ => true
  | .axor _ _ _ _ => true
  | .axch _ _ _ _ => true
  | .acas _ _ _ _ => true
  | .tacc _ _ _ lit => decide (lit ≠ 0 ∧ lit.extractLsb' 0 7 = 0)
  | .ast _ _ _ lit => decide (lit ≠ 0 ∧ lit.extractLsb' 0 7 = 0)
  | .ald _ _ _ lit => decide (lit ≠ 0 ∧ lit.extractLsb' 0 7 = 0)
  | .rflush _ _ _ => true
  | .tagset _ _ _ => true
  | .tagget _ _ _ => true
  | .cpin _ _ _ a _ rows bytes => decide (a.toNat ≤ 61 ∧ rows ≠ 0 ∧ bytes ≠ 0)
  | .cpout _ _ _ b rows bytes => decide (b.toNat ≤ 61 ∧ rows ≠ 0 ∧ bytes ≠ 0)
  | .ktst _ d _ => decide (d.toNat ≤ 16)
  | .tmark _ _ => true
  | .vres _ _ => true
  | .vrel _ => true
  | .ptst _ _ _ => true
  | .ptld _ _ => true
  | .btake _ _ => true
  | .bpass _ _ => true
  | .oclm _ _ => true
  | .orel _ _ => true
  | .old _ _ _ _ => true
  | .mma _ _ _ _ => true
  | .azero _ _ => true
  | .amov _ _ _ _ _ => true
  | .amovv _ _ _ _ _ => true
  | .gang _ _ => true
  | .cbld _ _ _ => true
  | .gcrt _ _ _ _ => true
  | .gjoin _ _ _ => true
  | .gleave _ _ _ => true
  | .gbar _ _ _ => true
  | .gvote _ kind _ _ _ => decide (kind ≠ 3)
  | .gred _ _ _ _ op => decide (op ≠ 3)
  | .ginfo _ d _ => decide (d ≠ 62)
  | .gdel _ _ _ => true
  | .h2s _ _ _ => true
  | .s2h _ _ _ _ => true
  | .qenq _ _ _ b => decide (b.toNat ≤ 55)
  | .qdeq _ _ _ b => decide (b.toNat ≤ 55)
  | .qsteal _ _ _ b => decide (b.toNat ≤ 55)
  | .tdone _ _ _ => true
  | .tfull _ _ _ => true
  | .tempty _ _ _ => true
  | .tstat _ _ _ => true
  | .chapp _ _ _ b => decide (b.toNat ≤ 55)
  | .chadv _ _ => true
  | .chseq _ _ _ => true
  | .launchRecordEnqueue q _ => decide (q < 4096)
  | .grovePlacement die => decide (die < 4)
  | .colevelLaunchPlacement die => decide (die < 4)
  | .stealMessage die => decide (die < 4)
  | .standRetire _ => true
  | .completionCounterDecrement _ => true
  | .forwardedRecord _ => true
  | .schedulerQuery _ => true
  | .greedyRunLimit core quarter => decide (core < 432 ∧ quarter < 4)
  | .contextSwitchTimeslice core => decide (core < 432)
  | .contextSwitchIdle core => decide (core < 432)
  | .speculationSquash _ _ => true
  | .pageFaultResolved _ _ => true
  | .pageFaultFatal _ _ => true
  | .loadDataReturn _ => true
  | .storePerformed _ => true
  | .atomicAtHome _ _ => true
  | .atomicReply _ => true
  | .combineEntryTimeout core _ => decide (core < 432)
  | .publicationComplete _ => true
  | .copyComplete _ => true
  | .oldFillComplete _ => true
  | .mmaArrayStart _ => true
  | .mmaFinish _ => true
  | .aldComplete _ => true
  | .astPerformed _ => true
  | .cbldTableWrite _ => true
  | .tileOffer core => decide (core < 432)
  | .tileHeaderAtHome _ => true
  | .tileGrant _ => true
  | .tileRefused _ => true
  | .tileReofferTimer core => decide (core < 432)
  | .residualRetryTimer _ _ => true
  | .flushRequestAtHome _ => true
  | .tileApply _ _ => true
  | .groupOpAtController _ => true
  | .groupReply _ => true
  | .gredCellsFree die => decide (die < 4)
  | .queueOpAtController _ => true
  | .remoteQenqMessage _ => true
  | .counterDecrementAtHome _ => true
  | .successorEnqueueRetry _ => true
  | .bufferBitAtHome _ => true
  | .ioEntryStart _ => true
  | .ioEntryComplete _ _ _ => true
  | .remoteOpTimeout _ => true
  | .holdNotice pelfold => decide (pelfold < 64)
  | .watchdogExpiry _ => true
  | .ccmdAdmit c => decide (c < 1024)
  | .ccmdEnd c => decide (c < 1024)
  | .ccmdVacate c => decide (c < 1024)
  | .replySlotWrite _ _ => true
  | .vacateComplete c => decide (c < 1024)
  | .ccmdRestore c => decide (c < 1024)
  | .restoreGrovePlacement die => decide (die < 4)
  | .ccmdAttachDebugger c => decide (c < 1024)
  | .ccmdDetachDebugger c => decide (c < 1024)
  | .tlbInvalidateContext die _ => decide (die < 4)
  | .tlbInvalidateRange die _ => decide (die < 4)
  | .tlbInvalidationComplete die => decide (die < 4)
  | .ddirWrite die _ => decide (die < 4)
  | .switchCommand core _ => decide (core < 432)
  | .createQueue die c => decide (die < 4 ∧ c < 1024)
  | .destroyQueue die c => decide (die < 4 ∧ c < 1024)
  | .createChain die c => decide (die < 4 ∧ c < 1024)
  | .destroyChain die c => decide (die < 4 ∧ c < 1024)
  | .createEndpoint die c => decide (die < 4 ∧ c < 1024)
  | .destroyEndpoint die c => decide (die < 4 ∧ c < 1024)
  | .configRegisterWrite _ _ _ => true
  | .lockInterfaceRequest i => decide (i < 64)
  | .startInterfaceRequest i => decide (i < 64)
  | .stopInterfaceRequest i => decide (i < 64)
  | .interfaceLinkError i => decide (i < 64)
  | .uncorrectableError _ => true
  | .errorSelfTest _ _ => true
  | .coppiceScanEnd die copse _ => decide (die < 4 ∧ copse < 12)
  | .tokenTapVisit home => decide (home < 128)
  | .limiterRefill die c => decide (die < 4 ∧ c < 1024)
  | .packetArrival _ _ _ => true
  | .flitPayloadError _ _ => true
  | .linkFailure link => decide (link < 256)
  | .wavelengthErrorWindow fibre wl _ => decide (fibre < 256 ∧ wl < 8)
  | .wavelengthRetrainDone fibre wl _ => decide (fibre < 256 ∧ wl < 8)
  | .supplySag die _ => decide (die < 4)
  | .thermalThrottle die _ => decide (die < 4)
  | .thermalAlert die => decide (die < 4)
  | .debugHalt _ _ => true
  | .debugSetHeld _ _ => true
  | .breakpointHit _ _ => true
  | .singleStep _ _ => true
  | .debugSetBreakpoint core k _ => decide (core < 432 ∧ k < 8)
  | .debugSetWatchpoint core k _ => decide (core < 432 ∧ k < 8)
  | .debugReleaseHeld _ _ => true
  | .deterministicModeSwitch core _ _ _ => decide (core < 432)
  | .schedulerMessageDropped _ => true
  | .holdNoticeSend => true
  | .spdmMeasurementsRequest => true
  | .boot => true
  | .flitHeaderError => true
  | .thermalShutdown => true
  | .partitionReinitialise => true

/-- An instruction is well-formed. -/
abbrev Instr.WellFormed (i : Instr) : Prop := i.wellFormed = true

end Sys2Proof
end

