-- ==== Sys2Proof/Decode.lean ====
section
/-! DEFINITION. The decoder and, after it, the encoder of the Pelfold's words, both written from the field tables of
spec/02_encoding.md (R36–R42, R54–R58) and of the entries of spec/20 to spec/23. Decoding is total: a word that is not
an instruction is refused with the name of the field that fails. -/

namespace Sys2Proof

/-- Why a word is not an instruction (R58). -/
inductive DecodeErr where
  /-- Fewer bytes than the word, or the word and its literal, take. -/
  | short
  /-- VER 3 (R37). -/
  | version
  /-- An unassigned UNI or SYS function (R55, R56). -/
  | function
  /-- A D, A or B field outside its kind's range, or a nonzero Z field or unused C bit (R40). -/
  | fieldD | fieldA | fieldB
  /-- A literal that the instruction's entry calls illegal (R172, R189, R217, R235, R311). -/
  | literal
  deriving DecidableEq, Repr

/-- The six fields of a word (R36). -/
structure Raw where
  ver : BitVec 2
  sch : BitVec 2
  op  : BitVec 7
  d   : BitVec 7
  a   : BitVec 7
  b   : BitVec 7
  deriving DecidableEq, Repr

/-- A word taken apart into its fields (R36). -/
def Raw.ofWord (w : Word) : Raw :=
  ⟨w.extractLsb' 30 2, w.extractLsb' 28 2, w.extractLsb' 21 7, w.extractLsb' 14 7, w.extractLsb' 7 7, w.extractLsb' 0 7⟩

/-- The word made of six fields (R36). -/
def Raw.toWord (r : Raw) : Word := r.ver ++ r.sch ++ r.op ++ r.d ++ r.a ++ r.b

/-- Whether an OP value is of K format, so that a literal follows the word (R57). -/
def isKFormat (op : BitVec 7) : Bool :=
  ([0x02#7, 0x05#7, 0x08#7, 0x0A#7, 0x0F#7, 0x29#7, 0x2A#7, 0x45#7, 0x46#7, 0x4C#7, 0x58#7, 0x59#7, 0x5A#7, 0x5E#7, 0x5F#7, 0x71#7] : List (BitVec 7)).contains op

namespace Fields

def need (e : DecodeErr) (p : Prop) [Decidable p] : Except DecodeErr Unit := if p then .ok () else .error e
/-- The low `n` bits of a 7-bit field whose other bits are zero. -/
def low (n : Nat) (e : DecodeErr) (x : BitVec 7) : Except DecodeErr (BitVec n) :=
  if x.toNat < 2 ^ n then .ok (x.setWidth n) else .error e
def sreg (e : DecodeErr) (x : BitVec 7) : Except DecodeErr SReg := low 6 e x
def preg (e : DecodeErr) (x : BitVec 7) : Except DecodeErr PReg :=
  if x.toNat ≤ 16 then .ok (x.setWidth 5) else .error e
def f6 (e : DecodeErr) (x : BitVec 7) : Except DecodeErr (BitVec 6) := low 6 e x
def f5 (e : DecodeErr) (x : BitVec 7) : Except DecodeErr (BitVec 5) := low 5 e x
def f4 (e : DecodeErr) (x : BitVec 7) : Except DecodeErr (BitVec 4) := low 4 e x
def f3 (e : DecodeErr) (x : BitVec 7) : Except DecodeErr (BitVec 3) := low 3 e x
def f2 (e : DecodeErr) (x : BitVec 7) : Except DecodeErr (BitVec 2) := low 2 e x
def f1 (e : DecodeErr) (x : BitVec 7) : Except DecodeErr Bool := if x.toNat < 2 then .ok (x.getLsbD 0) else .error e
/-- VER of a word that is an instruction (R37). -/
def ver (x : BitVec 2) : Except DecodeErr Ver :=
  match x.toNat with
  | 0 => .ok .v0
  | 1 => .ok .v1
  | 2 => .ok .v2
  | _ => .error .version

end Fields

open Fields in
/-- The UNI functions (R55). -/
def decodeUni (h : Hdr) (r : Raw) : Except DecodeErr Instr :=
  match r.b.toNat with
  | 0x00 => .ok (.mov h (r.d) (r.a))
  | 0x01 => .ok (.not h (r.d) (r.a))
  | 0x02 => .ok (.iabs h (r.d) (r.a))
  | 0x03 => .ok (.ineg h (r.d) (r.a))
  | 0x04 => .ok (.popc h (r.d) (r.a))
  | 0x05 => .ok (.clz h (r.d) (r.a))
  | 0x06 => .ok (.brev h (r.d) (r.a))
  | 0x07 => .ok (.lrank h (r.d) (r.a))
  | 0x08 => do
      need .fieldA (r.a = 0)
      return .lidx h (r.d)
  | 0x10 => .ok (.fabs h (r.d) (r.a))
  | 0x11 => .ok (.fneg h (r.d) (r.a))
  | 0x12 => .ok (.frcp h (r.d) (r.a))
  | 0x13 => .ok (.frsq h (r.d) (r.a))
  | 0x14 => .ok (.fsqrt h (r.d) (r.a))
  | 0x15 => .ok (.fexp2 h (r.d) (r.a))
  | 0x16 => .ok (.flog2 h (r.d) (r.a))
  | 0x17 => .ok (.fsin h (r.d) (r.a))
  | 0x18 => .ok (.fcos h (r.d) (r.a))
  | _ => if 0x20 ≤ r.b.toNat ∧ r.b.toNat ≤ 0x2F then .ok (.cvt h (r.b.setWidth 4) (r.d) (r.a)) else .error .function

open Fields in
/-- The SYS functions (R56). -/
def decodeSys (h : Hdr) (r : Raw) : Except DecodeErr Instr :=
  match r.b.toNat with
  | 0x00 => do
      let d ← preg .fieldD r.d
      let k ← f3 .fieldA r.a
      return .ktst h d k
  | 0x01 => do
      need .fieldD (r.d = 0)
      let a ← sreg .fieldA r.a
      return .tmark h a
  | 0x02 => do
      need .fieldD (r.d = 0)
      let a ← sreg .fieldA r.a
      return .vres h a
  | 0x03 => do
      need .fieldD (r.d = 0)
      need .fieldA (r.a = 0)
      return .vrel h
  | 0x04 => do
      let d ← sreg .fieldD r.d
      let a ← sreg .fieldA r.a
      return .ptst h d a
  | 0x05 => do
      need .fieldD (r.d = 0)
      let a ← sreg .fieldA r.a
      return .ptld h a
  | _ => .error .function

open Fields in
/-- OP 0x01 to 0x1F of the opcode map (R54). -/
def decodeOp0 (h : Hdr) (r : Raw) (lit : Word) : Except DecodeErr Instr :=
  match r.op.toNat with
  | 0x01 => do
      need .fieldD (r.d = 0)
      need .fieldA (r.a = 0)
      need .fieldB (r.b = 0)
      return .nop h
  | 0x02 => do
      let neg ← f1 .fieldD r.d
      let p ← preg .fieldA r.a
      need .fieldB (r.b = 0)
      return .bra h neg p (lit.extractLsb' 16 16) (lit.extractLsb' 0 16)
  | 0x03 => do
      let b ← sreg .fieldB r.b
      return .brx h (r.d) (r.a) b
  | 0x04 => do
      need .fieldD (r.d = 0)
      need .fieldA (r.a = 0)
      need .fieldB (r.b = 0)
      return .join h
  | 0x05 => do
      let d ← sreg .fieldD r.d
      need .fieldA (r.a = 0)
      need .fieldB (r.b = 0)
      return .call h d lit
  | 0x06 => do
      need .fieldD (r.d = 0)
      let a ← sreg .fieldA r.a
      need .fieldB (r.b = 0)
      return .ret h a
  | 0x07 => do
      need .fieldD (r.d = 0)
      need .fieldA (r.a = 0)
      need .fieldB (r.b = 0)
      return .exit h
  | 0x08 => do
      need .fieldD (r.d = 0)
      need .fieldA (r.a = 0)
      need .fieldB (r.b = 0)
      return .wait h lit
  | 0x09 => do
      need .fieldD (r.d = 0)
      need .fieldA (r.a = 0)
      need .fieldB (r.b = 0)
      return .yield h
  | 0x0A => do
      let d ← sreg .fieldD r.d
      let a ← sreg .fieldA r.a
      need .fieldB (r.b = 0)
      return .spawn h d a lit
  | 0x0B => do
      need .fieldD (r.d = 0)
      let a ← sreg .fieldA r.a
      return .trap h a (r.b)
  | 0x0C => do
      need .fieldD (r.d = 0)
      need .fieldA (r.a = 0)
      need .fieldB (r.b = 0)
      return .eret h
  | 0x0D => do
      need .fieldD (r.d = 0)
      need .fieldA (r.a = 0)
      need .fieldB (r.b = 0)
      return .brk h
  | 0x0E => do
      need .fieldD (r.d = 0)
      need .fieldA (r.a = 0)
      need .fieldB (r.b = 0)
      return .idem h
  | 0x0F => do
      need .fieldA (r.a = 0)
      need .fieldB (r.b = 0)
      return .mode h (r.d) lit
  | 0x10 => .ok (.iadd h (r.d) (r.a) (r.b))
  | 0x11 => .ok (.isub h (r.d) (r.a) (r.b))
  | 0x12 => .ok (.imul h (r.d) (r.a) (r.b))
  | 0x13 => .ok (.imulh h (r.d) (r.a) (r.b))
  | 0x14 => .ok (.imad h (r.d) (r.a) (r.b))
  | 0x15 => .ok (.imin h (r.d) (r.a) (r.b))
  | 0x16 => .ok (.imax h (r.d) (r.a) (r.b))
  | 0x17 => .ok (.and h (r.d) (r.a) (r.b))
  | 0x18 => .ok (.or h (r.d) (r.a) (r.b))
  | 0x19 => .ok (.xor h (r.d) (r.a) (r.b))
  | 0x1A => .ok (.shl h (r.d) (r.a) (r.b))
  | 0x1B => .ok (.shr h (r.d) (r.a) (r.b))
  | 0x1C => .ok (.sar h (r.d) (r.a) (r.b))
  | 0x1D => do
      need .fieldD ((r.d.extractLsb' 4 3).toNat ≤ 5)
      return .iset h (r.d.extractLsb' 4 3) (r.d.extractLsb' 0 4) (r.a) (r.b)
  | 0x1E => do
      let p ← preg .fieldB r.b
      return .sel h (r.d) (r.a) p
  | 0x1F => .ok (.idp4 h (r.d) (r.a) (r.b))
  | _ => .ok (.illegal r.toWord)

open Fields in
/-- OP 0x20 to 0x3F of the opcode map (R54). -/
def decodeOp1 (h : Hdr) (r : Raw) (lit : Word) : Except DecodeErr Instr :=
  match r.op.toNat with
  | 0x20 => .ok (.fadd h (r.d) (r.a) (r.b))
  | 0x21 => .ok (.fsub h (r.d) (r.a) (r.b))
  | 0x22 => .ok (.fmul h (r.d) (r.a) (r.b))
  | 0x23 => .ok (.ffma h (r.d) (r.a) (r.b))
  | 0x24 => .ok (.fmin h (r.d) (r.a) (r.b))
  | 0x25 => .ok (.fmax h (r.d) (r.a) (r.b))
  | 0x26 => .ok (.fset h (r.d.extractLsb' 4 3) (r.d.extractLsb' 0 4) (r.a) (r.b))
  | 0x27 => .ok (.fdp2 h (r.d) (r.a) (r.b))
  | 0x28 => decodeUni h r
  | 0x29 => do
      need .fieldB (r.b = 0)
      return .iaddk h (r.d) (r.a) lit
  | 0x2A => do
      need .fieldA (r.a = 0)
      need .fieldB (r.b = 0)
      return .movk h (r.d) lit
  | 0x2B => do
      let d ← sreg .fieldD r.d
      return .csrr h d (r.a ++ r.b)
  | 0x2C => do
      let d ← sreg .fieldD r.d
      return .csrw h d (r.a ++ r.b)
  | 0x2D => do
      let d ← preg .fieldD r.d
      let a ← preg .fieldA r.a
      let b ← preg .fieldB r.b
      return .pand h d a b
  | 0x2E => do
      let d ← preg .fieldD r.d
      let a ← preg .fieldA r.a
      let b ← preg .fieldB r.b
      return .por h d a b
  | 0x2F => do
      let d ← preg .fieldD r.d
      let a ← preg .fieldA r.a
      let b ← preg .fieldB r.b
      return .pxor h d a b
  | 0x30 => do
      let d ← preg .fieldD r.d
      let a ← preg .fieldA r.a
      let b ← preg .fieldB r.b
      return .pandn h d a b
  | 0x31 => do
      let d ← sreg .fieldD r.d
      let a ← preg .fieldA r.a
      need .fieldB (r.b = 0)
      return .p2s h d a
  | 0x32 => do
      let d ← preg .fieldD r.d
      let a ← sreg .fieldA r.a
      need .fieldB (r.b = 0)
      return .s2p h d a
  | 0x33 => .ok (.lshf h (r.d) (r.a) (r.b))
  | 0x34 => do
      let lane ← f5 .fieldB r.b
      return .lbcs h (r.d) (r.a) lane
  | 0x35 => do
      need .fieldB (r.b = 0)
      return .lmatch h (r.d) (r.a)
  | 0x36 => do
      let excl ← f1 .fieldB r.b
      return .lpfx h (r.d) (r.a) excl
  | 0x37 => do
      let kind ← f2 .fieldB r.b
      need .fieldB (kind ≠ 3)
      return .lred h (r.d) (r.a) kind
  | 0x38 => do
      need .fieldD (r.d.getLsbD 6 = false ∧ r.d.extractLsb' 4 2 ≠ 3)
      let a ← preg .fieldA r.a
      need .fieldB (r.b = 0)
      return .lvote h (r.d.extractLsb' 4 2) (r.d.extractLsb' 0 4) a
  | 0x39 => do
      let hd ← f4 .fieldB r.b
      return .xchg h (r.d) (r.a) hd
  | 0x3A => do
      let d ← sreg .fieldD r.d
      let lane ← f5 .fieldB r.b
      return .v2s h d (r.a) lane
  | 0x3B => do
      let a ← sreg .fieldA r.a
      let hi ← f1 .fieldB r.b
      return .s2v h (r.d) a hi
  | 0x3C => do
      let d ← sreg .fieldD r.d
      let a ← sreg .fieldA r.a
      let b ← sreg .fieldB r.b
      return .sadd h d a b
  | 0x3D => do
      let d ← sreg .fieldD r.d
      let a ← sreg .fieldA r.a
      let b ← sreg .fieldB r.b
      return .ssub h d a b
  | 0x3E => do
      let d ← sreg .fieldD r.d
      let a ← sreg .fieldA r.a
      let b ← sreg .fieldB r.b
      return .smul h d a b
  | 0x3F => do
      let d ← sreg .fieldD r.d
      let a ← sreg .fieldA r.a
      let b ← sreg .fieldB r.b
      return .sand h d a b
  | _ => .ok (.illegal r.toWord)

open Fields in
/-- OP 0x40 to 0x5F of the opcode map (R54). -/
def decodeOp2 (h : Hdr) (r : Raw) (lit : Word) : Except DecodeErr Instr :=
  match r.op.toNat with
  | 0x40 => do
      let d ← sreg .fieldD r.d
      let a ← sreg .fieldA r.a
      let b ← sreg .fieldB r.b
      return .sor h d a b
  | 0x41 => do
      let d ← sreg .fieldD r.d
      let a ← sreg .fieldA r.a
      let b ← sreg .fieldB r.b
      return .sxor h d a b
  | 0x42 => do
      let d ← sreg .fieldD r.d
      let a ← sreg .fieldA r.a
      let b ← sreg .fieldB r.b
      return .sshl h d a b
  | 0x43 => do
      let d ← sreg .fieldD r.d
      let a ← sreg .fieldA r.a
      let b ← sreg .fieldB r.b
      return .sshr h d a b
  | 0x44 => do
      let a ← sreg .fieldA r.a
      let b ← sreg .fieldB r.b
      return .sset h (r.d.extractLsb' 4 3) (r.d.extractLsb' 0 4) a b
  | 0x45 => do
      let d ← sreg .fieldD r.d
      need .fieldA (r.a = 0)
      need .fieldB (r.b = 0)
      return .smovk h d lit
  | 0x46 => do
      let d ← sreg .fieldD r.d
      let a ← sreg .fieldA r.a
      need .fieldB (r.b = 0)
      return .saddk h d a lit
  | 0x47 => do
      let d ← sreg .fieldD r.d
      let a ← sreg .fieldA r.a
      need .fieldB (r.b = 0)
      return .sld h d a
  | 0x48 => do
      let d ← sreg .fieldD r.d
      let a ← sreg .fieldA r.a
      need .fieldB (r.b = 0)
      return .sst h d a
  | 0x49 => do
      let b ← sreg .fieldB r.b
      return .ld h (r.d) (r.a) b
  | 0x4A => do
      let b ← sreg .fieldB r.b
      return .st h (r.d) (r.a) b
  | 0x4B => do
      let copse ← f1 .fieldD r.d
      let b ← sreg .fieldB r.b
      return .pref h copse (r.a) b
  | 0x4C => do
      need .fieldD (r.d = 0)
      need .fieldA (r.a = 0)
      need .fieldB (r.b = 0)
      need .literal (lit.extractLsb' 5 27 = 0 ∧ lit.extractLsb' 3 2 ≠ 0 ∧ (lit.extractLsb' 0 3).toNat < 6)
      return .phase h (lit.extractLsb' 3 2) (lit.extractLsb' 0 3)
  | 0x4D => do
      need .fieldB (r.b.extractLsb' 2 4 = 0 ∧ r.b.extractLsb' 0 2 ≠ 3)
      return .acvt h (r.b.getLsbD 6) (r.b.extractLsb' 0 2) (r.d) (r.a)
  | 0x4E => do
      let d ← preg .fieldD r.d
      let kind ← f2 .fieldB r.b
      return .awin h d (r.a) kind
  | 0x4F => do
      need .fieldD (r.d = 0)
      let a ← sreg .fieldA r.a
      let b ← sreg .fieldB r.b
      return .discard h a b
  | 0x50 => .ok (.aadd h (r.d) (r.a) (r.b))
  | 0x51 => .ok (.amin h (r.d) (r.a) (r.b))
  | 0x52 => .ok (.amax h (r.d) (r.a) (r.b))
  | 0x53 => .ok (.aand h (r.d) (r.a) (r.b))
  | 0x54 => .ok (.aor h (r.d) (r.a) (r.b))
  | 0x55 => .ok (.axor h (r.d) (r.a) (r.b))
  | 0x56 => .ok (.axch h (r.d) (r.a) (r.b))
  | 0x57 => .ok (.acas h (r.d) (r.a) (r.b))
  | 0x58 => do
      let d ← f4 .fieldD r.d
      let a ← sreg .fieldA r.a
      need .fieldB (r.b = 0)
      need .literal (lit ≠ 0 ∧ lit.extractLsb' 0 7 = 0)
      return .tacc h d a lit
  | 0x59 => do
      let d ← f4 .fieldD r.d
      let a ← sreg .fieldA r.a
      need .fieldB (r.b = 0)
      need .literal (lit ≠ 0 ∧ lit.extractLsb' 0 7 = 0)
      return .ast h d a lit
  | 0x5A => do
      let d ← f4 .fieldD r.d
      let a ← sreg .fieldA r.a
      need .fieldB (r.b = 0)
      need .literal (lit ≠ 0 ∧ lit.extractLsb' 0 7 = 0)
      return .ald h d a lit
  | 0x5B => do
      need .fieldD (r.d = 0)
      let a ← sreg .fieldA r.a
      let b ← sreg .fieldB r.b
      return .rflush h a b
  | 0x5C => do
      need .fieldD (r.d = 0)
      return .tagset h (r.a) (r.b)
  | 0x5D => do
      need .fieldB (r.b = 0)
      return .tagget h (r.d) (r.a)
  | 0x5E => do
      need .fieldD (r.d.extractLsb' 4 3 = 0)
      let a ← sreg .fieldA r.a
      need .fieldA (a.toNat ≤ 61)
      let b ← sreg .fieldB r.b
      need .literal (lit.extractLsb' 20 12 ≠ 0 ∧ lit.extractLsb' 0 20 ≠ 0)
      return .cpin h (r.d.getLsbD 3) (r.d.extractLsb' 0 3) a b (lit.extractLsb' 20 12) (lit.extractLsb' 0 20)
  | 0x5F => do
      let k ← f3 .fieldD r.d
      let a ← sreg .fieldA r.a
      let b ← sreg .fieldB r.b
      need .fieldB (b.toNat ≤ 61)
      need .literal (lit.extractLsb' 20 12 ≠ 0 ∧ lit.extractLsb' 0 20 ≠ 0)
      return .cpout h k a b (lit.extractLsb' 20 12) (lit.extractLsb' 0 20)
  | _ => .ok (.illegal r.toWord)

open Fields in
/-- OP 0x60 to 0x7F of the opcode map (R54). -/
def decodeOp3 (h : Hdr) (r : Raw) (lit : Word) : Except DecodeErr Instr :=
  match r.op.toNat with
  | 0x60 => decodeSys h r
  | 0x61 => do
      let matrix ← f1 .fieldD r.d
      need .fieldA (r.a = 0)
      need .fieldB (r.b = 0)
      return .btake h matrix
  | 0x62 => do
      let matrix ← f1 .fieldD r.d
      need .fieldA (r.a = 0)
      need .fieldB (r.b = 0)
      return .bpass h matrix
  | 0x63 => do
      let d ← f4 .fieldD r.d
      need .fieldA (r.a = 0)
      need .fieldB (r.b = 0)
      return .oclm h d
  | 0x64 => do
      let d ← f4 .fieldD r.d
      need .fieldA (r.a = 0)
      need .fieldB (r.b = 0)
      return .orel h d
  | 0x65 => do
      let d ← f4 .fieldD r.d
      let a ← sreg .fieldA r.a
      return .old h d a (r.b)
  | 0x66 => do
      let d ← f4 .fieldD r.d
      let a ← f4 .fieldA r.a
      let b ← f4 .fieldB r.b
      return .mma h d a b
  | 0x67 => do
      let d ← f4 .fieldD r.d
      need .fieldA (r.a = 0)
      need .fieldB (r.b = 0)
      return .azero h d
  | 0x68 => do
      let a ← f4 .fieldA r.a
      need .fieldB (r.b.getLsbD 6 = false)
      return .amov h (r.d) a (r.b.getLsbD 5) (r.b.extractLsb' 0 5)
  | 0x69 => do
      let d ← f4 .fieldD r.d
      need .fieldB (r.b.getLsbD 6 = false)
      return .amovv h d (r.a) (r.b.getLsbD 5) (r.b.extractLsb' 0 5)
  | 0x6A => do
      need .fieldD (r.d = 0)
      let a ← sreg .fieldA r.a
      need .fieldB (r.b = 0)
      return .gang h a
  | 0x6B => do
      let tab ← f3 .fieldD r.d
      let a ← sreg .fieldA r.a
      need .fieldB (r.b = 0)
      return .cbld h tab a
  | 0x6C => do
      let d ← sreg .fieldD r.d
      let a ← sreg .fieldA r.a
      let b ← f4 .fieldB r.b
      return .gcrt h d a b
  | 0x6D => do
      let d ← sreg .fieldD r.d
      let a ← f4 .fieldA r.a
      need .fieldB (r.b = 0)
      return .gjoin h d a
  | 0x6E => do
      let d ← sreg .fieldD r.d
      let a ← f4 .fieldA r.a
      need .fieldB (r.b = 0)
      return .gleave h d a
  | 0x6F => do
      let d ← sreg .fieldD r.d
      let a ← f4 .fieldA r.a
      need .fieldB (r.b = 0)
      return .gbar h d a
  | 0x70 => do
      need .fieldD (r.d.getLsbD 6 = false ∧ r.d.extractLsb' 4 2 ≠ 3)
      let a ← f4 .fieldA r.a
      let b ← sreg .fieldB r.b
      return .gvote h (r.d.extractLsb' 4 2) (r.d.extractLsb' 0 4) a b
  | 0x71 => do
      let d ← sreg .fieldD r.d
      let a ← f4 .fieldA r.a
      let b ← sreg .fieldB r.b
      need .literal (lit.extractLsb' 2 30 = 0 ∧ lit.extractLsb' 0 2 ≠ 3)
      return .gred h d a b (lit.extractLsb' 0 2)
  | 0x72 => do
      let d ← sreg .fieldD r.d
      need .fieldD (d ≠ 62)
      let a ← f4 .fieldA r.a
      need .fieldB (r.b = 0)
      return .ginfo h d a
  | 0x73 => do
      let d ← sreg .fieldD r.d
      let a ← f4 .fieldA r.a
      need .fieldB (r.b = 0)
      return .gdel h d a
  | 0x74 => do
      let d ← sreg .fieldD r.d
      let a ← f4 .fieldA r.a
      need .fieldB (r.b = 0)
      return .h2s h d a
  | 0x75 => do
      let d ← f4 .fieldD r.d
      let a ← sreg .fieldA r.a
      let clr ← f4 .fieldB r.b
      return .s2h h d a clr
  | 0x76 => do
      let d ← sreg .fieldD r.d
      let a ← f4 .fieldA r.a
      let b ← sreg .fieldB r.b
      need .fieldB (b.toNat ≤ 55)
      return .qenq h d a b
  | 0x77 => do
      let d ← sreg .fieldD r.d
      let a ← f4 .fieldA r.a
      let b ← sreg .fieldB r.b
      need .fieldB (b.toNat ≤ 55)
      return .qdeq h d a b
  | 0x78 => do
      let d ← sreg .fieldD r.d
      let a ← f4 .fieldA r.a
      let b ← sreg .fieldB r.b
      need .fieldB (b.toNat ≤ 55)
      return .qsteal h d a b
  | 0x79 => do
      let d ← sreg .fieldD r.d
      let a ← sreg .fieldA r.a
      need .fieldB (r.b = 0)
      return .tdone h d a
  | 0x7A => do
      let d ← sreg .fieldD r.d
      let a ← sreg .fieldA r.a
      need .fieldB (r.b = 0)
      return .tfull h d a
  | 0x7B => do
      let d ← sreg .fieldD r.d
      let a ← sreg .fieldA r.a
      need .fieldB (r.b = 0)
      return .tempty h d a
  | 0x7C => do
      let d ← sreg .fieldD r.d
      let a ← sreg .fieldA r.a
      need .fieldB (r.b = 0)
      return .tstat h d a
  | 0x7D => do
      let d ← sreg .fieldD r.d
      let a ← f4 .fieldA r.a
      let b ← sreg .fieldB r.b
      need .fieldB (b.toNat ≤ 55)
      return .chapp h d a b
  | 0x7E => do
      need .fieldD (r.d = 0)
      let a ← f4 .fieldA r.a
      need .fieldB (r.b = 0)
      return .chadv h a
  | 0x7F => do
      let d ← sreg .fieldD r.d
      let a ← f4 .fieldA r.a
      need .fieldB (r.b = 0)
      return .chseq h d a
  | _ => .ok (.illegal r.toWord)

/-- A word's fields and the literal word after it, decoded (R54–R58). OP 0x00 is the ILLEGAL row whatever the other
fields hold; the literal is read only by the K formats. -/
def decodeRaw (r : Raw) (lit : Word) : Except DecodeErr Instr :=
  if r.op = 0 then .ok (.illegal r.toWord)
  else do
    let v ← Fields.ver r.ver
    let h : Hdr := ⟨v, r.sch⟩
    if r.op.toNat < 0x20 then decodeOp0 h r lit
    else if r.op.toNat < 0x40 then decodeOp1 h r lit
    else if r.op.toNat < 0x60 then decodeOp2 h r lit
    else decodeOp3 h r lit

/-- Decode a word with the word that follows it. -/
def decodeWords (w lit : Word) : Except DecodeErr Instr := decodeRaw (Raw.ofWord w) lit

/-- The little-endian word of four bytes (R2). -/
def wordOfBytes (b0 b1 b2 b3 : Byte) : Word := b3 ++ b2 ++ b1 ++ b0

/-- Decode the instruction at the head of a byte list; the rest of the list is what follows it (R36, R39). -/
def decode : List Byte → Except DecodeErr (Instr × List Byte)
  | b0 :: b1 :: b2 :: b3 :: rest =>
    let w := wordOfBytes b0 b1 b2 b3
    if isKFormat (Raw.ofWord w).op then
      match rest with
      | c0 :: c1 :: c2 :: c3 :: rest' => (decodeWords w (wordOfBytes c0 c1 c2 c3)).map (·, rest')
      | _ => .error .short
    else (decodeWords w 0).map (·, rest)
  | _ => .error .short

/-- The VER bits of a header (R37). -/
def Hdr.verBits (h : Hdr) : BitVec 2 :=
  match h.ver with
  | .v0 => 0
  | .v1 => 1
  | .v2 => 2

/-- The fields and the literal of an encoded instruction, from the same tables; `none` for the steps that have no
encoding. -/
def encodeRaw : Instr → Option (Raw × Option Word)
  | .illegal word => some (Raw.ofWord word, none)
  | .nop h => some (⟨h.verBits, h.sch, 0x01, 0, 0, 0⟩, none)
  | .bra h neg p tgt jn => some (⟨h.verBits, h.sch, 0x02, ((BitVec.ofBool neg).setWidth 7), (p.setWidth 7), 0⟩, some (tgt ++ jn))
  | .brx h n a b => some (⟨h.verBits, h.sch, 0x03, n, a, (b.setWidth 7)⟩, none)
  | .join h => some (⟨h.verBits, h.sch, 0x04, 0, 0, 0⟩, none)
  | .call h d lit => some (⟨h.verBits, h.sch, 0x05, (d.setWidth 7), 0, 0⟩, some lit)
  | .ret h a => some (⟨h.verBits, h.sch, 0x06, 0, (a.setWidth 7), 0⟩, none)
  | .exit h => some (⟨h.verBits, h.sch, 0x07, 0, 0, 0⟩, none)
  | .wait h lit => some (⟨h.verBits, h.sch, 0x08, 0, 0, 0⟩, some lit)
  | .yield h => some (⟨h.verBits, h.sch, 0x09, 0, 0, 0⟩, none)
  | .spawn h d a lit => some (⟨h.verBits, h.sch, 0x0A, (d.setWidth 7), (a.setWidth 7), 0⟩, some lit)
  | .trap h a code => some (⟨h.verBits, h.sch, 0x0B, 0, (a.setWidth 7), code⟩, none)
  | .eret h => some (⟨h.verBits, h.sch, 0x0C, 0, 0, 0⟩, none)
  | .brk h => some (⟨h.verBits, h.sch, 0x0D, 0, 0, 0⟩, none)
  | .idem h => some (⟨h.verBits, h.sch, 0x0E, 0, 0, 0⟩, none)
  | .mode h msk lit => some (⟨h.verBits, h.sch, 0x0F, msk, 0, 0⟩, some lit)
  | .iadd h d a b => some (⟨h.verBits, h.sch, 0x10, d, a, b⟩, none)
  | .isub h d a b => some (⟨h.verBits, h.sch, 0x11, d, a, b⟩, none)
  | .imul h d a b => some (⟨h.verBits, h.sch, 0x12, d, a, b⟩, none)
  | .imulh h d a b => some (⟨h.verBits, h.sch, 0x13, d, a, b⟩, none)
  | .imad h d a b => some (⟨h.verBits, h.sch, 0x14, d, a, b⟩, none)
  | .imin h d a b => some (⟨h.verBits, h.sch, 0x15, d, a, b⟩, none)
  | .imax h d a b => some (⟨h.verBits, h.sch, 0x16, d, a, b⟩, none)
  | .and h d a b => some (⟨h.verBits, h.sch, 0x17, d, a, b⟩, none)
  | .or h d a b => some (⟨h.verBits, h.sch, 0x18, d, a, b⟩, none)
  | .xor h d a b => some (⟨h.verBits, h.sch, 0x19, d, a, b⟩, none)
  | .shl h d a b => some (⟨h.verBits, h.sch, 0x1A, d, a, b⟩, none)
  | .shr h d a b => some (⟨h.verBits, h.sch, 0x1B, d, a, b⟩, none)
  | .sar h d a b => some (⟨h.verBits, h.sch, 0x1C, d, a, b⟩, none)
  | .iset h c p a b => some (⟨h.verBits, h.sch, 0x1D, (c ++ p), a, b⟩, none)
  | .sel h d a p => some (⟨h.verBits, h.sch, 0x1E, d, a, (p.setWidth 7)⟩, none)
  | .idp4 h d a b => some (⟨h.verBits, h.sch, 0x1F, d, a, b⟩, none)
  | .fadd h d a b => some (⟨h.verBits, h.sch, 0x20, d, a, b⟩, none)
  | .fsub h d a b => some (⟨h.verBits, h.sch, 0x21, d, a, b⟩, none)
  | .fmul h d a b => some (⟨h.verBits, h.sch, 0x22, d, a, b⟩, none)
  | .ffma h d a b => some (⟨h.verBits, h.sch, 0x23, d, a, b⟩, none)
  | .fmin h d a b => some (⟨h.verBits, h.sch, 0x24, d, a, b⟩, none)
  | .fmax h d a b => some (⟨h.verBits, h.sch, 0x25, d, a, b⟩, none)
  | .fset h c p a b => some (⟨h.verBits, h.sch, 0x26, (c ++ p), a, b⟩, none)
  | .fdp2 h d a b => some (⟨h.verBits, h.sch, 0x27, d, a, b⟩, none)
  | .mov h d a => some (⟨h.verBits, h.sch, 0x28, d, a, 0x00⟩, none)
  | .not h d a => some (⟨h.verBits, h.sch, 0x28, d, a, 0x01⟩, none)
  | .iabs h d a => some (⟨h.verBits, h.sch, 0x28, d, a, 0x02⟩, none)
  | .ineg h d a => some (⟨h.verBits, h.sch, 0x28, d, a, 0x03⟩, none)
  | .popc h d a => some (⟨h.verBits, h.sch, 0x28, d, a, 0x04⟩, none)
  | .clz h d a => some (⟨h.verBits, h.sch, 0x28, d, a, 0x05⟩, none)
  | .brev h d a => some (⟨h.verBits, h.sch, 0x28, d, a, 0x06⟩, none)
  | .lrank h d a => some (⟨h.verBits, h.sch, 0x28, d, a, 0x07⟩, none)
  | .lidx h d => some (⟨h.verBits, h.sch, 0x28, d, 0, 0x08⟩, none)
  | .fabs h d a => some (⟨h.verBits, h.sch, 0x28, d, a, 0x10⟩, none)
  | .fneg h d a => some (⟨h.verBits, h.sch, 0x28, d, a, 0x11⟩, none)
  | .frcp h d a => some (⟨h.verBits, h.sch, 0x28, d, a, 0x12⟩, none)
  | .frsq h d a => some (⟨h.verBits, h.sch, 0x28, d, a, 0x13⟩, none)
  | .fsqrt h d a => some (⟨h.verBits, h.sch, 0x28, d, a, 0x14⟩, none)
  | .fexp2 h d a => some (⟨h.verBits, h.sch, 0x28, d, a, 0x15⟩, none)
  | .flog2 h d a => some (⟨h.verBits, h.sch, 0x28, d, a, 0x16⟩, none)
  | .fsin h d a => some (⟨h.verBits, h.sch, 0x28, d, a, 0x17⟩, none)
  | .fcos h d a => some (⟨h.verBits, h.sch, 0x28, d, a, 0x18⟩, none)
  | .cvt h src d a => some (⟨h.verBits, h.sch, 0x28, d, a, (0x20#7 ||| src.setWidth 7)⟩, none)
  | .iaddk h d a lit => some (⟨h.verBits, h.sch, 0x29, d, a, 0⟩, some lit)
  | .movk h d lit => some (⟨h.verBits, h.sch, 0x2A, d, 0, 0⟩, some lit)
  | .csrr h d n => some (⟨h.verBits, h.sch, 0x2B, (d.setWidth 7), (n.extractLsb' 7 7), (n.extractLsb' 0 7)⟩, none)
  | .csrw h d n => some (⟨h.verBits, h.sch, 0x2C, (d.setWidth 7), (n.extractLsb' 7 7), (n.extractLsb' 0 7)⟩, none)
  | .pand h d a b => some (⟨h.verBits, h.sch, 0x2D, (d.setWidth 7), (a.setWidth 7), (b.setWidth 7)⟩, none)
  | .por h d a b => some (⟨h.verBits, h.sch, 0x2E, (d.setWidth 7), (a.setWidth 7), (b.setWidth 7)⟩, none)
  | .pxor h d a b => some (⟨h.verBits, h.sch, 0x2F, (d.setWidth 7), (a.setWidth 7), (b.setWidth 7)⟩, none)
  | .pandn h d a b => some (⟨h.verBits, h.sch, 0x30, (d.setWidth 7), (a.setWidth 7), (b.setWidth 7)⟩, none)
  | .p2s h d a => some (⟨h.verBits, h.sch, 0x31, (d.setWidth 7), (a.setWidth 7), 0⟩, none)
  | .s2p h d a => some (⟨h.verBits, h.sch, 0x32, (d.setWidth 7), (a.setWidth 7), 0⟩, none)
  | .lshf h d a b => some (⟨h.verBits, h.sch, 0x33, d, a, b⟩, none)
  | .lbcs h d a lane => some (⟨h.verBits, h.sch, 0x34, d, a, (lane.setWidth 7)⟩, none)
  | .lmatch h d a => some (⟨h.verBits, h.sch, 0x35, d, a, 0⟩, none)
  | .lpfx h d a excl => some (⟨h.verBits, h.sch, 0x36, d, a, ((BitVec.ofBool excl).setWidth 7)⟩, none)
  | .lred h d a kind => some (⟨h.verBits, h.sch, 0x37, d, a, (kind.setWidth 7)⟩, none)
  | .lvote h kind p a => some (⟨h.verBits, h.sch, 0x38, (0#1 ++ kind ++ p), (a.setWidth 7), 0⟩, none)
  | .xchg h d a hd => some (⟨h.verBits, h.sch, 0x39, d, a, (hd.setWidth 7)⟩, none)
  | .v2s h d a lane => some (⟨h.verBits, h.sch, 0x3A, (d.setWidth 7), a, (lane.setWidth 7)⟩, none)
  | .s2v h d a hi => some (⟨h.verBits, h.sch, 0x3B, d, (a.setWidth 7), ((BitVec.ofBool hi).setWidth 7)⟩, none)
  | .sadd h d a b => some (⟨h.verBits, h.sch, 0x3C, (d.setWidth 7), (a.setWidth 7), (b.setWidth 7)⟩, none)
  | .ssub h d a b => some (⟨h.verBits, h.sch, 0x3D, (d.setWidth 7), (a.setWidth 7), (b.setWidth 7)⟩, none)
  | .smul h d a b => some (⟨h.verBits, h.sch, 0x3E, (d.setWidth 7), (a.setWidth 7), (b.setWidth 7)⟩, none)
  | .sand h d a b => some (⟨h.verBits, h.sch, 0x3F, (d.setWidth 7), (a.setWidth 7), (b.setWidth 7)⟩, none)
  | .sor h d a b => some (⟨h.verBits, h.sch, 0x40, (d.setWidth 7), (a.setWidth 7), (b.setWidth 7)⟩, none)
  | .sxor h d a b => some (⟨h.verBits, h.sch, 0x41, (d.setWidth 7), (a.setWidth 7), (b.setWidth 7)⟩, none)
  | .sshl h d a b => some (⟨h.verBits, h.sch, 0x42, (d.setWidth 7), (a.setWidth 7), (b.setWidth 7)⟩, none)
  | .sshr h d a b => some (⟨h.verBits, h.sch, 0x43, (d.setWidth 7), (a.setWidth 7), (b.setWidth 7)⟩, none)
  | .sset h c p a b => some (⟨h.verBits, h.sch, 0x44, (c ++ p), (a.setWidth 7), (b.setWidth 7)⟩, none)
  | .smovk h d lit => some (⟨h.verBits, h.sch, 0x45, (d.setWidth 7), 0, 0⟩, some lit)
  | .saddk h d a lit => some (⟨h.verBits, h.sch, 0x46, (d.setWidth 7), (a.setWidth 7), 0⟩, some lit)
  | .sld h d a => some (⟨h.verBits, h.sch, 0x47, (d.setWidth 7), (a.setWidth 7), 0⟩, none)
  | .sst h d a => some (⟨h.verBits, h.sch, 0x48, (d.setWidth 7), (a.setWidth 7), 0⟩, none)
  | .ld h d a b => some (⟨h.verBits, h.sch, 0x49, d, a, (b.setWidth 7)⟩, none)
  | .st h d a b => some (⟨h.verBits, h.sch, 0x4A, d, a, (b.setWidth 7)⟩, none)
  | .pref h copse a b => some (⟨h.verBits, h.sch, 0x4B, ((BitVec.ofBool copse).setWidth 7), a, (b.setWidth 7)⟩, none)
  | .phase h kind scope => some (⟨h.verBits, h.sch, 0x4C, 0, 0, 0⟩, some (0#27 ++ kind ++ scope))
  | .acvt h toGen win d a => some (⟨h.verBits, h.sch, 0x4D, d, a, (BitVec.ofBool toGen ++ 0#4 ++ win)⟩, none)
  | .awin h d a kind => some (⟨h.verBits, h.sch, 0x4E, (d.setWidth 7), a, (kind.setWidth 7)⟩, none)
  | .discard h a b => some (⟨h.verBits, h.sch, 0x4F, 0, (a.setWidth 7), (b.setWidth 7)⟩, none)
  | .aadd h d a b => some (⟨h.verBits, h.sch, 0x50, d, a, b⟩, none)
  | .amin h d a b => some (⟨h.verBits, h.sch, 0x51, d, a, b⟩, none)
  | .amax h d a b => some (⟨h.verBits, h.sch, 0x52, d, a, b⟩, none)
  | .aand h d a b => some (⟨h.verBits, h.sch, 0x53, d, a, b⟩, none)
  | .aor h d a b => some (⟨h.verBits, h.sch, 0x54, d, a, b⟩, none)
  | .axor h d a b => some (⟨h.verBits, h.sch, 0x55, d, a, b⟩, none)
  | .axch h d a b => some (⟨h.verBits, h.sch, 0x56, d, a, b⟩, none)
  | .acas h d a b => some (⟨h.verBits, h.sch, 0x57, d, a, b⟩, none)
  | .tacc h d a lit => some (⟨h.verBits, h.sch, 0x58, (d.setWidth 7), (a.setWidth 7), 0⟩, some lit)
  | .ast h d a lit => some (⟨h.verBits, h.sch, 0x59, (d.setWidth 7), (a.setWidth 7), 0⟩, some lit)
  | .ald h d a lit => some (⟨h.verBits, h.sch, 0x5A, (d.setWidth 7), (a.setWidth 7), 0⟩, some lit)
  | .rflush h a b => some (⟨h.verBits, h.sch, 0x5B, 0, (a.setWidth 7), (b.setWidth 7)⟩, none)
  | .tagset h a b => some (⟨h.verBits, h.sch, 0x5C, 0, a, b⟩, none)
  | .tagget h d a => some (⟨h.verBits, h.sch, 0x5D, d, a, 0⟩, none)
  | .cpin h slot k a b rows bytes => some (⟨h.verBits, h.sch, 0x5E, (0#3 ++ BitVec.ofBool slot ++ k), (a.setWidth 7), (b.setWidth 7)⟩, some (rows ++ bytes))
  | .cpout h k a b rows bytes => some (⟨h.verBits, h.sch, 0x5F, (k.setWidth 7), (a.setWidth 7), (b.setWidth 7)⟩, some (rows ++ bytes))
  | .ktst h d k => some (⟨h.verBits, h.sch, 0x60, (d.setWidth 7), (k.setWidth 7), 0x00⟩, none)
  | .tmark h a => some (⟨h.verBits, h.sch, 0x60, 0, (a.setWidth 7), 0x01⟩, none)
  | .vres h a => some (⟨h.verBits, h.sch, 0x60, 0, (a.setWidth 7), 0x02⟩, none)
  | .vrel h => some (⟨h.verBits, h.sch, 0x60, 0, 0, 0x03⟩, none)
  | .ptst h d a => some (⟨h.verBits, h.sch, 0x60, (d.setWidth 7), (a.setWidth 7), 0x04⟩, none)
  | .ptld h a => some (⟨h.verBits, h.sch, 0x60, 0, (a.setWidth 7), 0x05⟩, none)
  | .btake h matrix => some (⟨h.verBits, h.sch, 0x61, ((BitVec.ofBool matrix).setWidth 7), 0, 0⟩, none)
  | .bpass h matrix => some (⟨h.verBits, h.sch, 0x62, ((BitVec.ofBool matrix).setWidth 7), 0, 0⟩, none)
  | .oclm h d => some (⟨h.verBits, h.sch, 0x63, (d.setWidth 7), 0, 0⟩, none)
  | .orel h d => some (⟨h.verBits, h.sch, 0x64, (d.setWidth 7), 0, 0⟩, none)
  | .old h d a rows => some (⟨h.verBits, h.sch, 0x65, (d.setWidth 7), (a.setWidth 7), rows⟩, none)
  | .mma h d a b => some (⟨h.verBits, h.sch, 0x66, (d.setWidth 7), (a.setWidth 7), (b.setWidth 7)⟩, none)
  | .azero h d => some (⟨h.verBits, h.sch, 0x67, (d.setWidth 7), 0, 0⟩, none)
  | .amov h d a col n => some (⟨h.verBits, h.sch, 0x68, d, (a.setWidth 7), (0#1 ++ BitVec.ofBool col ++ n)⟩, none)
  | .amovv h d a col n => some (⟨h.verBits, h.sch, 0x69, (d.setWidth 7), a, (0#1 ++ BitVec.ofBool col ++ n)⟩, none)
  | .gang h a => some (⟨h.verBits, h.sch, 0x6A, 0, (a.setWidth 7), 0⟩, none)
  | .cbld h tab a => some (⟨h.verBits, h.sch, 0x6B, (tab.setWidth 7), (a.setWidth 7), 0⟩, none)
  | .gcrt h d a b => some (⟨h.verBits, h.sch, 0x6C, (d.setWidth 7), (a.setWidth 7), (b.setWidth 7)⟩, none)
  | .gjoin h d a => some (⟨h.verBits, h.sch, 0x6D, (d.setWidth 7), (a.setWidth 7), 0⟩, none)
  | .gleave h d a => some (⟨h.verBits, h.sch, 0x6E, (d.setWidth 7), (a.setWidth 7), 0⟩, none)
  | .gbar h d a => some (⟨h.verBits, h.sch, 0x6F, (d.setWidth 7), (a.setWidth 7), 0⟩, none)
  | .gvote h kind p a b => some (⟨h.verBits, h.sch, 0x70, (0#1 ++ kind ++ p), (a.setWidth 7), (b.setWidth 7)⟩, none)
  | .gred h d a b op => some (⟨h.verBits, h.sch, 0x71, (d.setWidth 7), (a.setWidth 7), (b.setWidth 7)⟩, some (0#30 ++ op))
  | .ginfo h d a => some (⟨h.verBits, h.sch, 0x72, (d.setWidth 7), (a.setWidth 7), 0⟩, none)
  | .gdel h d a => some (⟨h.verBits, h.sch, 0x73, (d.setWidth 7), (a.setWidth 7), 0⟩, none)
  | .h2s h d a => some (⟨h.verBits, h.sch, 0x74, (d.setWidth 7), (a.setWidth 7), 0⟩, none)
  | .s2h h d a clr => some (⟨h.verBits, h.sch, 0x75, (d.setWidth 7), (a.setWidth 7), (clr.setWidth 7)⟩, none)
  | .qenq h d a b => some (⟨h.verBits, h.sch, 0x76, (d.setWidth 7), (a.setWidth 7), (b.setWidth 7)⟩, none)
  | .qdeq h d a b => some (⟨h.verBits, h.sch, 0x77, (d.setWidth 7), (a.setWidth 7), (b.setWidth 7)⟩, none)
  | .qsteal h d a b => some (⟨h.verBits, h.sch, 0x78, (d.setWidth 7), (a.setWidth 7), (b.setWidth 7)⟩, none)
  | .tdone h d a => some (⟨h.verBits, h.sch, 0x79, (d.setWidth 7), (a.setWidth 7), 0⟩, none)
  | .tfull h d a => some (⟨h.verBits, h.sch, 0x7A, (d.setWidth 7), (a.setWidth 7), 0⟩, none)
  | .tempty h d a => some (⟨h.verBits, h.sch, 0x7B, (d.setWidth 7), (a.setWidth 7), 0⟩, none)
  | .tstat h d a => some (⟨h.verBits, h.sch, 0x7C, (d.setWidth 7), (a.setWidth 7), 0⟩, none)
  | .chapp h d a b => some (⟨h.verBits, h.sch, 0x7D, (d.setWidth 7), (a.setWidth 7), (b.setWidth 7)⟩, none)
  | .chadv h a => some (⟨h.verBits, h.sch, 0x7E, 0, (a.setWidth 7), 0⟩, none)
  | .chseq h d a => some (⟨h.verBits, h.sch, 0x7F, (d.setWidth 7), (a.setWidth 7), 0⟩, none)
  | .launchRecordEnqueue _ _ => none
  | .grovePlacement _ => none
  | .colevelLaunchPlacement _ => none
  | .stealMessage _ => none
  | .standRetire _ => none
  | .completionCounterDecrement _ => none
  | .forwardedRecord _ => none
  | .schedulerQuery _ => none
  | .greedyRunLimit _ _ => none
  | .contextSwitchTimeslice _ => none
  | .contextSwitchIdle _ => none
  | .speculationSquash _ _ => none
  | .pageFaultResolved _ _ => none
  | .pageFaultFatal _ _ => none
  | .loadDataReturn _ => none
  | .storePerformed _ => none
  | .atomicAtHome _ _ => none
  | .atomicReply _ => none
  | .combineEntryTimeout _ _ => none
  | .publicationComplete _ => none
  | .copyComplete _ => none
  | .oldFillComplete _ => none
  | .mmaArrayStart _ => none
  | .mmaFinish _ => none
  | .aldComplete _ => none
  | .astPerformed _ => none
  | .cbldTableWrite _ => none
  | .tileOffer _ => none
  | .tileHeaderAtHome _ => none
  | .tileGrant _ => none
  | .tileRefused _ => none
  | .tileReofferTimer _ => none
  | .residualRetryTimer _ _ => none
  | .flushRequestAtHome _ => none
  | .tileApply _ _ => none
  | .groupOpAtController _ => none
  | .groupReply _ => none
  | .gredCellsFree _ => none
  | .queueOpAtController _ => none
  | .remoteQenqMessage _ => none
  | .counterDecrementAtHome _ => none
  | .successorEnqueueRetry _ => none
  | .bufferBitAtHome _ => none
  | .ioEntryStart _ => none
  | .ioEntryComplete _ _ _ => none
  | .remoteOpTimeout _ => none
  | .holdNotice _ => none
  | .watchdogExpiry _ => none
  | .ccmdAdmit _ => none
  | .ccmdEnd _ => none
  | .ccmdVacate _ => none
  | .replySlotWrite _ _ => none
  | .vacateComplete _ => none
  | .ccmdRestore _ => none
  | .restoreGrovePlacement _ => none
  | .ccmdAttachDebugger _ => none
  | .ccmdDetachDebugger _ => none
  | .tlbInvalidateContext _ _ => none
  | .tlbInvalidateRange _ _ => none
  | .tlbInvalidationComplete _ => none
  | .ddirWrite _ _ => none
  | .switchCommand _ _ => none
  | .createQueue _ _ => none
  | .destroyQueue _ _ => none
  | .createChain _ _ => none
  | .destroyChain _ _ => none
  | .createEndpoint _ _ => none
  | .destroyEndpoint _ _ => none
  | .configRegisterWrite _ _ _ => none
  | .lockInterfaceRequest _ => none
  | .startInterfaceRequest _ => none
  | .stopInterfaceRequest _ => none
  | .interfaceLinkError _ => none
  | .uncorrectableError _ => none
  | .errorSelfTest _ _ => none
  | .coppiceScanEnd _ _ _ => none
  | .tokenTapVisit _ => none
  | .limiterRefill _ _ => none
  | .packetArrival _ _ _ => none
  | .flitPayloadError _ _ => none
  | .linkFailure _ => none
  | .wavelengthErrorWindow _ _ _ => none
  | .wavelengthRetrainDone _ _ _ => none
  | .supplySag _ _ => none
  | .thermalThrottle _ _ => none
  | .thermalAlert _ => none
  | .debugHalt _ _ => none
  | .debugSetHeld _ _ => none
  | .breakpointHit _ _ => none
  | .singleStep _ _ => none
  | .debugSetBreakpoint _ _ _ => none
  | .debugSetWatchpoint _ _ _ => none
  | .debugReleaseHeld _ _ => none
  | .deterministicModeSwitch _ _ _ _ => none
  | .schedulerMessageDropped _ => none
  | .holdNoticeSend => none
  | .spdmMeasurementsRequest => none
  | .boot => none
  | .flitHeaderError => none
  | .thermalShutdown => none
  | .partitionReinitialise => none

/-- The words of an encoded instruction: one, or two for a K format (R39, R57). -/
def encode (i : Instr) : Option (List Word) :=
  (encodeRaw i).map fun (r, lit) => r.toWord :: lit.toList

/-- The bytes of a word, lowest address first (R2). -/
def bytesOfWord (w : Word) : List Byte :=
  [w.extractLsb' 0 8, w.extractLsb' 8 8, w.extractLsb' 16 8, w.extractLsb' 24 8]

/-- The bytes of an encoded instruction in memory. -/
def encodeBytes (i : Instr) : Option (List Byte) := (encode i).map (·.flatMap bytesOfWord)

/-- Words the instruction takes (R36). -/
def Instr.words (i : Instr) : Nat := match encodeRaw i with
  | some (_, some _) => 2
  | _ => 1

/-- What ILLEGAL puts into `tval`: the word in bits 31 to 0, the literal of a K format in bits 63 to 32 (R59). -/
def Instr.tvalWord (i : Instr) : DWord := match encodeRaw i with
  | some (r, some lit) => lit ++ r.toWord
  | some (r, none) => (0#32 ++ r.toWord : BitVec 64)
  | none => 0

/-- Whether a constructor is an encoded instruction (and no event). -/
def Instr.isEncoded (i : Instr) : Bool := (encodeRaw i).isSome

/-- The instruction the decoder reads from an instruction whose bits are `w`, bit 0 the least significant bit of the
first word, `nbits` of them given and the bits above zero; its words stand little-endian as in memory. -/
def decodeTableWord (nbits w : Nat) : Option Instr :=
  let x := w % 2 ^ nbits
  let w0 := BitVec.ofNat 32 x
  let w1 := BitVec.ofNat 32 (x / 2 ^ 32)
  match decode (bytesOfWord w0 ++ bytesOfWord w1) with
  | .ok (i, _) => some i
  | .error _ => none

end Sys2Proof
end

