-- ==== Sys2Proof/Machine/Operands.lean ====
section
/-! DEFINITION. Which registers each instruction reads and writes: the operand forms of R40, the implicit registers of
R41, and which instructions the guard applies to (R44). -/

namespace Sys2Proof.Machine

/-- A register an instruction names (R40). -/
inductive Reg where
  | v (n : Nat)
  | s (n : Nat)
  | p (n : Nat)
  | a (n : Nat)
  | o (n : Nat)
  | h (n : Nat)
  deriving DecidableEq, Repr

/-- The eight record scalars from sB on (R41). -/
def recRegs (b : SReg) : List Reg := (upFrom b.toNat 8).map Reg.s

/-- What an instruction does with registers: those it reads at issue and must not find pending (R20, R41), those it
writes at issue or when its operation completes, the accumulators and slot names it names, the lower registers of its
vector pairs (a pair may not end at `vz`: R123, R124, R308, R373), and whether the guard applies (R44). -/
structure Roles where
  srcs    : List Reg := []
  dsts    : List Reg := []
  units   : List Reg := []
  pairs   : List Nat := []
  guarded : Bool := false

/-- The roles of each instruction's operands; the steps without an encoding name no register. -/
def roles : Instr → Roles
  | .illegal _ => {}
  | .nop _ => {}
  | .bra _ _ p _ _ => { srcs := [.p p.toNat] }
  | .brx _ _ a b => { srcs := [.v a.toNat, .s b.toNat] }
  | .join _ => {}
  | .call _ d _ => { dsts := [.s d.toNat] }
  | .ret _ a => { srcs := [.s a.toNat] }
  | .exit _ => {}
  | .wait _ _ => {}
  | .yield _ => {}
  | .spawn _ d a _ => { srcs := [.s a.toNat], dsts := [.s d.toNat] }
  | .trap _ a _ => { srcs := [.s a.toNat] }
  | .eret _ => {}
  | .brk _ => {}
  | .idem _ => {}
  | .mode _ _ _ => {}
  | .iadd _ d a b => { srcs := [.v a.toNat, .v b.toNat], dsts := [.v d.toNat], guarded := true }
  | .isub _ d a b => { srcs := [.v a.toNat, .v b.toNat], dsts := [.v d.toNat], guarded := true }
  | .imul _ d a b => { srcs := [.v a.toNat, .v b.toNat], dsts := [.v d.toNat], guarded := true }
  | .imulh _ d a b => { srcs := [.v a.toNat, .v b.toNat], dsts := [.v d.toNat], guarded := true }
  | .imad _ d a b => { srcs := [.v a.toNat, .v b.toNat, .v d.toNat], dsts := [.v d.toNat], guarded := true }
  | .imin _ d a b => { srcs := [.v a.toNat, .v b.toNat], dsts := [.v d.toNat], guarded := true }
  | .imax _ d a b => { srcs := [.v a.toNat, .v b.toNat], dsts := [.v d.toNat], guarded := true }
  | .and _ d a b => { srcs := [.v a.toNat, .v b.toNat], dsts := [.v d.toNat], guarded := true }
  | .or _ d a b => { srcs := [.v a.toNat, .v b.toNat], dsts := [.v d.toNat], guarded := true }
  | .xor _ d a b => { srcs := [.v a.toNat, .v b.toNat], dsts := [.v d.toNat], guarded := true }
  | .shl _ d a b => { srcs := [.v a.toNat, .v b.toNat], dsts := [.v d.toNat], guarded := true }
  | .shr _ d a b => { srcs := [.v a.toNat, .v b.toNat], dsts := [.v d.toNat], guarded := true }
  | .sar _ d a b => { srcs := [.v a.toNat, .v b.toNat], dsts := [.v d.toNat], guarded := true }
  | .iset _ _ p a b => { srcs := [.v a.toNat, .v b.toNat], dsts := [.p p.toNat], guarded := true }
  | .sel _ d a p => { srcs := [.v a.toNat, .p p.toNat], dsts := [.v d.toNat], guarded := true }
  | .idp4 _ d a b => { srcs := [.v a.toNat, .v b.toNat, .v d.toNat], dsts := [.v d.toNat], guarded := true }
  | .fadd _ d a b => { srcs := [.v a.toNat, .v b.toNat], dsts := [.v d.toNat], guarded := true }
  | .fsub _ d a b => { srcs := [.v a.toNat, .v b.toNat], dsts := [.v d.toNat], guarded := true }
  | .fmul _ d a b => { srcs := [.v a.toNat, .v b.toNat], dsts := [.v d.toNat], guarded := true }
  | .ffma _ d a b => { srcs := [.v a.toNat, .v b.toNat, .v d.toNat], dsts := [.v d.toNat], guarded := true }
  | .fmin _ d a b => { srcs := [.v a.toNat, .v b.toNat], dsts := [.v d.toNat], guarded := true }
  | .fmax _ d a b => { srcs := [.v a.toNat, .v b.toNat], dsts := [.v d.toNat], guarded := true }
  | .fset _ _ p a b => { srcs := [.v a.toNat, .v b.toNat], dsts := [.p p.toNat], guarded := true }
  | .fdp2 _ d a b => { srcs := [.v a.toNat, .v b.toNat, .v d.toNat], dsts := [.v d.toNat], guarded := true }
  | .mov _ d a => { srcs := [.v a.toNat], dsts := [.v d.toNat], guarded := true }
  | .not _ d a => { srcs := [.v a.toNat], dsts := [.v d.toNat], guarded := true }
  | .iabs _ d a => { srcs := [.v a.toNat], dsts := [.v d.toNat], guarded := true }
  | .ineg _ d a => { srcs := [.v a.toNat], dsts := [.v d.toNat], guarded := true }
  | .popc _ d a => { srcs := [.v a.toNat], dsts := [.v d.toNat], guarded := true }
  | .clz _ d a => { srcs := [.v a.toNat], dsts := [.v d.toNat], guarded := true }
  | .brev _ d a => { srcs := [.v a.toNat], dsts := [.v d.toNat], guarded := true }
  | .lrank _ d a => { srcs := [.v a.toNat], dsts := [.v d.toNat], guarded := true }
  | .lidx _ d => { dsts := [.v d.toNat], guarded := true }
  | .fabs _ d a => { srcs := [.v a.toNat], dsts := [.v d.toNat], guarded := true }
  | .fneg _ d a => { srcs := [.v a.toNat], dsts := [.v d.toNat], guarded := true }
  | .frcp _ d a => { srcs := [.v a.toNat], dsts := [.v d.toNat], guarded := true }
  | .frsq _ d a => { srcs := [.v a.toNat], dsts := [.v d.toNat], guarded := true }
  | .fsqrt _ d a => { srcs := [.v a.toNat], dsts := [.v d.toNat], guarded := true }
  | .fexp2 _ d a => { srcs := [.v a.toNat], dsts := [.v d.toNat], guarded := true }
  | .flog2 _ d a => { srcs := [.v a.toNat], dsts := [.v d.toNat], guarded := true }
  | .fsin _ d a => { srcs := [.v a.toNat], dsts := [.v d.toNat], guarded := true }
  | .fcos _ d a => { srcs := [.v a.toNat], dsts := [.v d.toNat], guarded := true }
  | .cvt _ _ d a => { srcs := [.v a.toNat], dsts := [.v d.toNat], guarded := true }
  | .iaddk _ d a _ => { srcs := [.v a.toNat], dsts := [.v d.toNat], guarded := true }
  | .movk _ d _ => { dsts := [.v d.toNat], guarded := true }
  | .csrr _ d _ => { dsts := [.s d.toNat] }
  | .csrw _ d _ => { srcs := [.s d.toNat] }
  | .pand _ d a b => { srcs := [.p a.toNat, .p b.toNat], dsts := [.p d.toNat], guarded := true }
  | .por _ d a b => { srcs := [.p a.toNat, .p b.toNat], dsts := [.p d.toNat], guarded := true }
  | .pxor _ d a b => { srcs := [.p a.toNat, .p b.toNat], dsts := [.p d.toNat], guarded := true }
  | .pandn _ d a b => { srcs := [.p a.toNat, .p b.toNat], dsts := [.p d.toNat], guarded := true }
  | .p2s _ d a => { srcs := [.p a.toNat], dsts := [.s d.toNat] }
  | .s2p _ d a => { srcs := [.s a.toNat], dsts := [.p d.toNat] }
  | .lshf _ d a b => { srcs := [.v a.toNat, .v b.toNat], dsts := [.v d.toNat], guarded := true }
  | .lbcs _ d a _ => { srcs := [.v a.toNat], dsts := [.v d.toNat], guarded := true }
  | .lmatch _ d a => { srcs := [.v a.toNat], dsts := [.v d.toNat], guarded := true }
  | .lpfx _ d a _ => { srcs := [.v a.toNat], dsts := [.v d.toNat], guarded := true }
  | .lred _ d a _ => { srcs := [.v a.toNat], dsts := [.v d.toNat], guarded := true }
  | .lvote _ _ p a => { srcs := [.p a.toNat], dsts := [.p p.toNat], guarded := true }
  | .xchg _ d a hd => { srcs := [.v a.toNat, .h hd.toNat], dsts := [.v d.toNat], guarded := true }
  | .v2s _ d a _ => { srcs := [.v a.toNat], dsts := [.s d.toNat] }
  | .s2v _ d a _ => { srcs := [.s a.toNat], dsts := [.v d.toNat], guarded := true }
  | .sadd _ d a b => { srcs := [.s a.toNat, .s b.toNat], dsts := [.s d.toNat] }
  | .ssub _ d a b => { srcs := [.s a.toNat, .s b.toNat], dsts := [.s d.toNat] }
  | .smul _ d a b => { srcs := [.s a.toNat, .s b.toNat], dsts := [.s d.toNat] }
  | .sand _ d a b => { srcs := [.s a.toNat, .s b.toNat], dsts := [.s d.toNat] }
  | .sor _ d a b => { srcs := [.s a.toNat, .s b.toNat], dsts := [.s d.toNat] }
  | .sxor _ d a b => { srcs := [.s a.toNat, .s b.toNat], dsts := [.s d.toNat] }
  | .sshl _ d a b => { srcs := [.s a.toNat, .s b.toNat], dsts := [.s d.toNat] }
  | .sshr _ d a b => { srcs := [.s a.toNat, .s b.toNat], dsts := [.s d.toNat] }
  | .sset _ _ p a b => { srcs := [.s a.toNat, .s b.toNat], dsts := [.p p.toNat] }
  | .smovk _ d _ => { dsts := [.s d.toNat] }
  | .saddk _ d a _ => { srcs := [.s a.toNat], dsts := [.s d.toNat] }
  | .sld _ d a => { srcs := [.s a.toNat], dsts := [.s d.toNat] }
  | .sst _ d a => { srcs := [.s d.toNat, .s a.toNat] }
  | .ld _ d a b => { srcs := [.v a.toNat, .s b.toNat], dsts := [.v d.toNat], guarded := true }
  | .st _ d a b => { srcs := [.v d.toNat, .v a.toNat, .s b.toNat], guarded := true }
  | .pref _ _ a b => { srcs := [.v a.toNat, .s b.toNat], guarded := true }
  | .phase _ _ _ => {}
  | .acvt _ _ _ d a => { srcs := [.v a.toNat, .v (a.toNat + 1)], dsts := [.v d.toNat, .v (d.toNat + 1)], pairs := [a.toNat, d.toNat], guarded := true }
  | .awin _ d a _ => { srcs := [.v a.toNat, .v (a.toNat + 1)], dsts := [.p d.toNat], pairs := [a.toNat], guarded := true }
  | .discard _ a b => { srcs := [.s a.toNat, .s b.toNat] }
  | .aadd _ d a b => { srcs := [.v a.toNat, .v (a.toNat + 1), .v b.toNat], dsts := [.v d.toNat], pairs := [a.toNat], guarded := true }
  | .amin _ d a b => { srcs := [.v a.toNat, .v (a.toNat + 1), .v b.toNat], dsts := [.v d.toNat], pairs := [a.toNat], guarded := true }
  | .amax _ d a b => { srcs := [.v a.toNat, .v (a.toNat + 1), .v b.toNat], dsts := [.v d.toNat], pairs := [a.toNat], guarded := true }
  | .aand _ d a b => { srcs := [.v a.toNat, .v (a.toNat + 1), .v b.toNat], dsts := [.v d.toNat], pairs := [a.toNat], guarded := true }
  | .aor _ d a b => { srcs := [.v a.toNat, .v (a.toNat + 1), .v b.toNat], dsts := [.v d.toNat], pairs := [a.toNat], guarded := true }
  | .axor _ d a b => { srcs := [.v a.toNat, .v (a.toNat + 1), .v b.toNat], dsts := [.v d.toNat], pairs := [a.toNat], guarded := true }
  | .axch _ d a b => { srcs := [.v a.toNat, .v (a.toNat + 1), .v b.toNat], dsts := [.v d.toNat], pairs := [a.toNat], guarded := true }
  | .acas _ d a b => { srcs := [.v a.toNat, .v (a.toNat + 1), .v b.toNat, .v (b.toNat + 1)], dsts := [.v d.toNat], pairs := [a.toNat, b.toNat], guarded := true }
  | .tacc _ d a _ => { srcs := [.s a.toNat], units := [.a d.toNat] }
  | .ast _ d a _ => { srcs := [.s a.toNat], units := [.a d.toNat] }
  | .ald _ d a _ => { srcs := [.s a.toNat], units := [.a d.toNat] }
  | .rflush _ a b => { srcs := [.s a.toNat, .s b.toNat] }
  | .tagset _ a b => { srcs := [.v a.toNat, .v (a.toNat + 1), .v b.toNat], pairs := [a.toNat], guarded := true }
  | .tagget _ d a => { srcs := [.v a.toNat, .v (a.toNat + 1)], dsts := [.v d.toNat], pairs := [a.toNat], guarded := true }
  | .cpin _ _ _ a b _ _ => { srcs := [.s a.toNat, .s (a.toNat + 1), .s b.toNat] }
  | .cpout _ _ a b _ _ => { srcs := [.s a.toNat, .s b.toNat, .s (b.toNat + 1)] }
  | .ktst _ d _ => { dsts := [.p d.toNat] }
  | .tmark _ a => { srcs := [.s a.toNat] }
  | .vres _ a => { srcs := [.s a.toNat] }
  | .vrel _ => {}
  | .ptst _ d a => { srcs := [.s a.toNat], dsts := [.s d.toNat] }
  | .ptld _ a => { srcs := [.s a.toNat] }
  | .btake _ _ => {}
  | .bpass _ _ => {}
  | .oclm _ d => { units := [.o d.toNat] }
  | .orel _ d => { units := [.o d.toNat] }
  | .old _ d a _ => { srcs := [.s a.toNat], units := [.o d.toNat] }
  | .mma _ d a b => { units := [.a d.toNat, .o a.toNat, .o b.toNat] }
  | .azero _ d => { units := [.a d.toNat] }
  | .amov _ d a _ _ => { dsts := [.v d.toNat], units := [.a a.toNat] }
  | .amovv _ d a _ _ => { srcs := [.v a.toNat], units := [.a d.toNat] }
  | .gang _ a => { srcs := [.s a.toNat] }
  | .cbld _ _ a => { srcs := [.s a.toNat] }
  | .gcrt _ d a b => { srcs := [.s a.toNat], dsts := [.s d.toNat, .h b.toNat] }
  | .gjoin _ d a => { srcs := [.h a.toNat], dsts := [.s d.toNat] }
  | .gleave _ d a => { srcs := [.h a.toNat], dsts := [.s d.toNat] }
  | .gbar _ d a => { srcs := [.h a.toNat], dsts := [.s d.toNat] }
  | .gvote _ _ p a b => { srcs := [.h a.toNat], dsts := [.p p.toNat, .s b.toNat] }
  | .gred _ d a b _ => { srcs := [.h a.toNat, .s b.toNat], dsts := [.s d.toNat, .s b.toNat] }
  | .ginfo _ d a => { srcs := [.h a.toNat], dsts := if d = 63 then [] else [.s d.toNat, .s (d.toNat + 1)] }
  | .gdel _ d a => { srcs := [.h a.toNat], dsts := [.s d.toNat] }
  | .h2s _ d a => { srcs := [.h a.toNat], dsts := [.s d.toNat] }
  | .s2h _ d a _ => { srcs := [.s a.toNat], dsts := [.h d.toNat] }
  | .qenq _ d a b => { srcs := [.h a.toNat] ++ recRegs b, dsts := [.s d.toNat] }
  | .qdeq _ d a b => { srcs := [.h a.toNat], dsts := [.s d.toNat] ++ recRegs b }
  | .qsteal _ d a b => { srcs := [.h a.toNat], dsts := [.s d.toNat] ++ recRegs b }
  | .tdone _ d a => { srcs := [.s a.toNat], dsts := [.s d.toNat] }
  | .tfull _ d a => { srcs := [.s a.toNat], dsts := [.s d.toNat] }
  | .tempty _ d a => { srcs := [.s a.toNat], dsts := [.s d.toNat] }
  | .tstat _ d a => { srcs := [.s a.toNat], dsts := [.s d.toNat] }
  | .chapp _ d a b => { srcs := [.h a.toNat] ++ recRegs b, dsts := [.s d.toNat] }
  | .chadv _ a => { srcs := [.h a.toNat] }
  | .chseq _ d a => { srcs := [.h a.toNat], dsts := [.s d.toNat] }
  | .launchRecordEnqueue _ _ => {}
  | .grovePlacement _ => {}
  | .colevelLaunchPlacement _ => {}
  | .stealMessage _ => {}
  | .standRetire _ => {}
  | .completionCounterDecrement _ => {}
  | .forwardedRecord _ => {}
  | .schedulerQuery _ => {}
  | .greedyRunLimit _ _ => {}
  | .contextSwitchTimeslice _ => {}
  | .contextSwitchIdle _ => {}
  | .speculationSquash _ _ => {}
  | .pageFaultResolved _ _ => {}
  | .pageFaultFatal _ _ => {}
  | .loadDataReturn _ => {}
  | .storePerformed _ => {}
  | .atomicAtHome _ _ => {}
  | .atomicReply _ => {}
  | .combineEntryTimeout _ _ => {}
  | .publicationComplete _ => {}
  | .copyComplete _ => {}
  | .oldFillComplete _ => {}
  | .mmaArrayStart _ => {}
  | .mmaFinish _ => {}
  | .aldComplete _ => {}
  | .astPerformed _ => {}
  | .cbldTableWrite _ => {}
  | .tileOffer _ => {}
  | .tileHeaderAtHome _ => {}
  | .tileGrant _ => {}
  | .tileRefused _ => {}
  | .tileReofferTimer _ => {}
  | .residualRetryTimer _ _ => {}
  | .flushRequestAtHome _ => {}
  | .tileApply _ _ => {}
  | .groupOpAtController _ => {}
  | .groupReply _ => {}
  | .gredCellsFree _ => {}
  | .queueOpAtController _ => {}
  | .remoteQenqMessage _ => {}
  | .counterDecrementAtHome _ => {}
  | .successorEnqueueRetry _ => {}
  | .bufferBitAtHome _ => {}
  | .ioEntryStart _ => {}
  | .ioEntryComplete _ _ _ => {}
  | .remoteOpTimeout _ => {}
  | .holdNotice _ => {}
  | .holdNoticeSend => {}
  | .watchdogExpiry _ => {}
  | .ccmdAdmit _ => {}
  | .ccmdEnd _ => {}
  | .ccmdVacate _ => {}
  | .replySlotWrite _ _ => {}
  | .vacateComplete _ => {}
  | .ccmdRestore _ => {}
  | .restoreGrovePlacement _ => {}
  | .ccmdAttachDebugger _ => {}
  | .ccmdDetachDebugger _ => {}
  | .tlbInvalidateContext _ _ => {}
  | .tlbInvalidateRange _ _ => {}
  | .tlbInvalidationComplete _ => {}
  | .ddirWrite _ _ => {}
  | .switchCommand _ _ => {}
  | .createQueue _ _ => {}
  | .destroyQueue _ _ => {}
  | .createChain _ _ => {}
  | .destroyChain _ _ => {}
  | .createEndpoint _ _ => {}
  | .destroyEndpoint _ _ => {}
  | .configRegisterWrite _ _ _ => {}
  | .lockInterfaceRequest _ => {}
  | .startInterfaceRequest _ => {}
  | .stopInterfaceRequest _ => {}
  | .interfaceLinkError _ => {}
  | .spdmMeasurementsRequest => {}
  | .boot => {}
  | .uncorrectableError _ => {}
  | .errorSelfTest _ _ => {}
  | .coppiceScanEnd _ _ _ => {}
  | .tokenTapVisit _ => {}
  | .limiterRefill _ _ => {}
  | .packetArrival _ _ _ => {}
  | .flitPayloadError _ _ => {}
  | .flitHeaderError => {}
  | .linkFailure _ => {}
  | .wavelengthErrorWindow _ _ _ => {}
  | .wavelengthRetrainDone _ _ _ => {}
  | .supplySag _ _ => {}
  | .thermalThrottle _ _ => {}
  | .thermalAlert _ => {}
  | .thermalShutdown => {}
  | .debugHalt _ _ => {}
  | .debugSetHeld _ _ => {}
  | .breakpointHit _ _ => {}
  | .singleStep _ _ => {}
  | .debugSetBreakpoint _ _ _ => {}
  | .debugSetWatchpoint _ _ _ => {}
  | .debugReleaseHeld _ _ => {}
  | .partitionReinitialise => {}
  | .deterministicModeSwitch _ _ _ _ => {}
  | .schedulerMessageDropped _ => {}

/-- Whether a register lies within the counts the kernel header declares; `vz`, `sz` and every predicate do (R41). -/
def Reg.declared (k : Kernel) : Reg → Bool
  | .v n => n == 127 || decide (n < k.vregs)
  | .s n => n == 63 || decide (n < k.sregs)
  | .p _ => true
  | .a n => decide (n < k.nacc)
  | .o n => decide (n < k.nslot)
  | .h n => decide (n < k.nhand)

/-- The R41 check, and the check of pairs. -/
def declaredOk (k : Kernel) (i : Instr) : Bool :=
  let r := roles i
  (r.srcs ++ r.dsts ++ r.units).all (Reg.declared k) && r.pairs.all fun n => decide (n ≤ 125)

/-- A register that holds state: not `vz`, `sz`, `pt` or `em` (R40). -/
def Reg.real : Reg → Bool
  | .v n => n != 127
  | .s n => n != 63
  | .p n => decide (n < 15)
  | _ => true

end Sys2Proof.Machine
end

