-- ==== Sys2Proof/Machine/Vacate.lean ====
section
/-! DEFINITION. The vacate estimate, the check of a charge, and what taking, releasing, refunding and growing do to it
(R143, R145–R157). -/

namespace Sys2Proof.Machine

/-- The vacate classes (R145). -/
abbrev Cls.pipe : Nat := 0
abbrev Cls.replay : Nat := 1
abbrev Cls.detach : Nat := 2
abbrev Cls.array : Nat := 3
abbrev Cls.drain : Nat := 4
abbrev Cls.grow : Nat := 5

/-- `vxest` of a context slot at save rate `rho` (R143). -/
def CtxSlot.est (x : CtxSlot) (rho : Nat) : Nat := 5 + ceilDiv (x.s + x.p) rho + x.c + x.q

/-- The GROW charge of `b` new bytes (R145, R147). -/
def CtxSlot.growVU (x : CtxSlot) (rho b : Nat) : Nat := ceilDiv (x.s + x.p + b) rho - ceilDiv (x.s + x.p) rho

/-- `vxest` as the stand at `key` reads it (R143). -/
def State.vxest (s : State) (key : Nat) : Nat :=
  let c := (s.stand key).ctx
  (s.ctxSlot (coreOf key) c).est (s.ctx c).rho

/-- What the vacate check answers (R151). -/
inductive ChargeAns where
  /-- It fits; this much of it is drawn from the reservation. -/
  | ok (drawn : Nat)
  | stall
  | exceed (tval : DWord) (hopeless : Bool)
  deriving DecidableEq, Repr

/-- The sum of the charges stalled before the path `(key, idx)` (R152). -/
def stalledBefore (key idx : Nat) : List Stall → Nat
  | [] => 0
  | t :: ts => if t.st = key ∧ t.path = idx then 0 else t.cost + stalledBefore key idx ts

/-- The trap mode that the check sees: in its handler a stand's `vxstat.TRAP` acts as 0 (R153, R256). -/
def Stand.trapMode (st : Stand) : Bool := st.vxTrap && st.inHandler.isNone

/-- The check of R151 and R152 for a charge whose uncovered part is `c`. -/
def checkCharge (s : State) (key idx cls c drawn : Nat) : ChargeAns :=
  let st := s.stand key
  let x := s.ctxSlot (coreOf key) st.ctx
  let rho := (s.ctx st.ctx).rho
  let bound := (s.ctx st.ctx).vxbnd
  if c = 0 then .ok drawn
  else if bound < 5 + ceilDiv x.s rho + x.q + c then .exceed (dw (c % 65536 + field cls 16 + field 1 19)) true
  else if bound < x.est rho + c then
    if st.trapMode then .exceed (dw (c % 65536 + field cls 16)) false else .stall
  else if bound < x.est rho + stalledBefore key idx x.stalled + c then .stall
  else .ok drawn

/-- The check of an instruction with the fixed charge `fixed` and `b` bytes of growth; the reservation covers what it can
(R151, R155). -/
def chargeAns (s : State) (key idx cls fixed b : Nat) : ChargeAns :=
  let st := s.stand key
  let x := s.ctxSlot (coreOf key) st.ctx
  let total := fixed + x.growVU (s.ctx st.ctx).rho b
  let drawn := min st.avail total
  checkCharge s key idx cls (total - drawn) drawn

/-- Take the path out of the list of stalled charges. -/
def unstall (key idx : Nat) (x : CtxSlot) : CtxSlot :=
  { x with stalled := x.stalled.filter fun t => !(t.st == key && t.path == idx) }

/-- Put the path at the end of the list of stalled charges, or change its charge where it stands (R152). -/
def enstall (key idx cost : Nat) (x : CtxSlot) : CtxSlot :=
  if x.stalled.any fun t => t.st == key && t.path == idx then
    { x with stalled := x.stalled.map fun t => if t.st == key && t.path == idx then { t with cost := cost } else t }
  else { x with stalled := x.stalled ++ [⟨key, idx, cost⟩] }

/-- Take a charge that fits: C and P rise, the drawn part moves from AVAIL to LENT (R143, R151, R155). -/
def State.takeCharge (s : State) (key idx fixed b drawn : Nat) : State :=
  let st := s.stand key
  (s.modSlot (coreOf key) st.ctx fun x =>
    { unstall key idx x with c := x.c + fixed, p := x.p + b, q := x.q - drawn }).modStand key fun t =>
      { t with avail := t.avail - drawn, lent := t.lent + drawn }

/-- The part of a drawn amount that belongs to the fixed charge: the reservation covers the fixed charge first (DEDUCED:
R155 names the two parts and no order; log entry 22). -/
def Out.drawnFixed (o : Out) : Nat := min o.drawn o.vu
def Out.drawnGrow (o : Out) : Nat := o.drawn - o.drawnFixed

/-- Return `d` drawn VU to the reservation of a stand: LENT falls, AVAIL and Q rise (R155). -/
def State.returnDrawn (s : State) (key c d : Nat) : State :=
  if d = 0 then s
  else (s.modSlot (coreOf key) c fun x => { x with q := x.q + d }).modStand? key fun t =>
    { t with avail := t.avail + d, lent := t.lent - d }

/-- Whether the charge of an operation may be released or lodged: 16 cycles have passed since its issue, or it has none (R293). -/
def State.mature (s : State) (o : Out) : Bool := o.cls == Cls.pipe || o.orphan || decide (o.cyc + Config.minRelease ≤ s.cycOf (coreOf o.st))

/-- The key of the stand to whose reservation what an operation has drawn returns; none where that stand has gone (R155). -/
def State.payerOf (s : State) (o : Out) : Option Nat := match o.payer with
  | none => some o.st
  | some uid => s.keyOfUid uid

/-- Release the fixed charge of an operation at its outcome (R145, R155). A halt has already released its operations'. -/
def State.releaseFixed (s : State) (o : Out) : State :=
  if o.orphan then s
  else
    let s1 := s.modSlot (coreOf o.st) o.ctx fun x => { x with c := x.c - o.vu }
    match s1.payerOf o with
    | some key => s1.returnDrawn key o.ctx o.drawnFixed
    | none => s1

/-- The announced bytes become resident: `vxest` is unchanged, a drawn part is used up (R147, R155). -/
def State.growResident (s : State) (o : Out) : State :=
  if o.orphan then s
  else (s.modSlot (coreOf o.st) o.ctx fun x => { x with s := x.s + o.grow, p := x.p - o.grow }).modStand? o.st fun t =>
    { t with lent := t.lent - o.drawnGrow }

/-- The growth does not happen (R147, R155). -/
def State.growRefund (s : State) (o : Out) : State :=
  if o.orphan then s
  else (s.modSlot (coreOf o.st) o.ctx fun x => { x with p := x.p - o.grow }).returnDrawn o.st o.ctx o.drawnGrow

/-- The key of a path in `State.ahead`. -/
def aheadKey (key idx : Nat) : Nat := 8 * key + idx

/-- A speculative operation is squashed: it is gone, with its whole charge, what it drew and its count (R24, R48, R154). -/
def State.squashOp (s : State) (op : Nat) (o : Out) : State :=
  (((s.growRefund o).releaseFixed { o with drawn := o.drawnFixed }).uncount o).dropOut op

/-- The place that path `idx` takes in the list of stalled charges for what it was to issue speculatively (R154). -/
def specPath (idx : Nat) : Nat := 8 + idx
/-- What a path was to issue speculatively no longer stalls. -/
def State.unstallSpec (s : State) (key idx : Nat) : State := s.modSlot (coreOf key) (s.stand key).ctx (unstall key (specPath idx))
/-- The path has come to the instruction that it was to issue speculatively: it stalls in the same place (R152, R154). -/
def unspec (key idx : Nat) (x : CtxSlot) : CtxSlot :=
  { x with stalled := x.stalled.map fun t => if t.st == key && t.path == specPath idx then { t with path := idx } else t }

/-- All that a path has issued speculatively is squashed (R24). -/
def State.squashPath (s : State) (key idx : Nat) : State :=
  let t := (s.specOps (s.stand key).uid idx).foldl (fun u kv => u.squashOp kv.1 kv.2) s
  { t.unstallSpec key idx with ahead := SMap.erase t.ahead (aheadKey key idx) }
/-- A stand's speculative work is squashed, as before a halt (R24, R259). -/
def State.squashStand (s : State) (key : Nat) : State := pathIdx.foldl (fun u i => u.squashPath key i) s

/-- Bytes leave S (R117). -/
def State.shrink (s : State) (k c b : Nat) : State := s.modSlot k c fun x => { x with s := x.s - b }

/-- Resident bytes of a stand without operand and residual slots (R117). -/
def Kernel.standBytes (k : Kernel) : Nat := 128 * k.vregs + 1536 + 4096 * k.nacc

/-- Bytes of an operand slot and of a residual slot held (R117). -/
def slotBytes : Nat := 4096
def residualBytes : Nat := 4160

end Sys2Proof.Machine
end

