-- ==== Sys2Proof/Machine/Cache.lean ====
section
/-! DEFINITION. Memory at its homes, the snapshot and copse caches above it, and the scratchpads: how a byte is read and
written at a depth, how a release publishes and an acquire drops (R164, R168–R173), poison (R131, R200) and tags (R129). -/

namespace Sys2Proof.Machine

/-- A byte at its home; a byte nothing has written reads 0 (DESIGN CHOICE, unsafe: log entry 1). -/
def State.homeByte (s : State) (pa : Nat) : Byte := SMap.get 0 s.mem pa
/-- Write a byte at its home: the one operation that changes memory. -/
def State.putHome (s : State) (pa : Nat) (b : Byte) : State := { s with mem := SMap.set 0 s.mem pa b }
/-- Write consecutive bytes at their homes. -/
def State.putHomes (s : State) : Nat → List Byte → State
  | _, [] => s
  | pa, b :: bs => (s.putHome pa b).putHomes (pa + 1) bs
/-- Read consecutive bytes at their homes. -/
def State.homeBytes (s : State) (pa n : Nat) : List Byte := (upFrom pa n).map s.homeByte
/-- A little-endian number of `n` bytes at its home. -/
def State.homeNat (s : State) (pa n : Nat) : Nat := leNat (s.homeBytes pa n)

/-- Whether the canonical form of memory holds. -/
abbrev Memory.wf (m : List (Nat × Byte)) : Bool := SMap.wf (0 : Byte) m

def lineNo (pa : Nat) : Nat := pa / Config.lineBytes
def lineOff (pa : Nat) : Nat := pa % Config.lineBytes

def Line.has (l : Line) (o : Nat) : Bool := l.valid.getLsbD o
def Line.isDirty (l : Line) (o : Nat) : Bool := l.dirty.getLsbD o
def Line.byte (l : Line) (o : Nat) : Byte := SMap.get 0 l.data o
def bit64 (o : Nat) : BitVec 64 := BitVec.ofNat 64 (2 ^ o)
/-- Who wrote the other bytes, when one is written again or goes. -/
def disown (o : Nat) (l : List (BitVec 64 × Owner)) : List (BitVec 64 × Owner) :=
  (l.map fun x => (x.1 &&& ~~~(bit64 o), x.2)).filter (·.1 != 0)
/-- Put a byte in a line: a copy, or a write not written out yet. -/
def Line.put (l : Line) (o : Nat) (b : Byte) (d : Bool) : Line :=
  { data := SMap.set 0 l.data o b, valid := l.valid ||| bit64 o,
    dirty := if d then l.dirty ||| bit64 o else l.dirty &&& ~~~(bit64 o), owners := disown o l.owners }
/-- Forget a byte of a line. -/
def Line.drop (l : Line) (o : Nat) : Line :=
  { data := SMap.set 0 l.data o 0, valid := l.valid &&& ~~~(bit64 o), dirty := l.dirty &&& ~~~(bit64 o), owners := disown o l.owners }
/-- Keep only what is not written out yet (R172: an acquire). -/
def Line.keepDirty (l : Line) : Line :=
  { l with data := l.data.filter fun kv => l.dirty.getLsbD kv.1, valid := l.dirty }
/-- The bytes of the sectors in which a mask has a byte. -/
def sectorsOf (m : BitVec 64) : BitVec 64 :=
  (if m &&& 0xFFFFFFFF#64 = 0 then 0 else 0xFFFFFFFF#64) ||| (if m &&& 0xFFFFFFFF00000000#64 = 0 then 0 else 0xFFFFFFFF00000000#64)
/-- A line after what it had not written out has gone, without the bytes that are fetched again (R170, R184). -/
def Line.writtenOut (l : Line) (gone : BitVec 64) : Line :=
  let keep := l.valid &&& ~~~gone
  { data := l.data.filter fun kv => keep.getLsbD kv.1, valid := keep, dirty := 0, owners := [] }
/-- The offsets of what a line has not written out. -/
def Line.dirtyOffs (l : Line) : List Nat := (upFrom 0 64).filter l.isDirty

def Core.line (c : Core) (pa : Nat) : Line := SMap.get {} c.snap (lineNo pa)
def Copse.line (c : Copse) (pa : Nat) : Line := SMap.get {} c.cache (lineNo pa)
def State.modLine (s : State) (k pa : Nat) (f : Line → Line) : State :=
  s.modCore k fun c => { c with snap := SMap.set {} c.snap (lineNo pa) (f (c.line pa)) }
def State.modCopseLine (s : State) (cp pa : Nat) (f : Line → Line) : State :=
  let c := s.copse cp
  s.setCopse cp { c with cache := SMap.set {} c.cache (lineNo pa) (f (c.line pa)) }

/-- A byte as copse `cp` holds it. -/
def State.copseByte (s : State) (cp pa : Nat) : Byte :=
  let l := (s.copse cp).line pa
  if l.has (lineOff pa) then l.byte (lineOff pa) else s.homeByte pa

/-- A byte as core `k` sees it: its snapshot merged with its unpublished writes (R164). -/
def State.coreByte (s : State) (k pa : Nat) : Byte :=
  let l := (s.core k).line pa
  if l.has (lineOff pa) then l.byte (lineOff pa) else s.copseByte (copseOfCore k) pa

/-- A byte read at the point of coherence of scope `sc`: no copy held nearer counts, but the core's and the copse's own
writes that are not there yet do (R168, R173, R170). -/
def State.pocByte (s : State) (k sc pa : Nat) : Byte :=
  if sc ≤ 1 then s.coreByte k pa
  else
    let l := (s.core k).line pa
    if l.isDirty (lineOff pa) then l.byte (lineOff pa)
    else if sc = 2 then s.copseByte (copseOfCore k) pa
    else
      let m := (s.copse (copseOfCore k)).line pa
      if m.isDirty (lineOff pa) then m.byte (lineOff pa) else s.homeByte pa

/-- The line of data that an address names; the address of a tag names the line of its granule (R129, R374). -/
def dataLine (pa : Nat) : Nat :=
  (if Config.tagBase ≤ pa then (pa - Config.tagBase) * Config.granuleBytes else pa) / Config.lineBytes * Config.lineBytes
/-- Where the tag of sector `j` of the line at `base` lies: a sector is a granule (R129). -/
def tagPlace (base j : Nat) : Nat := Config.tagBase + base / Config.granuleBytes + j

/-- Sector `j` of a line is held whole, with its tag. -/
def sectorHeld (l t : Line) (base j : Nat) : Bool :=
  decide (l.valid >>> (32 * j) &&& 0xFFFFFFFF#64 = 0xFFFFFFFF#64) && t.has (lineOff (tagPlace base j))
/-- Take bytes from below into a line, but where it holds its own, not written out. -/
def Line.refill (l : Line) (offs : List Nat) (src : Nat → Byte) : Line :=
  offs.foldl (fun l o => if l.isDirty o then l else l.put o (src o) false) l
/-- The offsets of the sectors of the line at `base` that are not held whole, and those of their tags. -/
def missing (l t : Line) (base : Nat) : List Nat × List Nat :=
  let js := [0, 1].filter fun j => !sectorHeld l t base j
  (js.flatMap fun j => upFrom (32 * j) 32, js.map fun j => lineOff (tagPlace base j))

/-- Fill copse `cp` with the line of `pa` and its tags. A sector comes whole and at one moment (R184), a newer copy for an older one (R170). -/
def State.fillCopse (s : State) (cp pa : Nat) : State :=
  let base := dataLine pa
  let tp := tagPlace base 0
  let (ds, ts) := missing ((s.copse cp).line base) ((s.copse cp).line tp) base
  if ds.isEmpty then s
  else (s.modCopseLine cp base fun l => l.refill ds fun o => s.homeByte (base + o)).modCopseLine cp tp fun l =>
    l.refill ts fun o => s.homeByte (lineNo tp * Config.lineBytes + o)

/-- Fill core `k`'s snapshot, and its copse, with the line of `pa` and its tags (R164, R129). -/
def State.fillCore (s : State) (k pa : Nat) : State :=
  let base := dataLine pa
  let tp := tagPlace base 0
  let cp := copseOfCore k
  let s1 := s.fillCopse cp pa
  let (ds, ts) := missing ((s1.core k).line base) ((s1.core k).line tp) base
  if ds.isEmpty then s1
  else (s1.modLine k base fun l => l.refill ds fun o => s1.copseByte cp (base + o)).modLine k tp fun l =>
    l.refill ts fun o => s1.copseByte cp (lineNo tp * Config.lineBytes + o)

/-- After a read past the caches, clean copies of the byte are dropped, so no later read returns an older value (R170). -/
def State.dropClean (s : State) (k sc pa : Nat) : State :=
  let f := fun (l : Line) => if l.isDirty (lineOff pa) then l else l.drop (lineOff pa)
  let s1 := s.modLine k pa f
  if 3 ≤ sc then s1.modCopseLine (copseOfCore k) pa f else s1

/-- Write a byte on core `k`, unpublished (R164). -/
def State.storeCore (s : State) (k pa : Nat) (b : Byte) : State := s.modLine k pa fun l => l.put (lineOff pa) b true

/-- Write a byte at the point of coherence of scope `sc`, in place of what core `k` and its copse hold of it (R173). -/
def State.storePoc (s : State) (k sc pa : Nat) (b : Byte) : State :=
  let o := lineOff pa
  if sc ≤ 1 then s.storeCore k pa b
  else if sc = 2 then (s.modLine k pa fun l => l.drop o).modCopseLine (copseOfCore k) pa fun l => l.put o b true
  else ((s.modLine k pa fun l => l.drop o).modCopseLine (copseOfCore k) pa fun l => l.drop o).putHome pa b

/-- The addresses of the bytes of a cache that are not written out. -/
def dirtyBytes (m : SMap Line) : List Nat :=
  m.flatMap fun kv => ((upFrom 0 64).filter fun o => kv.2.isDirty o).map fun o => kv.1 * 64 + o

/-- An acquire on core `k` at scope `sc`: no later read takes a copy filled before, nearer than the point of coherence
(R172). -/
def State.acquireCore (s : State) (k sc : Nat) : State :=
  let clean := fun (m : SMap Line) => (m.map (fun kv => (kv.1, kv.2.keepDirty))).filter fun kv => decide (kv.2 ≠ {})
  let s1 := if 2 ≤ sc then s.modCore k fun c => { c with snap := clean c.snap } else s
  if 3 ≤ sc then
    let cp := copseOfCore k
    s1.setCopse cp { s1.copse cp with cache := clean (s1.copse cp).cache }
  else s1

/-- Forget every copy of the bytes `[pa, pa + n)` in every cache without writing it out (R135). -/
def State.dropCopies (s : State) (pa n : Nat) : State :=
  let keep := fun (m : SMap Line) => m.filter fun kv => decide (kv.1 * 64 + 64 ≤ pa ∨ pa + n ≤ kv.1 * 64)
  { s with cores := s.cores.map fun kv => (kv.1, { kv.2 with snap := keep kv.2.snap }),
           copses := s.copses.map fun kv => (kv.1, { kv.2 with cache := keep kv.2.cache }) }

/-- Drop the clean copies a cache holds of the bytes `[pa, pa + n)`. -/
def dropCleanCopies (pa n : Nat) (m : SMap Line) : SMap Line :=
  (m.map fun lv => if lv.1 * 64 + 64 ≤ pa ∨ pa + n ≤ lv.1 * 64 then lv else (lv.1, lv.2.keepDirty)).filter
    fun lv => decide (lv.2 ≠ {})

/-- Drop the clean copies that copse caches hold of the bytes `[pa, pa + n)` (R190). The rule does not speak of bytes that a cache has not written
out: they stay, and can later overwrite what the tile wrote (DESIGN CHOICE; log entry 79). -/
def State.dropCopseCopies (s : State) (pa n : Nat) : State :=
  { s with copses := s.copses.map fun kv => (kv.1, { kv.2 with cache := dropCleanCopies pa n kv.2.cache }) }

/-- Where the scratchpad of a halted grove is saved: in memory (R260). -/
def State.savedScr (s : State) (g : Nat) : Option Nat := s.ctxs.findSome? fun kv => (kv.2.saved.find? (·.id == g)).map (·.scr)
/-- A byte of a scratchpad. -/
def State.scrByte (s : State) (g off : Nat) : Byte :=
  match SMap.get? s.groves g, s.savedScr g with
  | none, some base => s.homeByte (base + off)
  | x, _ => SMap.get 0 (x.getD {}).scratch off
def State.putScr (s : State) (g off : Nat) (b : Byte) : State :=
  if (SMap.get? s.groves g).isSome then s.modGrove g fun x => { x with scratch := SMap.set 0 x.scratch off b }
  else match s.savedScr g with
    | some base => s.putHome (base + off) b
    | none => s

/-- Read a byte of a place: a relaxed read (`sc` none) from the core, an ordered one at its point of coherence. -/
def State.readPlace (s : State) (k : Nat) (sc : Option Nat) : Place → Byte
  | .scr g off => s.scrByte g off
  | .mem pa => match sc with
    | none => s.coreByte k pa
    | some c => s.pocByte k c pa

/-- What a read does in the caches before it takes its bytes: a relaxed read fills the snapshot, an ordered one drops clean copies nearer
than its point of coherence. -/
def State.readFill (s : State) (k : Nat) (sc : Option Nat) : Place → State
  | .scr _ _ => s
  | .mem pa =>
    let c := sc.getD 0
    if c ≤ 1 then (if ((s.core k).line pa).has (lineOff pa) then s else s.fillCore k pa)
    else
      let s1 := s.dropClean k c pa
      if c = 2 ∧ !((s1.copse (copseOfCore k)).line pa).has (lineOff pa) then s1.fillCopse (copseOfCore k) pa else s1

/-- Write a byte of a place. -/
def State.writePlace (s : State) (k : Nat) (sc : Option Nat) (b : Byte) : Place → State
  | .scr g off => s.putScr g off b
  | .mem pa => match sc with
    | none => s.storeCore k pa b
    | some c => s.storePoc k c pa b

/-- The place `n` bytes on. -/
def Place.add : Place → Nat → Place
  | .mem pa, n => .mem (pa + n)
  | .scr g o, n => .scr g (o + n)

/-- Whether the sector of a place is poisoned. Scratchpad is never poisoned (R264). -/
def State.poisonedAt (s : State) : Place → Bool
  | .mem pa => SMap.get false s.poison (pa / Config.sectorBytes)
  | .scr _ _ => false

def State.setPoison (s : State) (pa : Nat) (v : Bool) : State :=
  { s with poison := SMap.set false s.poison (pa / Config.sectorBytes) v }

/-- The sectors all of whose bytes a list of addresses covers. -/
def fullSectors (pas : List Nat) : List Nat :=
  ((pas.map (· / Config.sectorBytes)).eraseDups).filter fun k => (upFrom (k * 32) 32).all pas.contains

/-- A store that writes all 32 bytes of a poisoned sector clears the poison (R372). -/
def State.clearPoison (s : State) (pas : List Nat) : State :=
  if s.poison.isEmpty then s else (fullSectors pas).foldl (fun t k => t.setPoison (k * 32) false) s

/-- The tag of the granule of a physical address, as core `k` sees it (R129). -/
def State.tagAt (s : State) (k pa : Nat) : Nat :=
  (s.coreByte k (Config.tagBase + pa / Config.granuleBytes)).toNat % 16

/-- The Pelfold a physical address names (R125). -/
def pelfoldOf (pa : Nat) : Nat := pa / 2 ^ 46 % 64

/-- The home of a physical address in its Pelfold: die and slice; `none` for the configuration space (R125). -/
def sliceOf (pa : Nat) : Option Nat :=
  let x := pa % 2 ^ 46
  if x < 0x8000000000 * 4 then some (x / 0x8000000000 * 32 + pa / 4096 % 32)
  else if 0x80000000000 ≤ x ∧ x < 0x100000000000 then some ((x - 0x80000000000) / 0x20000000000 * 32 + pa / 4096 % 32)
  else if 0x200000000000 ≤ x then some (pa / 4096 % 4 * 32 + pa / 16384 % 32)
  else none

/-- The home of a physical address: its Pelfold, die and slice (R125); a Pelfold has 128 homes. -/
def homeOf (pa : Nat) : Option Nat := (sliceOf pa).map (pelfoldOf pa * 128 + ·)
/-- The die of a home, within its Pelfold. -/
def dieOfHome (h : Nat) : Nat := h % 128 / Config.homesPerDie
/-- The other Pelfold, if any, that must answer an operation on these places (R271). -/
def State.remoteOf (s : State) (ps : List Place) : Option Nat :=
  ps.findSome? fun p => match p with
    | .mem pa => if pelfoldOf pa = s.devid then none else some (pelfoldOf pa)
    | .scr _ _ => none

end Sys2Proof.Machine
end

