-- ==== Sys2Proof/Machine/Fabric.lean ====
section
/-! DEFINITION. The routes between Pelfolds, whether the partition carries traffic, and the limiters of the contexts (R279–R282). -/

namespace Sys2Proof.Machine

/-- The transmit fibres of a Pelfold to a peer: two for each (R281; their numbers are the model's, log entry 68). -/
def fibresTo (dev p : Nat) : List Nat := let i := if p < dev then p else p - 1; [2 * i, 2 * i + 1]
/-- The paths from a Pelfold to another: its two fibres, and six through one Pelfold between, each with the fibre on which it leaves. -/
def pathsTo (dev p : Nat) : List (Nat × Option Nat) :=
  (fibresTo dev p).map (·, none) ++ (((upFrom 0 64).filter fun i => i != dev && i != p).take 6).map fun i => ((fibresTo dev i).headD 0, some i)
/-- The routing table: the paths whose link is in it (R281, R282). -/
def State.routes (s : State) (p : Nat) : List (Nat × Option Nat) := (pathsTo s.devid p).filter fun x => !s.fab.down.contains x.1
/-- Whether the partition is up and, for another Pelfold, some path leads to it (R280, R281). -/
def State.links (s : State) (remote : Option Nat) : Bool :=
  s.fab.up && (match remote with
    | some p => !(s.routes p).isEmpty
    | none => true)

/-- Whether a context's limiter on a die holds a new request back (R279). -/
def State.limited (s : State) (die c : Nat) : Bool :=
  let l := SMap.get {} (s.die die).limiters c
  decide (l.burst ≠ 0 ∧ l.level = 0)
/-- A packet of `n` flits leaves its copse: they are gone from its context's bucket. -/
def State.injectFlits (s : State) (die c n : Nat) : State :=
  match SMap.get? (s.die die).limiters c with
  | none => s
  | some l => s.modDie die fun d => { d with limiters := SMap.insert d.limiters c { l with level := l.level - n } }

end Sys2Proof.Machine
end

