-- ==== Sys2Proof/Machine/Translate.lean ====
section
/-! DEFINITION. From a generic address to a place: windows (R121, R122), the page walk (R126, R127), the TLBs (R130), and
the checks of a memory instruction in their order (R131). -/

namespace Sys2Proof.Machine

/-- Offsets of the parts of a stand image under a kernel's counts (R261). -/
def Kernel.offPreds (k : Kernel) : Nat := 256 + 128 * k.vregs
def Kernel.offScalars (k : Kernel) : Nat := k.offPreds + 64
def Kernel.offHandles (k : Kernel) : Nat := k.offScalars + 512
def Kernel.offAccs (k : Kernel) : Nat := k.offHandles + 128
def Kernel.offSlots (k : Kernel) : Nat := k.offAccs + 4096 * k.nacc
def Kernel.offRes (k : Kernel) : Nat := k.offSlots + 4128 * k.nslot
def Kernel.offTail (k : Kernel) : Nat := k.offRes + 4160 * k.nres
def Kernel.offRecords (k : Kernel) : Nat := k.offTail + 1040
def Kernel.offReplies (k : Kernel) : Nat := k.offRecords + 1280
def Kernel.imageSize (k : Kernel) : Nat := k.offReplies + 9216
/-- The image size padded to a multiple of 256, and the bytes of a grove's block in the save area (R260). -/
def Kernel.placeSize (k : Kernel) : Nat := roundUp k.imageSize 256
def Kernel.blockSize (k : Kernel) : Nat := 64 * k.placeSize + roundUp k.scratch 256

/-- Where the image of the stand with `standid` i of a grove lies on core `k` (R260). -/
def State.imagePlace (s : State) (core : Nat) (g : Grove) (i : Nat) : Nat :=
  (s.ctx (s.launch g.launch).ctx).saveArea core + g.block + i * (s.launch g.launch).kernel.placeSize

/-- Whether one of `n` bytes from a physical address on lies in the path overflow area of a stand of context `c` (R14). -/
def State.inOverflow (s : State) (c pa n : Nat) : Bool :=
  s.stands.any fun kv => kv.2.ctx == c &&
    (let g := s.grove kv.2.grove
     let base := s.imagePlace (coreOf kv.1) g kv.2.standid + (s.launch g.launch).kernel.offTail + 528
     decide (base < pa + n ∧ pa < base + 512))

/-- Whether context `c` belongs to a tenant interface, and the interface lets it reach host memory (R289). -/
def State.ifaceOfCtx (s : State) (c : Nat) : Option Nat :=
  (s.ifs.find? fun kv => (SMap.get 0 kv.2.ctxs (c / 64)).getLsbD (c % 64)).map (·.1)
def State.hostOpen (s : State) (c : Nat) : Bool :=
  match s.ifaceOfCtx c with
  | some i => (s.iface i).access
  | none => true

/-- Whether memory lies behind a physical address for an access of context `c` (R125, R285). GB are 10^9 bytes (R4). -/
def State.populated (s : State) (c pa : Nat) : Bool :=
  let x := pa % 2 ^ 46
  decide (pa < 2 ^ 52) &&
  (decide (x < 4 * 0x8000000000 ∧ x % 0x8000000000 < 384000000000)
   || decide (0x80000000000 ≤ x ∧ x < 0x100000000000)
   || (decide (0x200000000000 ≤ x) && s.hostOpen c))

/-- Bits of VA that index the table at a level, and its least bit (R126). -/
def levelBits : Nat → Nat × Nat
  | 0 => (8, 48)
  | 1 => (9, 39)
  | 2 => (9, 30)
  | 3 => (9, 21)
  | _ => (5, 16)

/-- Whether a leaf entry is valid at a level (R126, R127). -/
def leafOk (level : Nat) (e : Nat) : Bool :=
  decide (2 ≤ level) && decide (e / 2 ^ 52 % 4 = 0 ∧ e / 2 ^ 6 % 2 ^ 10 = 0 ∧ e / 4 % 2 = 0)
    && decide (e % 2 ^ 52 / 2 ^ 16 * 2 ^ 16 % 2 ^ (levelBits level).2 = 0)

/-- Whether a table entry is valid: its reserved bits are zero, and NEXT is aligned to the next table's size; the rule says only that every
table is aligned so (DEDUCED; log entry 81). -/
def tableOk (level : Nat) (e : Nat) : Bool :=
  decide (e / 2 ^ 52 = 0 ∧ e / 4 % 64 = 0) &&
    decide (e % 2 ^ 52 / 256 * 256 % (8 * 2 ^ (levelBits (level + 1)).1) = 0)

/-- Walk from the table at `base`, `fuel` levels to go: the leaf entry and its page size (R126). -/
def State.walk (s : State) (va : Nat) : Nat → Nat → Nat → Option (Nat × Nat)
  | _, _, 0 => none
  | base, level, fuel + 1 =>
    let (w, lo) := levelBits level
    let e := s.homeNat (base + 8 * (va / 2 ^ lo % 2 ^ w)) 8
    if e % 4 = 2 then (if leafOk level e then some (e, 2 ^ lo) else none)
    else if e % 4 = 1 ∧ level < 4 then
      (if tableOk level e then s.walk va (e % 2 ^ 52 / 256 * 256) (level + 1) fuel else none)
    else none

/-- The leaf that maps `va` in context `c`, walked from the translation root (R126, R286). -/
def State.walkCtx (s : State) (c va : Nat) : Option TlbEntry :=
  let root := (s.ctx c).croot.toNat % 2 ^ 52 / 4096 * 4096
  (s.walk (va % 2 ^ 56) root 0 5).map fun (e, sz) => ⟨c, va % 2 ^ 56 / sz * sz, sz, dw e⟩

def TlbEntry.covers (t : TlbEntry) (c va : Nat) : Bool :=
  t.ctx == c && decide (t.va ≤ va % 2 ^ 56 ∧ va % 2 ^ 56 < t.va + t.size)
def TlbEntry.pa (t : TlbEntry) (va : Nat) : Nat := DWord.bits t.leaf 51 16 * 65536 + (va % 2 ^ 56 - t.va)
def TlbEntry.base (t : TlbEntry) : Nat := DWord.bits t.leaf 51 16 * 65536
def TlbEntry.fmt (t : TlbEntry) : Nat := DWord.bits t.leaf 62 58
def TlbEntry.geom (t : TlbEntry) : Nat := DWord.bits t.leaf 57 55
def TlbEntry.psn (t : TlbEntry) : Bool := t.leaf.getLsbD 63
def TlbEntry.te (t : TlbEntry) : Bool := t.leaf.getLsbD 54
def TlbEntry.x (t : TlbEntry) : Bool := t.leaf.getLsbD 5
def TlbEntry.w (t : TlbEntry) : Bool := t.leaf.getLsbD 4
def TlbEntry.p (t : TlbEntry) : Bool := t.leaf.getLsbD 3

/-- Put a translation into a TLB of `n` entries; the oldest leaves a full one. -/
def tlbAdd (n : Nat) (l : List TlbEntry) (t : TlbEntry) : List TlbEntry := (t :: l).take n

/-- Look a page up: core TLB, copse TLB, walk (R130). A miss fills the TLBs it passed. -/
def State.translate (s : State) (k c : Nat) (va : Nat) : State × Option TlbEntry :=
  match (s.core k).tlb.find? (·.covers c va) with
  | some t => (s, some t)
  | none =>
    let fillC := fun (s : State) (t : TlbEntry) => s.modCore k fun x => { x with tlb := tlbAdd Config.coreTlb x.tlb t }
    match (s.copse (copseOfCore k)).tlb.find? (·.covers c va) with
    | some t => (fillC s t, some t)
    | none =>
      match s.walkCtx c va with
      | none => (s, none)
      | some t =>
        let x := s.copse (copseOfCore k)
        (fillC (s.setCopse (copseOfCore k) { x with tlb := tlbAdd Config.copseTlb x.tlb t }) t, some t)

/-- Where a generic address leads (R121). -/
inductive Loc where
  /-- No valid window or address: PROT at step 2. -/
  | bad
  /-- Own scratchpad (window 0), or a peer's (window 1). -/
  | scr (g off : Nat) (peer : Bool)
  /-- Lane-local memory (window 2), at a physical address. -/
  | local (pa : Nat)
  /-- A global address: its page, or no valid translation. -/
  | global (t : Option TlbEntry)
  deriving DecidableEq, Repr

/-- Find the grove with index `g` of launch `l` on core `k` (R121). -/
def State.findGrove (s : State) (k l g : Nat) : Option Nat :=
  (s.groves.find? fun kv => kv.2.core == k && kv.2.launch == l && kv.2.g == g).map (·.1)

/-- Resolve a generic address of a stand; `lane` is none for a scalar access, which has no window 2 (R121, R122, R366). -/
def State.resolve (s : State) (key : Nat) (lane : Option Nat) (va : DWord) : State × Loc :=
  let st := s.stand key
  let n := va.toNat
  if n / 2 ^ 60 = 0 then
    let (s1, t) := s.translate (coreOf key) st.ctx n
    (s1, .global t)
  else if n / 2 ^ 60 ≠ 15 then (s, .bad)
  else
    let off := n % 2 ^ 20
    let size := (s.kernelOf st).scratch
    match n / 2 ^ 56 % 16 with
    | 0 => (s, if n / 2 ^ 20 % 2 ^ 36 = 0 ∧ off < size then .scr st.grove off false else .bad)
    | 1 =>
      let w := n / 2 ^ 48 % 256
      let g := n / 2 ^ 20 % 2 ^ 28
      if 8 ≤ w ∨ size ≤ off then (s, .bad)
      else match s.physOf (copseOfCore (coreOf key)) w with
        | none => (s, .bad)
        | some k => match s.findGrove k (s.grove st.grove).launch g with
          | none => (s, .bad)
          | some gid => (s, .scr gid off true)
    | 2 =>
      let x := n % 2 ^ 56
      match lane with
      | none => (s, .bad)
      | some l =>
        if x < (s.ctx st.ctx).locsz then (s, .local ((s.ctx st.ctx).localPart key + x / 4 * 128 + 4 * l + x % 4))
        else (s, .bad)
    | _ => (s, .bad)

/-- What an instruction asks of the places it accesses (R119, R127, R128, R131). -/
structure Need where
  /-- Width for alignment and for tags, by the page's format; B32 stands for a window. -/
  width : Nat → Nat
  /-- Alignment is checked before translation too: the width does not depend on the page. -/
  fixed : Bool := true
  load  : Bool
  store : Bool
  /-- The page must have P besides, without being watched as a load (R304). -/
  needP : Bool := false
  /-- FORMAT check of a global page by format and geometry. -/
  fmtOk : Nat → Nat → Bool
  /-- Windows the access may use. -/
  win   : Nat → Bool := fun _ => true
  /-- Whether a scale must be found, and so its address (R101). -/
  scaled : Bool := false
  /-- The access performs at a home or at system scope (R61). -/
  home : Bool := false
  /-- The access is to the tags themselves: the page must have TE, and no tag is compared (R373). -/
  tag  : Bool := false

/-- Bytes of an element of a format for alignment; a 4-bit element takes its byte (R119). -/
def fmtBytes (fmt : Nat) : Nat := if 16 ≤ fmt then 1 else max 1 (etBits fmt / 8)

/-- Index of the page element a lane reads, and the offset of its scale byte (R101, R128). -/
def scaleIndex (fmt geom lane off : Nat) : Nat :=
  let i := if fmt = ET.cb2 then 8 * (off / 2) + lane % 8
    else if etBits fmt = 4 then 2 * off + lane % 2
    else off / fmtBytes fmt
  i / (if geom = 1 then 32 else 16)

/-- Whether geometry applies to a page (R101): not to B32 or integer formats. -/
def scaledPage (fmt geom : Nat) : Bool := (geom == 1 || geom == 2) && fmt != ET.b32 && !etInt fmt

/-- The lowest watchpoint of core `k` that an access of `n` bytes at `va` hits (R134). -/
def State.watchHit (s : State) (k : Nat) (load store : Bool) (va n : Nat) : Option Nat :=
  ((s.core k).watch.find? fun kv =>
    let w := kv.2
    ((w.loads && load) || (w.stores && store)) && decide (va % 2 ^ 56 < w.lo + w.len ∧ w.lo < va % 2 ^ 56 + n)).map (·.1)

/-- One lane as the coalescer sees it: lane, address, where it leads, and the width there. -/
structure LaneLoc where
  lane : Nat
  va   : DWord
  loc  : Loc
  width : Nat
  deriving Repr

/-- Resolve the addresses of lanes one after another. -/
def State.resolveAll (s : State) (key : Nat) (sc : Bool) (nd : Need) : List (Nat × DWord) → State × List LaneLoc
  | [] => (s, [])
  | (l, va) :: t =>
    let (s1, loc) := s.resolve key (if sc then none else some l) va
    let w := match loc with
      | .global (some e) => nd.width e.fmt
      | .global none => if nd.fixed then nd.width 0 else 0
      | _ => nd.width 0
    let (s2, r) := s1.resolveAll key sc nd t
    (s2, ⟨l, va, loc, w⟩ :: r)

/-- Outcome of the checks of R131. -/
inductive Chk where
  /-- A trap: cause, `tval`, and the lanes that fail. -/
  | trap (cause : Nat) (tval : DWord) (ls : Mask)
  /-- The lanes that perform; the lanes a page fault leaves unfinished, with their lowest address (R132). -/
  | go (accs : List Acc) (rest : Mask) (low : DWord)
  deriving Repr

/-- Trap causes (R254). -/
abbrev Cause.illegal : Nat := 0x01
abbrev Cause.illmode : Nat := 0x02
abbrev Cause.misalign : Nat := 0x03
abbrev Cause.pagefault : Nat := 0x04
abbrev Cause.prot : Nat := 0x05
abbrev Cause.tagchk : Nat := 0x06
abbrev Cause.poison : Nat := 0x07
abbrev Cause.watch : Nat := 0x08
abbrev Cause.break : Nat := 0x09
abbrev Cause.vxexceed : Nat := 0x0A
abbrev Cause.baton : Nat := 0x0B
abbrev Cause.handle : Nat := 0x0C
abbrev Cause.rights : Nat := 0x0D
abbrev Cause.format : Nat := 0x0E
abbrev Cause.diverge : Nat := 0x0F
abbrev Cause.soft : Nat := 0x10
abbrev Cause.groupline : Nat := 0x11
abbrev Cause.restore : Nat := 0x12
abbrev Cause.remotedown : Nat := 0x13

/-- What checks 5 to 7 of R131 say of a lane whose address leads somewhere. A scale address outside the page is named with the tag bits of the
lane's pointer (DEDUCED; log entry 95); deterministic mode tests the byte of a scale as well (R61). -/
def State.laneFail (s : State) (key : Nat) (nd : Need) (x : LaneLoc) : Option (Nat × DWord) :=
  let st := s.stand key
  let k := coreOf key
  let det := (s.core k).det
  match x.loc with
  | .global (some t) =>
    let pa := t.pa x.va.toNat
    let (wb, wl) := (s.core k).window
    let far := fun (p n : Nat) => det && decide (¬ (wb ≤ p ∧ p + n ≤ wb + wl))
    let scale := st.scloff.toNat + scaleIndex t.fmt t.geom x.lane (pa - t.base)
    let scaled := nd.scaled && scaledPage t.fmt t.geom
    if ((nd.load || nd.needP) && !t.p) || (nd.store && !t.w) || !s.populated st.ctx pa || (nd.store && s.inOverflow st.ctx pa (max 1 x.width))
       || (nd.tag && !t.te) || (det && nd.home) || far pa x.width || (scaled && decide (scale < t.size) && far (t.base + scale) 1) then some (Cause.prot, x.va)
    else if decide (16 ≤ t.fmt ∨ 3 ≤ t.geom) || !nd.fmtOk t.fmt t.geom then some (Cause.format, x.va)
    else if scaled && decide (t.size ≤ scale) then some (Cause.format, dw (x.va.toNat / 2 ^ 56 * 2 ^ 56 + t.va + scale))
    else if t.psn then some (Cause.poison, x.va)
    else if t.te && !nd.tag && (upFrom (pa / 32) ((pa % 32 + x.width + 31) / 32)).any (fun g => s.tagAt k (g * 32) != DWord.bits x.va 59 56) then
      some (Cause.tagchk, x.va)
    else none
  | .scr _ _ peer => if det && (peer || nd.home) then some (Cause.prot, x.va) else none
  | .local _ => if det then some (Cause.prot, x.va) else none
  | _ => none

/-- The place of a lane that passed every check. -/
def LaneLoc.acc (x : LaneLoc) : Acc :=
  match x.loc with
  | .global (some t) => ⟨x.lane, x.va, .mem (t.pa x.va.toNat), t.fmt, t.geom, t.base, t.size⟩
  | .scr g off _ => ⟨x.lane, x.va, .scr g off, 0, 0, 0, 0⟩
  | .local pa => ⟨x.lane, x.va, .mem pa, 0, 0, 0, 0⟩
  | _ => ⟨x.lane, x.va, .mem 0, 0, 0, 0, 0⟩

/-- The trap for a list of failing lanes: the lowest lane's address, and their mask. -/
def firstTrap (cause : Nat) (xs : List LaneLoc) : Chk :=
  .trap cause ((xs.head?.map (·.va)).getD 0) (maskOf (xs.map (·.lane)))

/-- The checks of R131 in their order, for lanes already resolved. Of a lane without a translation, whose width the page would give, the watchpoint test
takes one byte (DESIGN CHOICE; log entry 102). A page fault takes precedence over checks 5 to 7, whose
failing lanes stay unfinished with it (R132). -/
def State.checkLanes (s : State) (key : Nat) (nd : Need) (xs : List LaneLoc) : Chk :=
  let bad1 := xs.filter fun x => decide (1 < x.width ∧ x.va.toNat % x.width ≠ 0)
  let bad2 := xs.filter fun x => x.loc == .bad || (match x.loc with
    | .scr _ _ peer => !nd.win (if peer then 1 else 0)
    | .local _ => !nd.win 2
    | _ => false)
  let hits := xs.filterMap fun x => match x.loc with
    | .global _ => (s.watchHit (coreOf key) nd.load nd.store x.va.toNat (max 1 x.width)).map fun n => (x.lane, n)
    | _ => none
  if !bad1.isEmpty then firstTrap Cause.misalign bad1
  else if !bad2.isEmpty then firstTrap Cause.prot bad2
  else if !hits.isEmpty then
    let m := maskOf (hits.map (·.1))
    let lowest := hits.foldl (fun a h => min a h.2) 7
    .trap Cause.watch (dw (m.toNat + field lowest 32)) m
  else
    let faults := xs.filter fun x => x.loc == .global none
    let fails := xs.filterMap fun x => (s.laneFail key nd x).map fun f => (x, f)
    if faults.isEmpty then
      let of := fun (c : Nat) => fails.filter fun f => f.2.1 == c
      let pick := fun (c : Nat) (k : Chk) => match of c with
        | [] => k
        | f :: fs => .trap c f.2.2 (maskOf ((f :: fs).map (·.1.lane)))
      pick Cause.prot (pick Cause.format (pick Cause.poison (pick Cause.tagchk (.go (xs.map (·.acc)) 0 0))))
    else
      let out := xs.filter fun x => x.loc == .global none || fails.any fun f => f.1.lane == x.lane
      let ok := xs.filter fun x => !(out.any fun y => y.lane == x.lane)
      .go (ok.map (·.acc)) (maskOf (out.map (·.lane))) ((out.head?.map (·.va)).getD 0)

/-- Resolve and check the lanes of an access (R130, R131). -/
def State.access (s : State) (key : Nat) (sc : Bool) (nd : Need) (ls : List (Nat × DWord)) : State × Chk :=
  let (s1, xs) := s.resolveAll key sc nd ls
  (s1, s1.checkLanes key nd xs)

/-- Whether a lane of a PREF lies outside the locked window of its core; one that names no line does (R61, R355; log entry 13). -/
def Core.outside (c : Core) : Option Nat → Bool
  | some pa => !decide (c.window.1 ≤ pa ∧ pa < c.window.1 + c.window.2)
  | none => true

end Sys2Proof.Machine
end

