-- ==== Sys2Proof/Machine/Tiles.lean ====
section
/-! DEFINITION. Tile accumulation: the drain path, residual slots, the home's acceptance and its updates (R189–R201), and
the records that a machine check reports (R257). -/

namespace Sys2Proof.Machine

/-- The 32 bytes of a machine-check record (R257). -/
def MCheck.bytes (r : MCheck) : List Byte :=
  natLe r.ctx 4 ++ natLe r.gsi 2 ++ natLe r.kind 1 ++ natLe 0 1 ++ natLe r.tepc 4 ++ natLe 0 4 ++ natLe r.tval.toNat 8 ++ natLe r.cyc 8

/-- Write a record into a die's error log (R257, R267, R287). -/
def State.logError (s1 : State) (d : Nat) (r : MCheck) : State :=
  let l := (s1.die d).elog
  if l.cap = 0 then s1
  else
    (s1.putHomes (l.base + 32 * (l.next % l.cap)) r.bytes).modDie d fun x => { x with elog := { l with next := l.next + 1 } }

/-- Report a machine check that does not stop its context: to system software, in CMREC, in the die's error log, and by the context's
interrupt (R257, R286, R287). -/
def State.report (s : State) (d : Nat) (r : MCheck) : State :=
  (((s.modCtx r.ctx fun c => { c with cmrec := some r }).tell (.mcheck r)).tell (.irq ((s.ctx r.ctx).cirq.toNat % 65536))).logError d r

/-- A GROUPLINE that no stand can take (R190, R208): kind 0x23, naming the address. -/
def State.grouplineCheck (s : State) (c d pa : Nat) : State := s.report d ⟨c, 0xFFFF, 0x23, 0, dw pa, (s.die d).cyc⟩

/-- The sum of two elements at a home or in a slot: FP32 to nearest even, integers wrap (R190, R195). -/
def addElem (et : Nat) (x y : Word) : Word :=
  if et = ET.fp32 then wd (fpAdd ET.fp32 RM.rne x.toNat y.toNat).code else x + y

/-- The sum of two tiles, element by element (R195). -/
def tileSum (et : Nat) (x y : SMap Word) : SMap Word :=
  SMap.tabulate 0 (fun i => addElem et (SMap.get 0 x i) (SMap.get 0 y i)) 0 1024

/-- Physical address of element i of a tile. -/
def elemPa (rows : List Nat) (i : Nat) : Nat := rows.getD (i / 32) 0 + 4 * (i % 32)

/-- Whether one of a tile's lines is a live backing line (R190). -/
def State.tileLive (s : State) (rows : List Nat) : Bool :=
  !s.live.isEmpty && rows.any fun r => (SMap.get? s.live (lineNo r)).isSome || (SMap.get? s.live (lineNo (r + 64))).isSome

/-- Write the 32-bit value of one element at its home. -/
def State.putWord (s : State) (pa : Nat) (w : Word) : State := s.putHomes pa (natLe w.toNat 4)
def State.homeWord (s : State) (pa : Nat) : Word := wd (s.homeNat pa 4)

/-- Mark every sector of a tile as poisoned (R200). -/
def State.poisonTile (s : State) (rows : List Nat) : State :=
  rows.foldl (fun t r => (upFrom 0 4).foldl (fun t k => t.setPoison (r + 32 * k) true) t) s

/-- The home's update by one tile (R190): each element added, or all sectors poisoned, or nothing where a line is live. -/
def State.applyTile (s : State) (c : Nat) (t : Tile) (vals : SMap Word) (poisoned : Bool) : State :=
  let d := dieOfHome ((homeOf t.rpa).getD 0)
  if s.tileLive t.rows then s.grouplineCheck c d t.rpa
  else
    let s1 := if poisoned then s.poisonTile t.rows
      else (upFrom 0 1024).foldl (fun u i =>
        let pa := elemPa t.rows i
        u.putWord pa (addElem t.et (u.homeWord pa) (SMap.get 0 vals i))) s
    t.rows.foldl (fun u r => u.dropCopseCopies r 128) s1

/-- Write the rows of an AST at their homes, in ascending sectors; a row that meets a live line is dropped with a machine
check (R208, R312). -/
def State.writeRow (s : State) (c k : Nat) (vals : SMap Word) (i : Nat) (row : Nat) : State :=
  if s.tileLive [row] then s.grouplineCheck c (dieOfCore k) row
  else (((upFrom 0 32).foldl (fun u j =>
      (natLe (SMap.get 0 vals (32 * i + j)).toNat 4).foldl (fun (p : State × Nat) b =>
        (p.1.storePoc k 3 p.2 b, p.2 + 1)) (u, row + 4 * j) |>.1) s).clearPoison (upFrom row 128)).dropCopseCopies row 128
def State.writeRows (s : State) (c k : Nat) (vals : SMap Word) : Nat → List Nat → State
  | _, [] => s
  | i, r :: rs => (s.writeRow c k vals i r).writeRows c k vals (i + 1) rs

/-- A tile operation, if `op` is one. -/
def State.tileOp (s : State) (op : Nat) : Option (Out × Tile) :=
  match SMap.get? s.outs op with
  | some o => match o.work with
    | .tile t => some (o, t)
    | _ => none
  | none => none
def State.setTile (s : State) (op : Nat) (o : Out) (t : Tile) : State := s.setOut op { o with work := .tile t }

/-- The residual slot of a stand that holds a tile's destination: the same rows, of the same family (R193; log entry 80). -/
def Stand.slotFor (st : Stand) (rpa stride et : Nat) : Option (Nat × Residual) :=
  st.residuals.find? fun kv => kv.2.rpa == rpa && kv.2.stride == stride && kv.2.et == et

/-- The home of a tile. -/
def Tile.home (t : Tile) : Nat := (homeOf t.rpa).getD 0

/-- One operation number takes another's place in everything that waits for it (R197, R199). -/
def swapId (a b : Nat) (l : List Nat) : List Nat := if l.contains a then (l.filter (· != a)) ++ (if l.contains b then [] else [b]) else l
def State.swapTile (s : State) (uid a b : Nat) : State :=
  { s with
    pubs := s.pubs.map fun p => { p with tiles := swapId a b p.tiles },
    stands := s.stands.map fun kv =>
      if kv.2.uid == uid then (kv.1, { kv.2 with paths := kv.2.paths.map fun pv => (pv.1, { pv.2 with flush := pv.2.flush.map (swapId a b) }) })
      else kv,
    outs := s.outs.map fun kv => match kv.2.work with
      | .rflush ops => (kv.1, { kv.2 with work := .rflush (swapId a b ops) })
      | _ => kv }

/-- Whether an RFLUSH or a publication waits for a tile. -/
def State.wantedByFlush (s : State) (uid op : Nat) : Bool :=
  s.stands.any fun kv => kv.2.uid == uid && kv.2.paths.any fun pv => (pv.2.flush.getD []).contains op
def State.wantedByPub (s : State) (op : Nat) : Bool := s.pubs.any fun p => p.tiles.contains op
/-- Whether a publication that the stand started before a tile, and that does not wait for it, is not complete (R199). -/
def State.tileHeld (s : State) (uid op : Nat) : Bool := s.pubs.any fun p => p.uid == uid && decide (p.id < op) && !p.tiles.contains op

/-- A tile has left the drain path for the RFLUSHes that send it (R197). -/
def State.settleFlush (s : State) (op : Nat) : State :=
  s.outs.foldl (fun u kv => match kv.2.work with
    | .rflush ops => u.setOut kv.1 { kv.2 with work := .rflush (ops.filter (· != op)) }
    | _ => u) s

/-- An RFLUSH's charge is released when the last of its tiles has left the drain path, 16 cycles after its issue at the least (R197, R293).
It follows each step. -/
def State.releaseFlushes (s : State) : State :=
  s.outs.foldl (fun u kv => match kv.2.work with
    | .rflush [] => if s.mature kv.2 then (u.releaseFixed kv.2).dropOut kv.1 else u
    | _ => u) s

/-- A tile leaves the drain path: its fixed charge is released, and a TACC leaves the tiles counter (R48, R145). The
operation stays until its home has applied it. -/
def State.leaveDrain (s : State) (op : Nat) (o : Out) (t : Tile) : State :=
  let k := coreOf o.st
  let s1 := (s.modCore k fun c => { c with drain := c.drain.filter (· != op) }).releaseFixed o
  let s2 := if t.ast then s1 else s1.uncount o
  (s2.setTile op { o with vu := 0, drawn := 0, ctr := if t.ast then o.ctr else .none } t).settleFlush op

/-- Give the bytes of a residual slot back (R117). -/
def State.freeResidual (s : State) (o : Out) (slot : Nat) : State :=
  (s.modOwner o fun st => { st with residuals := SMap.erase st.residuals slot }).shrink (coreOf o.st) o.ctx residualBytes

/-- Withdraw the offer of a residual slot that another tile carries off: its header, or its place at the home (DEDUCED: R195
frees the slot; log entry 30). -/
def State.cancelOffer (s : State) (uid by_ : Nat) : Option Nat → State
  | none => s
  | some op => match s.tileOp op with
    | none => s
    | some (_, t) =>
      ((s.swapTile uid op by_).modHome t.home fun h => { h with tiles := h.tiles.filter (·.op != op) }).dropOut op |>.settleFlush op

/-- The payload of a tile that its home accepts: alone, or with the residual slot it carries, which is freed (R195). An
operation that is the offer of a slot sends the slot. A halted stand's slots stay in its image. -/
def State.payload (s : State) (op : Nat) (o : Out) (t : Tile) : State × SMap Word × Bool :=
  let st := s.stand o.st
  if o.orphan then (s, t.vals, t.poisoned)
  else match t.slot with
    | some n => match SMap.get? st.residuals n with
      | some r => (s.freeResidual o n, r.tile, r.poisoned || t.poisoned)
      | none => (s, t.vals, t.poisoned)
    | none => match st.slotFor t.rpa t.stride t.et with
      | some (n, r) => ((s.freeResidual o n).cancelOffer o.uid op r.offer, tileSum t.et r.tile t.vals, r.poisoned || t.poisoned)
      | none => (s, t.vals, t.poisoned)

/-- A home has accepted a tile: the payload goes out and the tile leaves the drain path, an unused GROW part is refunded
(R148, R191, R195). -/
def State.sendTile (s : State) (op : Nat) (o : Out) (t : Tile) : State :=
  let (s1, vals, poisoned) := s.payload op o t
  let s2 := if t.grow then s1.growRefund o else s1
  let o2 := if t.grow then { o with grow := 0, drawn := o.drawnFixed } else o
  let t2 : Tile := { t with vals := vals, poisoned := poisoned, stage := .home, grow := false }
  (s2.leaveDrain op o2 t2).modHome t.home fun h =>
    { h with tiles := h.tiles.map fun x => if x.op == op then { x with sent := true } else x }

/-- Make a flush-class request of a tile, or of a slot's offer, that no home has granted yet (R196). -/
def State.flushTile (s : State) (op : Nat) : State :=
  match s.tileOp op with
  | some (o, t) =>
    match t.stage with
    | .drain | .backoff => if t.ast then s else s.setTile op o { t with stage := .flushing }
    | _ => s
  | none => s

/-- Offer a residual slot by itself: an operation without charge or count (R195). -/
def State.offerSlot (s : State) (key : Nat) (slot : Nat) (flush : Bool) : State × Option Nat :=
  let st := s.stand key
  match SMap.get? st.residuals slot with
  | none => (s, none)
  | some r => match r.offer with
    | some op => (if flush then s.flushTile op else s, some op)
    | none =>
      let op := s.nextId
      let t : Tile := { rva := r.rva, rpa := r.rpa, stride := r.stride, et := r.et, rows := r.rows, vals := [],
                        stage := if flush then .flushing else .offered, ast := false, slot := some slot, grow := false,
                        poisoned := false, refusals := r.refused, delay := r.delay, since := 0 }
      let o : Out := { st := key, uid := st.uid, ctx := st.ctx, path := 0, pc := 0, ins := .nop ⟨.v0, 0⟩, lanes := 0, mode := 0, rpl := false, cls := 0, vu := 0,
                       drawn := 0, grow := 0, payer := none, ctr := .none, cyc := s.cycOf (coreOf key), acq := none, spec := false, remote := none,
                       redirect := none, orphan := false, more := false, lead := none, fl := 0, counted := false, work := .tile t }
      ((s.bump.setOut op o).modStand key fun x =>
        { x with residuals := SMap.insert x.residuals slot { r with offer := some op } }, some op)

/-- Flush the residual slots of a stand that `sel` picks: the operations that carry them (R197, R199, R32). -/
def State.flushSlots (s : State) (key : Nat) : List (Nat × Residual) → State × List Nat
  | [] => (s, [])
  | (n, _) :: rest =>
    let (s1, op) := s.offerSlot key n true
    let (s2, ops) := s1.flushSlots key rest
    (s2, op.toList ++ ops)

/-- The tile operations of a stand that no home has applied yet, ASTs apart: its TACCs, and the residuals that have been sent. -/
def State.tilesOf (s : State) (uid : Nat) : List (Nat × Tile) :=
  (s.outsOf uid).filterMap fun kv => match kv.2.work with
    | .tile t => if t.ast || (t.slot.isSome && t.stage != .home) then none else some (kv.1, t)
    | _ => none

/-- Whether the home of a tile lies in the set that a release at scope `sc` on die `d` of Pelfold `dev` flushes (R199). -/
def inFlushSet (dev sc d rpa : Nat) : Bool :=
  decide (4 ≤ sc) || (decide (2 ≤ sc) && pelfoldOf rpa == dev && (homeOf rpa).map dieOfHome == some d)

/-- What a release at scope `sc` flushes, and the tiles its publication waits for (R199). -/
def State.releaseFlush (s : State) (key sc : Nat) : State × List Nat :=
  let st := s.stand key
  let d := dieOfCore (coreOf key)
  let tiles := (s.tilesOf st.uid).filter fun kv => inFlushSet s.devid sc d kv.2.rpa
  let (s1, ops) := s.flushSlots key (st.residuals.filter fun kv => inFlushSet s.devid sc d kv.2.rpa)
  (s1, tiles.map (·.1) ++ ops)

/-- Flush everything a stand holds, as RFLUSH for all addresses (R32). -/
def State.flushAll (s : State) (key : Nat) : State :=
  let st := s.stand key
  let (s1, _) := s.flushSlots key st.residuals
  (s1.tilesOf st.uid).foldl (fun u kv => u.flushTile kv.1) s1

/-- The next back-off wait: doubled, up to `top` (R193, R195). -/
def backoff (d first top : Nat) : Nat := if d = 0 then first else min top (2 * d)

/-- Count a refusal (R202). -/
def Stand.refuse (st : Stand) : Stand := { st with accref := if st.accref.toNat = 0xFFFFFFFF then st.accref else st.accref + 1 }

/-- After a refused tile's addend rests in slot `n`: it leaves the drain path for good, and what waited for it now waits for
the slot's flush. -/
def State.tileToSlot (s : State) (op : Nat) (o : Out) (t : Tile) (n : Nat) : State :=
  let s1 := s.leaveDrain op o t
  let s2 :=
    if s1.wantedByFlush o.uid op || s1.wantedByPub op then
      match s1.offerSlot o.st n true with
      | (u, some op2) => u.swapTile o.uid op op2
      | (u, none) => u
    else s1
  s2.dropOut op

/-- The courses of R193 for a refused tile; one whose stand has gone leaves as a flush-class request (R145). -/
def State.refuseTile (s : State) (op : Nat) (o : Out) (t : Tile) : State :=
  let st := s.stand o.st
  let cyc := s.cycOf (coreOf o.st)
  if o.orphan then s.setTile op o { t with stage := .flushing }
  else match st.slotFor t.rpa t.stride t.et with
  | some (n, r) =>
    let r2 := { r with tile := tileSum t.et r.tile t.vals, poisoned := r.poisoned || t.poisoned, count := min 0xFFFF (r.count + 1) }
    let s1 := s.modStand o.st fun x => { x with residuals := SMap.insert x.residuals n r2 }
    (if t.grow then s1.growRefund o else s1).tileToSlot op { o with grow := 0, drawn := o.drawnFixed } { t with grow := false } n
  | none =>
    match t.grow, SMap.lowestFree st.residuals 0 (s.kernelOf st).nres with
    | true, some n =>
      let r : Residual := { rva := t.rva, rpa := t.rpa, stride := t.stride, et := t.et, poisoned := t.poisoned, count := 1,
                            tile := t.vals, rows := t.rows, since := cyc, delay := 256, refused := 0, offer := none }
      let s1 := (s.modStand o.st fun x => { x with residuals := SMap.insert x.residuals n r }).growResident o
      s1.tileToSlot op { o with grow := 0, drawn := o.drawnFixed } { t with grow := false } n
    | _, _ =>
      let s1 := if t.grow then s.growRefund o else s
      let o1 := if t.grow then { o with grow := 0, drawn := o.drawnFixed } else o
      let n := t.refusals + 1
      let stage := if 8 ≤ n || s.wantedByFlush o.uid op then TStage.flushing else TStage.backoff
      s1.setTile op o1 { t with grow := false, refusals := n, delay := backoff t.delay 64 1024, since := cyc, stage := stage }

/-- A home refuses the offer of a slot: the wait doubles, and after 8 refusals it goes as a flush-class request (R195). -/
def State.refuseSlot (s : State) (op : Nat) (o : Out) (t : Tile) (n : Nat) : State :=
  let cyc := s.cycOf (coreOf o.st)
  match SMap.get? (s.stand o.st).residuals n with
  | none => s.dropOut op
  | some r =>
    if s.wantedByFlush o.uid op || s.wantedByPub op then s.setTile op o { t with stage := .flushing }
    else
      let r2 := { r with offer := none, refused := r.refused + 1, delay := backoff r.delay 256 4096, since := cyc }
      (s.dropOut op).modStand o.st fun x => { x with residuals := SMap.insert x.residuals n r2 }

/-! ### A halt (R145, R188, R198, R199) -/

/-- The offer of a residual slot for which a publication waits becomes a tile that carries the slot's sum. -/
def State.carrySlot (s : State) (op : Nat) : State :=
  match s.tileOp op with
  | none => s
  | some (o, t) => match t.slot with
    | none => s
    | some n => match SMap.get? (s.stand o.st).residuals n with
      | some r => if s.wantedByPub op && t.stage != .home then (s.freeResidual o n).setTile op o { t with vals := r.tile, poisoned := r.poisoned, slot := none } else s
      | none => s

/-- A tile leaves the drain path of a stand that halts, as a flush-class request that its home accepts; the rows of an AST leave whole. What the
fabric does not carry stays behind (log entry 33). -/
def State.driveTile (s : State) (op : Nat) : State :=
  match s.tileOp op with
  | none => s
  | some (o, t) =>
    if t.stage = .home ∨ t.slot.isSome ∨ s.links o.remote = false then s
    else if t.ast then s.leaveDrain op o { t with stage := .home }
    else
      (s.modHome t.home fun h => if h.tiles.any (·.op == op) then h else { h with tiles := h.tiles ++ [⟨op, coreOf o.st, t.rpa, true, false⟩] }).sendTile op o t

/-- Every tile of a stand that halts. -/
def State.driveTiles (s : State) (uid : Nat) : State :=
  let s1 := (s.outsOf uid).foldl (fun u kv => u.carrySlot kv.1) s
  (s1.outsOf uid).foldl (fun u kv => u.driveTile kv.1) s1

end Sys2Proof.Machine
end

