-- ==== Sys2Proof/Machine/Publish.lean ====
section
/-! DEFINITION. What leaves the caches: lines written out by a release (R172), before an operation at a home (R162, R175), and by eviction
(R1, R169). A write that meets a live backing line at its home is dropped (R208). -/

namespace Sys2Proof.Machine

/-- An operation's GROUPLINE has been told of: what else of it a home drops is not told again (R208; log entry 96). -/
def State.disownOp (s : State) (op : Nat) : State :=
  let lines := fun (m : SMap Line) => m.map fun kv => (kv.1, { kv.2 with owners := kv.2.owners.filter fun x => x.2.op != op })
  { s with
    cores := s.cores.map fun kv => (kv.1, { kv.2 with
      snap := lines kv.2.snap, combine := kv.2.combine.map fun e => { e with owners := e.owners.filter fun w => w.op != op } }),
    copses := s.copses.map fun kv => (kv.1, { kv.2 with cache := lines kv.2.cache }) }

/-- A store whose bytes its home dropped after it had performed on its core: GROUPLINE at the next issue of its path, a machine check where
that issues nothing more; once for an instruction (R208). -/
def State.lostWrite (s0 : State) (d : Nat) (w : Owner) : State :=
  let s := s0.disownOp w.op
  let check := s.grouplineCheck w.ctx d w.va.toNat
  match s.keyOfUid w.uid with
  | none => check
  | some key =>
    let p := (s.stand key).path w.path
    if p.state = .free then check
    else if p.glines.any fun x => x.1 == w.op then s
    else s.modStand key fun st => st.modPath w.path fun p => { p with glines := p.glines ++ [(w.op, w.va, w.lanes)] }

/-- Each operation once. -/
def onceEach : List Owner → List Owner
  | [] => []
  | w :: ws => w :: (onceEach ws).filter fun x => x.op != w.op

/-- Whether an address lies on a live backing line; a tag belongs to its granule's line (R208, R374). -/
def State.liveAt (s : State) (pa : Nat) : Bool := !s.live.isEmpty && (SMap.get? s.live (lineNo (dataLine pa))).isSome

/-- Write what a line had not written out to its home; everyone who wrote a byte that the home drops is told (R208). -/
def State.outBytes (s : State) (d base : Nat) (l : Line) : State :=
  let s1 := (l.dirtyOffs.filter fun o => !s.liveAt (base + o)).foldl (fun u o => u.putHome (base + o) (l.byte o)) s
  let lost := l.dirtyOffs.filter fun o => s.liveAt (base + o)
  (onceEach ((l.owners.filter fun x => lost.any x.1.getLsbD).map (·.2))).foldl (fun u w => u.lostWrite d w) s1

/-- The bytes of a line of which no older copy stays when some are written out: their sectors; of a line of tags, they alone. -/
def outMask (base : Nat) (l : Line) : BitVec 64 := if Config.tagBase ≤ base then l.dirty else sectorsOf l.dirty
/-- Forget the clean bytes of a mask. -/
def Line.forget (m : BitVec 64) (l : Line) : Line :=
  let keep := l.valid &&& ~~~(m &&& ~~~l.dirty)
  { l with data := l.data.filter fun kv => keep.getLsbD kv.1, valid := keep }

/-- Line `n` of core `k`'s copse cache goes out to its home. -/
def outLineCopse (k : Nat) (s : State) (n : Nat) : State :=
  let cp := copseOfCore k
  let base := n * Config.lineBytes
  let l := SMap.get {} (s.copse cp).cache n
  if l.dirty = 0 then s else (s.modCopseLine cp base fun _ => l.writtenOut (outMask base l)).outBytes (dieOfCore k) base l

/-- Line `n` of core `k`'s snapshot goes out to its copse (scope 2) or its home. -/
def outLineCore (k sc : Nat) (s : State) (n : Nat) : State :=
  let cp := copseOfCore k
  let base := n * Config.lineBytes
  let l := SMap.get {} (s.core k).snap n
  if l.dirty = 0 then s
  else
    let s1 := s.modLine k base fun _ => l.writtenOut (outMask base l)
    if sc = 2 then s1.modCopseLine cp base fun m =>
      let m1 := l.dirtyOffs.foldl (fun m o => m.put o (l.byte o) true) m
      { m1 with owners := m1.owners ++ l.owners }
    else (s1.modCopseLine cp base (Line.forget (outMask base l))).outBytes (dieOfCore k) base l

/-- The lines of a cache that are not all written out. -/
def dirtyLines (m : SMap Line) : List Nat := (m.filter fun kv => kv.2.dirty != 0).map (·.1)

/-- Write out everything core `k` has not published, to the point of coherence of scope `sc` (R172). For the homes, what
the copse has not written out goes first: the stand may have read it. -/
def State.publishCore (s : State) (k sc : Nat) : State :=
  if sc ≤ 1 then s
  else
    let s1 := if sc = 2 then s else (dirtyLines (s.copse (copseOfCore k)).cache).foldl (outLineCopse k) s
    (dirtyLines (s1.core k).snap).foldl (outLineCore k sc) s1

/-- Send what core `k` or its copse has not written out of the line of `pa` to its home (R162, R175). -/
def State.flushLine (s : State) (k pa : Nat) : State := outLineCore k 3 (outLineCopse k s (lineNo pa)) (lineNo pa)

/-! ### Capacity (R1) -/

/-- The lines of data of a cache; those of tags come after them. -/
def dataLines (m : SMap Line) : List Nat := (m.filter fun kv => decide (kv.1 * Config.lineBytes < Config.tagBase)).map (·.1)

/-- A line and its tags leave a cache. -/
def Core.evicted (c : Core) (n : Nat) : Core :=
  let tp := tagPlace (n * Config.lineBytes) 0
  { c with snap := SMap.set {} (SMap.erase c.snap n) (lineNo tp) (((c.line tp).drop (lineOff tp)).drop (lineOff tp + 1)) }
def Copse.evicted (c : Copse) (n : Nat) : Copse :=
  let tp := tagPlace (n * Config.lineBytes) 0
  { c with cache := SMap.set {} (SMap.erase c.cache n) (lineNo tp) (((c.line tp).drop (lineOff tp)).drop (lineOff tp + 1)) }

/-- Evict line `n` from core `k`: what it has not written out reaches its home early, after what the copse had of it (R162, R169). -/
def evictCore (k : Nat) (s : State) (n : Nat) : State :=
  ((s.flushLine k (n * Config.lineBytes)).flushLine k (tagPlace (n * Config.lineBytes) 0)).modCore k fun c => c.evicted n
def evictCopse (cp : Nat) (s : State) (n : Nat) : State :=
  let k := cp * Config.physPerCopse
  let s1 := outLineCopse k (outLineCopse k s n) (lineNo (tagPlace (n * Config.lineBytes) 0))
  s1.setCopse cp ((s1.copse cp).evicted n)

/-- Whether a line of a copse cache is locked in the window of a core of the copse in deterministic mode (R61). -/
def State.locked (s : State) (cp n : Nat) : Bool :=
  s.cores.any fun kv => copseOfCore kv.1 == cp && kv.2.det && (let (b, l) := kv.2.window; decide (b < n * 64 + 64 ∧ n * 64 < b + l))

/-- Caches that hold more than their capacity evict their lowest lines (DESIGN CHOICE: the spec names no order; log entry 29), while the
partition carries what they write out (R280). It follows each step. -/
def State.trimCaches (s : State) : State :=
  if !s.fab.up then s else
  let s1 := s.cores.foldl (fun u kv =>
    if kv.2.snap.length ≤ Config.snapLines then u
    else (let ls := dataLines kv.2.snap; ls.take (ls.length - Config.snapLines)).foldl (evictCore kv.1) u) s
  s1.copses.foldl (fun u kv =>
    if kv.2.cache.length ≤ Config.copseLines then u
    else
      let ls := dataLines kv.2.cache
      ((ls.filter fun n => !s1.locked kv.1 n).take (ls.length - Config.copseLines)).foldl (evictCopse kv.1) u) s1

end Sys2Proof.Machine
end

