-- ==== Sys2Proof/Machine/Image.lean ====
section
/-! DEFINITION. The save image of a stand: its layout (R260, R261), its records (R262), its CRC, the checks of a restore
(R263), the MAC of a handle (R204), and the halt of a stand, a grove and a context (R138, R145, R259, R266). -/

namespace Sys2Proof.Machine

/-- `n` numbers of `w` bytes each. -/
def packNat (w : Nat) (f : Nat → Nat) (n : Nat) : List Byte := (upFrom 0 n).flatMap fun i => natLe (f i) w

/-- Exactly `n` bytes: cut, or filled with zeros. -/
def fit (n : Nat) (bs : List Byte) : List Byte := (bs ++ List.replicate n 0).take n

/-- The MAC of bits [39:0] of a handle under a context's key (R204). -/
def handleMac (c : Ctx) (low : Nat) : Nat := (sipHash c.ckey0 c.ckey1 (dw (low % 2 ^ 40))).toNat % 2 ^ 24
/-- A handle with its MAC (R203). -/
def mkHandle (c : Ctx) (kind rights gen die index : Nat) : DWord :=
  let low := index % 2 ^ 14 + field (die % 4) 14 + field (gen % 2 ^ 16) 16 + field (kind % 16) 32 + field (rights % 16) 36
  dw (low + field (handleMac c low) 40)

abbrev handleKind (h : DWord) : Nat := DWord.bits h 35 32
abbrev handleRights (h : DWord) : Nat := DWord.bits h 39 36
abbrev handleGen (h : DWord) : Nat := DWord.bits h 31 16
abbrev handleDie (h : DWord) : Nat := DWord.bits h 15 14
abbrev handleIndex (h : DWord) : Nat := DWord.bits h 13 0

/-- The OP and D fields of an instruction's word (R36). -/
def opField (i : Instr) : Nat := ((encodeRaw i).map fun x => x.1.op.toNat).getD 0
def dField (i : Instr) : Nat := ((encodeRaw i).map fun x => x.1.d.toNat).getD 0

/-- The value of `vxstat` (R153) and of `vxres` (R156) as CSRs hold them. -/
def Stand.vxstat (st : Stand) : Nat := b2n st.vxTrap + 2 * b2n st.stalled + 4 * b2n st.hopeless
def Stand.vxres (st : Stand) : Nat := st.avail % 65536 + field (st.lent % 65536) 16

/-- The value of `baton` (R231). -/
def State.baton (s : State) (st : Stand) : Nat :=
  let g := s.grove st.grove
  let ring := (s.launch g.launch).kernel.ring
  (if st.standid < ring then st.standid else 0xFF) + field (b2n (g.sbat == some st.standid)) 8 + field (b2n (g.mbat == some st.standid)) 9

/-- Lanes still unfinished of everything parked (R260); the path of a handler that a replayed operation entered parks what it had left. -/
def Stand.parkedLanes (st : Stand) : Mask :=
  st.paths.foldl (fun m kv => m ||| ((kv.2.parked.map (·.lanes)).getD 0) ||| ((kv.2.part.map (·.lanes)).getD 0)) ((st.kept.map (·.lanes)).getD 0)

/-- The 32-byte descriptor of a bound slot (R223). -/
def OpSlot.desc (x : OpSlot) : List Byte :=
  natLe x.sfmt 1 ++ natLe (64 + 8 * x.table + x.geom) 1 ++ natLe x.rows 1 ++ natLe 0 1 ++ natLe x.sscl 4 ++ natLe x.sstride 4
    ++ natLe 0 4 ++ natLe (x.sppa % 2 ^ 52) 8 ++ natLe 0 8
/-- A slot in the image: descriptor and data (R261). -/
def OpSlot.bytes (x : OpSlot) : List Byte := x.desc ++ packNat 1 (fun i => (SMap.get 0 x.data i).toNat) 4096

/-- A residual slot in the image (R194). -/
def Residual.bytes (r : Residual) : List Byte :=
  natLe r.rva.toNat 8 ++ natLe r.rpa 8 ++ natLe r.stride 4 ++ natLe r.et 1 ++ natLe (1 + 2 * b2n r.poisoned) 1 ++ natLe r.count 2
    ++ List.replicate 40 0 ++ packNat 4 (fun i => (SMap.get 0 r.tile i).toNat) 1024

/-- A membership entry in the image (R261). -/
def Member.bytes (m : Member) : List Byte :=
  natLe (m.index + field m.die 14) 2 ++ natLe m.gen 2 ++ natLe m.ord 4 ++ natLe m.ret 8 ++ natLe (if m.pending then 2 else 1) 1
    ++ List.replicate 15 0

/-- A replay record (R262). -/
def replayBytes (pc path : Nat) (ls : Mask) : List Byte := natLe pc 4 ++ natLe path 1 ++ natLe 0 3 ++ natLe ls.toNat 4 ++ natLe 0 4

/-- Whether an operation's reply carries lane values: a returning atomic or XCHG (R262). -/
def laneReply (i : Instr) : Bool :=
  match i with
  | .xchg .. | .aadd .. | .amin .. | .amax .. | .aand .. | .aor .. | .axor .. | .axch .. | .acas .. => true
  | _ => false

/-- A full reply slot (R262). What the layout names no place for stands in bytes 16 up: GVOTE's predicate, GRED's value,
GCRT's handle, GINFO's state (log entry 32). -/
def slotBytesOf (o : Out) (rep : Reply) : List Byte :=
  let head := natLe o.pc.toNat 4 ++ natLe (opField o.ins) 1 ++ natLe (dField o.ins) 1 ++ natLe 1 1 ++ natLe 0 1
  if laneReply o.ins then
    head ++ natLe rep.lanes.toNat 4 ++ natLe 0 4 ++ packNat 4 (fun l => (SMap.get 0 rep.vals l).toNat) 32
  else
    let body := match rep.record, rep.vote, rep.extra with
      | some r, _, _ => r
      | none, some v, _ => natLe v.toNat 4
      | none, none, some x => natLe x.toNat 8
      | none, none, none => []
    head ++ natLe rep.status.toNat 8 ++ fit 128 body

/-- GVOTE's kind or GRED's operation, else 0 (R262). -/
def insVariant : Instr → Nat
  | .gvote _ kind _ _ _ => kind.toNat
  | .gred _ _ _ _ op => op.toNat
  | _ => 0

/-- The handle register of a group operation (R215–R218). -/
def groupRegOf : Instr → Option HReg
  | .gjoin _ _ a | .gleave _ _ a | .gbar _ _ a | .ginfo _ _ a | .gdel _ _ a => some a
  | .gvote _ _ _ a _ => some a
  | .gred _ _ a _ _ => some a
  | .xchg _ _ _ a => some a
  | _ => none

/-- Key of a directory slot: kind, die, index (R380). -/
def dirKey (kind die index : Nat) : Nat := kind * 65536 + die * 16384 + index
/-- Generation of a directory slot; 1 after power-on (R380). -/
def State.gen (s : State) (k : Nat) : Nat := SMap.get 1 s.gens k
/-- Advance a generation by 1, skipping 0 (R380). -/
def State.bumpGen (s : State) (k : Nat) : State := { s with gens := SMap.set 1 s.gens k (if s.gen k = 65535 then 1 else s.gen k + 1) }

/-- The directory slot of the group at which an operation is lodged. -/
def State.lodgedAt (s : State) (op : Nat) : Option Nat :=
  (s.groups.find? fun kv => kv.2.pendingOps.contains op || kv.2.arrivals.any (·.op == op)).map (·.1)

/-- A lodge record (R262). -/
def State.lodgeBytes (s : State) (op : Nat) (o : Out) : List Byte :=
  let k := (s.lodgedAt op).getD 0
  let g := SMap.get? s.groups k
  let body := natLe (k % 65536) 2 ++ natLe (s.gen k) 2 ++ natLe (match g with | some x => x.ground.toNat | none => 0) 4 ++ natLe (opField o.ins) 1 ++ natLe (insVariant o.ins) 1
  natLe o.pc.toNat 4 ++ natLe (opField o.ins) 1 ++ natLe (dField o.ins) 1 ++ natLe 2 1 ++ natLe 0 1
    ++ (if laneReply o.ins then natLe o.lanes.toNat 4 ++ natLe 0 4 else natLe 0 8) ++ fit 128 body

/-- A reply slot that its agent has not filled yet: state 0 (log entry 32). -/
def openSlot (o : Out) : List Byte :=
  natLe o.pc.toNat 4 ++ natLe (opField o.ins) 1 ++ natLe (dField o.ins) 1 ++ List.replicate 138 0

/-- The image header without `icrc` (R260). -/
def State.imageHeader (s : State) (key : Nat) (st : Stand) (reason nrep nreply : Nat) : List Byte :=
  let ids := (SMap.keys st.residuals).foldl (fun a i => a + 2 ^ i) 0
  let slots := (SMap.keys st.oslots).foldl (fun a i => a + 2 ^ i) 0
  let counts := if reason = 3 then 0
    else st.loads + field st.stores 6 + field st.copies 12 + field st.tiles 18 + field st.tokmask.toNat 24
  let rg : Region := st.region.getD ⟨0, 0, 0, 0⟩
  natLe 0x3153585A 4 ++ natLe 1 2 ++ natLe reason 2 ++ natLe st.ctx 4 ++ natLe st.standid 2 ++ natLe (idxOf key) 2
    ++ natLe st.mode.toNat 4 ++ natLe st.dis.toNat 4 ++ natLe counts 4 ++ natLe (s.vxest key) 2 ++ natLe st.vxstat 2
    ++ natLe st.vxres 4 ++ natLe st.flags.toNat 2 ++ natLe ids 2 ++ natLe st.scloff.toNat 4
    ++ natLe st.parkedLanes.toNat 4 ++ natLe st.gang.toNat 8 ++ natLe (s.baton st) 2 ++ natLe nrep 1 ++ natLe nreply 1
    ++ natLe (b2n st.inHandler.isSome + 2 * b2n (st.parkedLanes != 0) + 4 * b2n st.region.isSome) 2 ++ natLe slots 2
    ++ packNat 16 (fun i => (st.path i).bits) 8
    ++ natLe st.tcause.toNat 8 ++ natLe st.tepc.toNat 8 ++ natLe st.tval.toNat 8 ++ natLe st.tmask.toNat 8 ++ natLe st.tvec.toNat 8
    ++ natLe st.tscratch.toNat 8 ++ natLe rg.ientry 4 ++ natLe rg.mask.toNat 4 ++ natLe rg.em.toNat 4

/-- Parts of the body that every stand has (R261). -/
def Stand.scalarBytes (st : Stand) : List Byte := packNat 8 (fun i => if i = 63 then 0 else (SMap.get 0 st.sregs i).toNat) 64
def Stand.countBytes (st : Stand) : List Byte := natLe st.retcnt.toNat 8 ++ natLe 0 8

/-! The membership list and the path overflow area lie in the tail of the stand's image place while it runs: the core writes each change
there as data and keeps a copy (R14, R210, R261). -/

/-- The membership list, and an overflow slot, as the tail holds them. -/
def memberBytes (l : List Member) : List Byte := fit 512 (l.flatMap Member.bytes)
def Stand.overBytes (st : Stand) (i : Nat) : List Byte := natLe (st.overSlot i).bits 16
def Stand.listBytes (st : Stand) : List Byte := memberBytes st.members ++ (upFrom 0 32).flatMap st.overBytes

/-- Where the membership list, and overflow slot `i`, of a stand lie. -/
def State.listPlace (s : State) (key : Nat) : Nat :=
  let st := s.stand key
  s.imagePlace (coreOf key) (s.grove st.grove) st.standid + (s.kernelOf st).offTail + 16
def State.overPlace (s : State) (key i : Nat) : Nat := s.listPlace key + 512 + 16 * i

/-- Write bytes as data on a core. -/
def State.storeBytes (s : State) (k pa : Nat) (bs : List Byte) : State :=
  ((upFrom pa bs.length).zip bs).foldl (fun u x => u.storeCore k x.1 x.2) s

/-- Write the overflow slots of a stand that differ from `old`. -/
def State.keepOver (s : State) (key : Nat) (old : SMap Path) : State :=
  let st := s.stand key
  ((upFrom 0 32).filter fun i => st.overSlot i != SMap.get {} old i).foldl
    (fun u i => u.storeBytes (coreOf key) (s.overPlace key i) (st.overBytes i)) s

/-- Put a stand's list and overflow area into its own place: where a stand starts, and where a restore brings it to a new one (R261; log
entry 53). -/
def State.writeList (s : State) (key : Nat) : State :=
  let pa := s.listPlace key
  let s1 := s.dropCopies pa 1024
  { s1 with mem := s1.mem.filter fun kv => decide (kv.1 < pa ∨ pa + 1024 ≤ kv.1) }.putHomes pa (s.stand key).listBytes

/-- The parts that PTST reads back instead of writing: vectors, predicates, handles, accumulators (R304). -/
def Stand.spillParts (st : Stand) (k : Kernel) : List (Nat × List Byte) :=
  [ (256, packNat 4 (fun i => (SMap.get 0 st.vregs i).toNat) (32 * k.vregs)),
    (k.offPreds, packNat 4 (fun i => if i = 15 then 0 else (SMap.get 0 st.preds i).toNat) 16),
    (k.offHandles, packNat 8 (fun i => (SMap.get 0 st.hregs i).toNat) 16),
    (k.offAccs, packNat 4 (fun i => (SMap.get 0 st.accs i).toNat) (1024 * k.nacc)) ]

/-- The parts that both a halt and PTST write (R261, R304). -/
def State.commonParts (s : State) (key : Nat) (st : Stand) (k : Kernel) : List (Nat × List Byte) :=
  [(k.offScalars, st.scalarBytes), (k.offTail, st.countBytes)]
    ++ st.oslots.map (fun kv => (k.offSlots + 4128 * kv.1, (SMap.get {} (s.core (coreOf key)).oslots kv.2).bytes))
    ++ st.residuals.map (fun kv => (k.offRes + 4160 * kv.1, kv.2.bytes))

/-- A byte of an image with everything absent taken as zero, as `icrc` sees it (R260). -/
def imageByte (k : Kernel) (img : Nat → Byte) (islots ires nrep nreply : Nat) (a : Nat) : Byte :=
  if 0xFC ≤ a ∧ a < 0x100 then 0
  else if k.offSlots ≤ a ∧ a < k.offRes then (if islots.testBit ((a - k.offSlots) / 4128) then img a else 0)
  else if k.offRes ≤ a ∧ a < k.offTail then (if ires.testBit ((a - k.offRes) / 4160) then img a else 0)
  else if k.offRecords ≤ a ∧ a < k.offReplies then (if a < k.offRecords + 16 * nrep then img a else 0)
  else if k.offReplies ≤ a ∧ a < k.imageSize then (if a < k.offReplies + 144 * nreply then img a else 0)
  else if k.imageSize ≤ a then 0
  else img a

/-- A little-endian number of an image. -/
def imgNat (img : Nat → Byte) (off n : Nat) : Nat := leNat ((upFrom off n).map img)

/-- `icrc` of an image: the whole place, padding included (R260). -/
def imageCrc (k : Kernel) (img : Nat → Byte) : Nat :=
  let f := imageByte k img (imgNat img 0x3E 2) (imgNat img 0x26 2) (imgNat img 0x3A 1) (imgNat img 0x3B 1)
  crc32c ((upFrom 0 k.placeSize).map f)

/-- The image at a physical address. -/
def State.imageAt (s : State) (pa : Nat) : Nat → Byte := fun off => s.homeByte (pa + off)
/-- Bring `icrc` of the image at a physical address up to date. -/
def State.sealImage (s : State) (k : Kernel) (pa : Nat) : State := s.putHomes (pa + 0xFC) (natLe (imageCrc k (s.imageAt pa)) 4)

/-- Write parts of an image at a physical address. -/
def State.putParts (s : State) (pa : Nat) (parts : List (Nat × List Byte)) : State :=
  parts.foldl (fun t p => t.putHomes (pa + p.1) p.2) s

/-- What a halt makes of an outstanding operation (R145, R262). -/
inductive Fate where
  /-- Completes without its stand. -/
  | goesOn
  /-- Leaves a replay record. -/
  | replay
  /-- Its reply is redirected into a reply slot, which holds a lodge record while it is lodged. -/
  | redirect (lodged : Bool)
  | drop
  deriving DecidableEq, Repr

/-- Whether nothing of an operation's own lanes is left to do. -/
def Work.idle : Work → Bool
  | .load [] _ | .tagget [] | .store [] _ => true
  | .atomic ws .. => ws.isEmpty
  | _ => false

/-- Whether an MMA in the array is within its last 3 VU of work: the spec does not say how long the array takes (log entry 33). -/
def mmaFinishes (op : Nat) : Bool := (Config.freeByte op).getLsbD 0

/-- The fate of operation `op` at a halt (R145, R149, R195, R262, R355). -/
def Out.fate (op : Nat) (o : Out) : Fate :=
  if o.work.idle then .drop
  else match o.work with
    | .pref => .drop
    | .rflush _ => .drop
    | .tile t => if t.slot.isSome && t.stage != .home then .drop else .goesOn
    | .mma _ _ stage _ _ _ => if stage = .queued ∨ (stage = .started ∧ !mmaFinishes op) then .replay else .drop
    | .det stage _ _ => .redirect (stage == .lodged)
    | .atomic .. => if o.cls = Cls.detach then .redirect false else .goesOn
    | _ => if o.cls = Cls.replay then .replay else .goesOn

/-- Write all 1,024 values of an accumulator at once (R227, R311). -/
def Stand.putAcc (st : Stand) (a : Nat) (vals : SMap Word) : Stand :=
  { st with accs := (upFrom 0 1024).foldl (fun m i => SMap.set 0 m (1024 * a + i) (SMap.get 0 vals i)) st.accs }

/-- The array finishes an MMA that has started: its accumulator and flags (R114, R145). -/
def State.finishMma (s : State) (o : Out) : State :=
  match o.ins, o.work with
  | .mma _ d _ _, .mma _ _ .started _ vals fl => s.modOwner o fun st => { st.putAcc d.toNat vals with flags := st.flags ||| fl }
  | _, _ => s

/-- A tile of a halted stand leaves as a flush-class request (R145): one not granted yet asks again. -/
def Tile.atHalt (t : Tile) : Tile :=
  if t.ast then t
  else match t.stage with
    | .drain | .backoff | .offered | .refused => { t with stage := .flushing, grow := false }
    | _ => { t with grow := false }

/-- An operation without its stand: it holds no charge, no counter counts it, and nothing waits for it (R145). -/
def Out.bare (o : Out) : Out :=
  { o with orphan := true, ctr := .none, vu := 0, drawn := 0, grow := 0, payer := none, acq := none, more := false, lead := none,
           counted := o.counted && !o.more && o.lead.isNone }

/-- Settle the operations of a halted stand: those that go on lose their stand, those redirected get the place of their
reply slot, the rest is gone (R145, R262). -/
def State.settleOuts (s : State) (slot0 : Nat) : Nat → List (Nat × Out) → State
  | _, [] => s
  | n, (op, o) :: rest =>
    let bare := o.bare
    match o.fate op with
    | .goesOn =>
      let w := match o.work with
        | .tile t => Work.tile t.atHalt
        | w => w
      (s.setOut op { bare with work := w }).settleOuts slot0 n rest
    | .redirect _ => (s.setOut op { bare with redirect := some (slot0 + 144 * n) }).settleOuts slot0 (n + 1) rest
    | _ => (s.dropOut op).settleOuts slot0 n rest

/-- The offers of a halted stand's slots are withdrawn at their homes; the slots stay in the image. -/
def State.withdrawOffers (s : State) (uid : Nat) : State :=
  (s.outsOf uid).foldl (fun u kv => match kv.2.work with
    | .tile t => if t.slot.isSome && t.stage != .home then u.modHome t.home fun h => { h with tiles := h.tiles.filter (·.op != kv.1) } else u
    | _ => u) s

/-- Drop what reached a halted stand's paths too late: a GROUPLINE that no path takes is a machine check (R208). -/
def State.orphanLines (s : State) (key : Nat) : State :=
  ((s.stand key).paths.flatMap fun kv => kv.2.glines).foldl (fun u x => u.grouplineCheck (s.stand key).ctx (dieOfCore (coreOf key)) x.2.1.toNat) s

/-- New value of a word, and the flags, by an atomic with operand `x` and, for ACAS, swap value `y` (R307). -/
def atomicNew (i : Instr) (et rm : Nat) (w x y : Word) : Word × BitVec 4 :=
  let mm := fun (max : Bool) => wd (elemMinMax et max w.toNat x.toNat)
  match i with
  | .aadd .. => if et = ET.fp32 then (let r := fpAdd et rm w.toNat x.toNat; (wd r.code, r.flags)) else (w + x, 0)
  | .amin .. => (mm false, 0)
  | .amax .. => (mm true, 0)
  | .aand .. => (w &&& x, 0)
  | .aor .. => (w ||| x, 0)
  | .axor .. => (w ^^^ x, 0)
  | .axch .. => (x, 0)
  | .acas .. => (if w = x then y else w, 0)
  | _ => (w, 0)

/-- Bring a word to its home before an operation performs there: what the core or its copse has not written out goes first
(R162, R174). -/
def State.wordHome (s : State) (k pa : Nat) : State := s.flushLine k pa
/-- After an operation at the home, the core and its copse hold no older copy of the word (R170, R175). -/
def State.wordDrop (s : State) (k pa : Nat) : State := (upFrom pa 4).foldl (fun u a => u.dropClean k 3 a) s

/-- Perform one combining-buffer entry at its home (R175); poisoned words and live lines are left (R208, R309). -/
def State.combineOut (s : State) (k : Nat) (e : Comb) : State :=
  if (SMap.get? s.live (lineNo e.pa)).isSome then e.owners.foldl (fun u w => u.lostWrite (dieOfCore k) w) s
  else if s.poisonedAt (.mem e.pa) then s
  else
    let s1 := s.wordHome k e.pa
    (s1.putWord e.pa (atomicNew e.ins e.et e.rm (s1.homeWord e.pa) e.value 0).1).wordDrop k e.pa

/-- Every entry of a core's combining buffer that `f` picks leaves the core, with those who still own it (R175). -/
def State.combineDrain (s : State) (k : Nat) (f : Comb → Bool) : State :=
  let c := s.core k
  ((c.combine.filter f).foldl (fun u e => u.combineOut k (((u.core k).combine.find? (·.pa == e.pa)).getD e)) s).modCore k fun x => { x with combine := x.combine.filter fun e => !f e }

/-- What operations have drawn of other stands' reservations goes back to those (R149, R155). -/
def State.repay (s : State) (outs : List (Nat × Out)) : State :=
  (outs.filter fun kv => kv.2.payer.isSome).foldl (fun u kv => ((u.payerOf kv.2).map fun p => u.returnDrawn p kv.2.ctx kv.2.drawn).getD u) s

/-- Take a stand off its core: its positions, slots, charges and resident bytes are free (R32, R138). -/
def State.removeStand (s0 : State) (key : Nat) : State :=
  let st := s0.stand key
  let k := coreOf key
  let outs := s0.outsOf st.uid
  let s := s0.repay outs
  let bytes := (s.kernelOf st).standBytes + slotBytes * st.oslots.length + residualBytes * st.residuals.length
  let s1 := s.modSlot k st.ctx fun x =>
    { x with s := x.s - bytes, c := x.c - (outs.map (·.2.vu)).sum, p := x.p - (outs.map (·.2.grow)).sum, q := x.q - st.avail,
             stalled := x.stalled.filter (·.st != key) }
  let s2 := s1.modCore k fun c =>
    { c with oslots := c.oslots.filter fun kv => !(st.oslots.any fun b => b.2 == kv.1) }
  { s2 with
    stands := SMap.erase s2.stands key,
    outs := s2.outs.map fun kv => if kv.2.payer = some st.uid then (kv.1, { kv.2 with payer := none, drawn := 0 }) else kv }

/-- The lanes of an instruction that its operations have not written: its first one's, and those of the later ones it counts (R262, R346). -/
def leftLanes (outs : List (Nat × Out)) (op : Nat) : Mask :=
  outs.foldl (fun m kv => if (kv.1 == op || kv.2.lead == some op) && !kv.2.work.idle then m ||| kv.2.lanes else m) 0

/-- The replay records of a stand at a halt, in the order in which their operations first issued (R262): records that have issued again,
those that have not, and what the paths have issued since. One without lanes of its own is among them whatever `em` was (R17, R145). -/
def Stand.records (st : Stand) (outs : List (Nat × Out)) : List (List Byte) :=
  let own := (st.replays.head?).bind (·.op)
  let of := fun (rpl : Bool) => outs.filterMap fun kv =>
    let m := leftLanes outs kv.1
    if kv.2.rpl == rpl && kv.2.lead.isNone && decide (some kv.1 ≠ own)
        && (kv.2.fate kv.1 == .replay || (kv.2.cls == Cls.replay && kv.2.work.idle && m != 0)) then
      some (replayBytes kv.2.pc.toNat kv.2.path m)
    else none
  let waiting := match st.replays with
    | [] => []
    | r :: rs => { r with lanes := r.lanes ||| (own.map (leftLanes outs)).getD 0 } :: rs
  of true ++ waiting.map (fun r => replayBytes r.pc.toNat r.path r.lanes) ++ of false

/-- The release at system scope of a vacate on a core (R176). -/
def State.publishFor (s : State) (k c : Nat) : State := (s.publishCore k 4).combineDrain k fun e => e.owners.any (·.ctx == c)

/-- Halt one stand and write its image to its place (R259–R262), with the flags that lanes done of what it abandons have raised (R347). The step is whole:
what settles concurrently within the bounds of R145 has settled in it (log entry 33). -/
def State.haltStand (s : State) (key reason : Nat) : State × SavedStand :=
  let st0 := s.stand key
  let sp := (s.squashStand key).publishFor (coreOf key) st0.ctx
  let s0 := ((((sp.outsOf st0.uid).filter fun kv => mmaFinishes kv.1).foldl (fun u kv => u.finishMma kv.2) (sp.orphanLines key)).driveTiles st0.uid).withdrawOffers st0.uid
  let outs := s0.outsOf st0.uid
  let st := { s0.stand key with flags := outs.foldl (fun f kv => f ||| kv.2.fl) (s0.stand key).flags }
  let k := s0.kernelOf st
  let pa := s0.imagePlace (coreOf key) (s0.grove st.grove) st.standid
  let reps := st.records outs
  let plies := outs.filterMap fun kv => match kv.2.fate kv.1 with
    | .redirect true => some (s0.lodgeBytes kv.1 kv.2)
    | .redirect false => some (openSlot kv.2)
    | _ => none
  let parts := (0, s0.imageHeader key st reason reps.length plies.length) :: st.spillParts k ++ s0.commonParts key st k
    ++ [(k.offRecords, reps.flatten), (k.offReplies, plies.flatten)]
  let s1 := (s0.putParts pa parts).sealImage k pa
  let s2 := (s1.removeStand key).settleOuts (pa + k.offReplies) 0 outs
  (s2, { uid := st.uid, standid := st.standid, idx := idxOf key, image := pa, armed := st.armed, again := [] })

def State.haltStands (s : State) (reason : Nat) : List Nat → State × List SavedStand
  | [] => (s, [])
  | key :: ks =>
    let (s1, x) := s.haltStand key reason
    let (s2, xs) := s1.haltStands reason ks
    (s2, x :: xs)

/-- Where the scratchpad of a grove lies in its block (R260). -/
def State.scratchPlace (s : State) (core : Nat) (g : Grove) : Nat :=
  (s.ctx (s.launch g.launch).ctx).saveArea core + g.block + 64 * (s.launch g.launch).kernel.placeSize

/-- Free a grove's pool units and scratchpad (R32, R33, R117). -/
def State.removeGrove (s : State) (gid : Nat) : State :=
  let g := s.grove gid
  let l := s.launch g.launch
  let s1 := (s.modCore g.core fun c => { c with units := c.units - g.units }).shrink g.core l.ctx l.kernel.scratch
  { s1 with groves := SMap.erase s1.groves gid }

/-- Halt every stand of a grove and save its scratchpad (R260). -/
def State.haltGrove (s : State) (gid reason : Nat) (onto : Option Nat) : State :=
  let g := s.grove gid
  let l := s.launch g.launch
  let place := s.scratchPlace g.core g
  let (s1, saved) := s.haltStands reason (s.standsOfGrove gid)
  let s2 := s1.putHomes place (packNat 1 (fun i => (SMap.get 0 g.scratch i).toNat) l.kernel.scratch)
  let sg : SavedGrove := { id := gid, grove := { s1.grove gid with scratch := [] }, stands := saved, scr := place,
                           sources := (s.ctxSlot g.core l.ctx).sources, onto := onto }
  (s2.removeGrove gid).modCtx l.ctx fun c => { c with saved := c.saved ++ [sg] }

/-- Give a core's context slot back; the other context runs if one is there (R21, R28). -/
def State.freeSlot (s : State) (k c : Nat) : State :=
  match s.slotOf k c with
  | none => s
  | some b => s.modCore k fun x =>
    let y := x.setSlot b {}
    if x.running == b && (x.slot !b).ctx.isSome then { y with running := !b, ranFrom := s.cycOf k, idleFrom := s.cycOf k } else y

/-- Halt a context on every core, with the image reason given (R138, R257, R259), and publish what it wrote (R176). -/
def State.haltContext (s : State) (c reason : Nat) : State :=
  let gs := (s.groves.filter fun kv => (s.launch kv.2.launch).ctx == c).map (·.1)
  let cores := allCores.filter fun k => (s.slotOf k c).isSome
  let s1 := gs.foldl (fun u g => u.haltGrove g reason none) s
  let s2 := cores.foldl (fun u k => u.publishFor k c) s1
  cores.foldl (fun u k => u.freeSlot k c) s2

/-- A fatal machine check: the context halts with reason 4, and the record is reported (R257). -/
def State.fatal (s : State) (d : Nat) (r : MCheck) : State :=
  let s1 := if (s.ctx r.ctx).state = .free ∨ (s.ctx r.ctx).state = .halted then s
    else (s.haltContext r.ctx 4).modCtx r.ctx fun c => { c with state := .halted }
  s1.report d r

/-- Die-local cycle and place of a machine check of a stand (R257). -/
def State.mcheckOf (s : State) (key kind : Nat) (tepc : Nat) (tval : DWord) : MCheck :=
  ⟨(s.stand key).ctx, s.gsi key, kind, tepc, tval, s.cycOf (coreOf key)⟩

/-! ### Reading an image back (R263) -/

/-- Whether MODE could have left such a `mode` (R46). -/
def modeOk (m : Nat) : Bool :=
  decide (m < 2 ^ 25 ∧ m / 2 ^ 22 % 2 = 0 ∧ m % 32 < 16 ∧ m / 32 % 8 < 5 ∧ m / 2 ^ 13 % 8 < 6)

/-- The entries of an image's path table, and of the overflow slots that LINKs reach. -/
def imgPaths (img : Nat → Byte) : List (Option Path) := (upFrom 0 8).map fun i => Path.ofBits (imgNat img (0x40 + 16 * i) 16)
def imgOver (k : Kernel) (img : Nat → Byte) (slot : Nat) : Option Path := Path.ofBits (imgNat img (k.offTail + 528 + 16 * slot) 16)

/-- Follow LINKs from `link`: the slots reached in order and their entries; none where one is illegal or reached twice. -/
def followLinks (k : Kernel) (img : Nat → Byte) (link : Nat) (seen : List Nat) : Nat → Option (List Nat × List Path)
  | 0 => none
  | fuel + 1 =>
    if link = 0 then some (seen, [])
    else if 33 ≤ link ∨ seen.contains link then none
    else match imgOver k img (link - 1) with
      | none => none
      | some p =>
        if p.state = .serial ∨ p.state = .serialj then
          (followLinks k img p.link.toNat (link :: seen) fuel).map fun r => (r.1, p :: r.2)
        else none

/-- All LINK chains of a table: the displaced entries. -/
def allLinks (k : Kernel) (img : Nat → Byte) : List Nat → List Nat → Option (List Path)
  | _, [] => some []
  | seen, l :: ls => match followLinks k img l seen 40 with
    | none => none
    | some (seen2, ps) => (allLinks k img seen2 ls).map (ps ++ ·)

/-- No lane in two groups. -/
def disjointAll : Mask → List Mask → Bool
  | _, [] => true
  | acc, m :: ms => decide (acc &&& m = 0) && disjointAll (acc ||| m) ms

/-- Check 3: the path table (R12, R263). -/
def pathsOk (k : Kernel) (img : Nat → Byte) : Option (List Path × List Path) :=
  let raw := imgPaths img
  let ps := raw.filterMap id
  if ps.length ≠ 8 then none
  else
    let ip := (upFrom 0 8).zip ps
    let live := ip.filter fun x => x.2.state != .free
    let parentOf := fun (p : Path) => ps.getD p.parent.toNat {}
    let parentsOk := live.all fun x => x.2.parent.toNat == x.1 || (parentOf x.2).state == .record
    let running := live.filter fun x => x.2.state.runs
    let groups := running.map (·.2.mask) ++ (live.filter fun x => x.2.state == .serial).map (·.2.aux)
    let within := live.all fun x =>
      (x.2.state != .record || decide (x.2.aux &&& ~~~x.2.mask = 0)) &&
      (x.2.parent.toNat == x.1 || decide (x.2.mask &&& ~~~(parentOf x.2).mask = 0))
    let linksOk := ip.all fun x => x.2.link == 0 || x.2.state == .serial || x.2.state == .serialj
    match allLinks k img [] (ps.map (·.link.toNat)) with
    | none => none
    | some deep => if parentsOk && disjointAll 0 groups && within && linksOk then some (ps, deep) else none

/-- Check 4: every PC in use lies in 16 … 2^17 − 1 (R263). -/
def pcsOk (ps : List Path) : Bool :=
  ps.all fun p =>
    let ok := fun (x : BitVec 17) => decide (16 ≤ x.toNat)
    match p.state with
    | .free => true
    | .active => ok p.pc
    | .record => ok p.jt
    | .serial => ok p.pc && ok p.jt && ok p.xpc
    | .serialj => ok p.pc && ok p.jt

/-- Check 8: residual slots, slot descriptors and membership states (R263). -/
def partsOk (k : Kernel) (img : Nat → Byte) : Bool :=
  let ires := imgNat img 0x26 2
  let islots := imgNat img 0x3E 2
  decide (imgNat img 0x3A 1 ≤ 80 ∧ imgNat img 0x3B 1 ≤ 64 ∧ ires < 2 ^ k.nres ∧ islots < 2 ^ k.nslot)
  && (upFrom 0 k.nres).all (fun i => !ires.testBit i ||
      (let b := k.offRes + 4160 * i
       ([0x01, 0x07, 0x0B] : List Nat).contains (imgNat img (b + 0x14) 1) && decide (imgNat img (b + 0x15) 1 % 2 = 1 ∧ imgNat img (b + 0x15) 1 < 4)
       && (upFrom (b + 0x18) 40).all fun a => img a == 0))
  && (upFrom 0 k.nslot).all (fun i => !islots.testBit i ||
      (let b := k.offSlots + 4128 * i
       let info := imgNat img (b + 1) 1
       let rows := imgNat img (b + 2) 1
       decide (info / 64 = 1 ∧ info % 8 ≤ 2 ∧ imgNat img b 1 < 16 ∧ rows ≤ 32 ∧ (imgNat img b 1 = 0 → rows = 0)
         ∧ imgNat img (b + 0x10) 8 < 2 ^ 52 ∧ imgNat img (b + 3) 1 = 0 ∧ imgNat img (b + 0x0C) 4 = 0 ∧ imgNat img (b + 0x18) 8 = 0)))
  && (upFrom 0 16).all fun i => decide (imgNat img (k.offTail + 32 + 32 * i) 1 ≤ 2)

/-- The first check of R263 that an image fails, as its reason code; 0 where all pass. -/
def imageCheck (k : Kernel) (c : Ctx) (img : Nat → Byte) : Nat :=
  if imgNat img 0 4 ≠ 0x3153585A ∨ imgNat img 4 2 ≠ 1 then 1
  else if imageCrc k img ≠ imgNat img 0xFC 4 then 2
  else match pathsOk k img with
    | none => 3
    | some (ps, deep) =>
      let st := imgNat img 0x3C 2
      let tepc := imgNat img 0xC8 8 % 2 ^ 17
      let rg := imgNat img 0xF0 4
      if !pcsOk (ps ++ deep) || (st.testBit 0 && decide (tepc < 16)) || (st.testBit 2 && decide (rg < 16 ∨ 2 ^ 17 ≤ rg)) then 4
      else if !modeOk (imgNat img 0x10 4) || !modeOk (imgNat img 0xC4 4) then 5
      else if (upFrom 0 16).any fun i =>
          let h := dw (imgNat img (k.offHandles + 8 * i) 8)
          handleKind h != 0 && DWord.bits h 63 40 != handleMac c (h.toNat % 2 ^ 40) then 6
      else if (upFrom 0 (min 64 (imgNat img 0x3B 1))).any fun i =>
          let x := imgNat img (k.offReplies + 144 * i + 6) 1
          x != 1 && x != 2 then 7
      else if !partsOk k img then 8
      else 0

/-- Numbers of `w` bytes of an image, as a map over `0, …, n - 1`. -/
def imgMap (img : Nat → Byte) (w off n : Nat) (b : Nat) : SMap (BitVec b) :=
  SMap.tabulate 0 (fun i => BitVec.ofNat b (imgNat img (off + w * i) w)) 0 n

/-- An operand slot of an image, without its scale store (R223). -/
def imgSlot (k : Kernel) (img : Nat → Byte) (n : Nat) : OpSlot :=
  let b := k.offSlots + 4128 * n
  let info := imgNat img (b + 1) 1
  { sfmt := imgNat img b 1, geom := info % 8, table := info / 8 % 8, rows := imgNat img (b + 2) 1, sscl := imgNat img (b + 4) 4,
    sstride := imgNat img (b + 8) 4, sppa := imgNat img (b + 0x10) 8, data := imgMap img 1 (b + 32) 4096 8, scales := [] }

/-- A residual slot of an image; its rows are translated by who loads it. -/
def imgResidual (k : Kernel) (img : Nat → Byte) (n now : Nat) (rows : List Nat) : Residual :=
  let b := k.offRes + 4160 * n
  { rva := dw (imgNat img b 8), rpa := imgNat img (b + 8) 8, stride := imgNat img (b + 0x10) 4, et := imgNat img (b + 0x14) 1,
    poisoned := (imgNat img (b + 0x15) 1).testBit 1, count := imgNat img (b + 0x16) 2, tile := imgMap img 4 (b + 64) 1024 32,
    rows := rows, since := now, delay := 256, refused := 0, offer := none }

/-- The membership list of an image (R261). -/
def imgMembers (k : Kernel) (img : Nat → Byte) : List Member :=
  (upFrom 0 16).filterMap fun i =>
    let b := k.offTail + 16 + 32 * i
    let x := imgNat img b 2
    if imgNat img (b + 16) 1 = 0 then none
    else some { die := x / 16384, index := x % 16384, gen := imgNat img (b + 2) 2, ord := imgNat img (b + 4) 4,
                ret := imgNat img (b + 8) 8, pending := imgNat img (b + 16) 1 == 2 }

/-- The replay records of an image, in order (R262). -/
def imgReplays (k : Kernel) (img : Nat → Byte) : List Replay :=
  (upFrom 0 (imgNat img 0x3A 1)).map fun i =>
    let b := k.offRecords + 16 * i
    { pc := BitVec.ofNat 17 (imgNat img b 4), path := imgNat img (b + 4) 1 % 8, lanes := BitVec.ofNat 32 (imgNat img (b + 8) 4) }

/-- What a path of an image has left to do: the lanes parked in it, which issue again alone (R132, R133). The image does not tell a fetch that parked
from an access: after the first, the instruction issues for the lanes of `em` that were parked, whatever its guard (DESIGN CHOICE; log entry 99). -/
def Path.rest (p : Path) (park : Mask) : Option Part :=
  let m := p.mask &&& park
  if p.state.runs && m != 0 then some { lanes := m, exact := true } else none

/-- The overflow slots that the LINKs of an image reach. -/
def imgLinked (k : Kernel) (img : Nat → Byte) : List Nat :=
  (imgPaths img).flatMap fun p => match p.bind fun q => followLinks k img q.link.toNat [] 40 with
    | some (seen, _) => seen.map (· - 1)
    | none => []

/-- Load every part of an image into a stand; identity, counters and what the model keeps beside the image stay (R159,
R263, R305). -/
def Stand.loadImage (st : Stand) (k : Kernel) (img : Nat → Byte) (now : Nat) (slots : SMap Nat) (res : SMap Residual) : Stand :=
  let park : Mask := BitVec.ofNat 32 (imgNat img 0x2C 4)
  let state := imgNat img 0x3C 2
  let tepc := imgNat img 0xC8 8
  let ientry := imgNat img 0xF0 4
  let handler := if state.testBit 0 then some (tepc / 2 ^ 17 % 8) else none
  let path := fun (i : Nat) => (Path.ofBits (imgNat img (0x40 + 16 * i) 16)).getD {}
  let linked := imgLinked k img
  let keeps := (imgNat img 0xC0 8).testBit 10
  { st with
    vregs := imgMap img 4 256 (32 * k.vregs) 32,
    preds := imgMap img 4 k.offPreds 15 32,
    sregs := imgMap img 8 k.offScalars 63 64,
    hregs := imgMap img 8 k.offHandles 16 64,
    accs := imgMap img 4 k.offAccs (1024 * k.nacc) 32,
    mode := BitVec.ofNat 32 (imgNat img 0x10 4),
    flags := BitVec.ofNat 4 (imgNat img 0x24 2),
    dis := BitVec.ofNat 32 (imgNat img 0x14 4),
    paths := SMap.tabulate {} (fun i =>
      let p := path i
      if p = {} then p else { p with age := now, fresh := true, part := if keeps && handler == some i then none else p.rest park }) 0 8,
    ovf := SMap.tabulate {} (fun i => if linked.contains i then (imgOver k img i).getD {} else {}) 0 32,
    avail := imgNat img 0x20 2 + imgNat img 0x22 2, lent := 0,
    vxTrap := (imgNat img 0x1E 2).testBit 0, stalled := (imgNat img 0x1E 2).testBit 1, hopeless := (imgNat img 0x1E 2).testBit 2,
    scloff := BitVec.ofNat 32 (imgNat img 0x28 4),
    gang := dw (imgNat img 0x30 8),
    tcause := dw (imgNat img 0xC0 8), tepc := dw tepc, tval := dw (imgNat img 0xD0 8), tmask := dw (imgNat img 0xD8 8),
    tscratch := dw (imgNat img 0xE8 8),
    inHandler := handler, deferred := false, kept := if keeps then handler.bind fun i => (path i).rest park else none,
    region := if state.testBit 2 then (k.idems.find? fun r => r.1 == ientry).map fun r =>
        ⟨r.1, r.2, BitVec.ofNat 32 (imgNat img 0xF4 4), BitVec.ofNat 32 (imgNat img 0xF8 4)⟩ else none,
    members := imgMembers k img,
    retcnt := dw (imgNat img k.offTail 8),
    replays := imgReplays k img,
    oslots := slots, residuals := res, restart := false }

end Sys2Proof.Machine
end

