-- ==== Sys2Proof/Machine/Trace.lean ====
section
/-! DEFINITION. The Sniasal trace of a core (R275, R287): records, when a SYNC goes before one, and what happens when the buffer is
full. The widths of the fields within a record are the model's (log entry 35). -/

namespace Sys2Proof.Machine

/-- Record types (R275). -/
abbrev Tr.sync : Nat := 0
abbrev Tr.flow : Nat := 1
abbrev Tr.group : Nat := 2
abbrev Tr.mark : Nat := 3
abbrev Tr.sample : Nat := 4
abbrev Tr.loss : Nat := 5
abbrev Tr.trap : Nat := 6

/-- Bytes of a record (R275). -/
def traceLen (type : Nat) : Nat := if type = Tr.sync ∨ type = Tr.sample then 32 else if type = Tr.flow ∨ type = Tr.loss then 8 else 16

/-- A record: type and path, stand index, and its content. -/
def traceBytes (type key idx : Nat) (body : List Byte) : List Byte :=
  natLe (type + 16 * idx) 1 ++ natLe (idxOf key) 1 ++ fit (traceLen type - 2) body

/-- Number of a path of a core, for its SYNC. -/
def tracePath (key idx : Nat) : Nat := idxOf key * 8 + idx

/-- A SYNC: cycle, context, gsi, state, PC, MASK, `em`, `mode`. -/
def State.syncRec (s : State) (key idx : Nat) : List Byte :=
  let st := s.stand key
  let p := st.path idx
  traceBytes Tr.sync key idx (natLe (s.cycOf (coreOf key)) 6 ++ natLe st.ctx 4 ++ natLe (s.gsi key) 2 ++ natLe p.state.code 2 ++ natLe p.pc.toNat 4
    ++ natLe p.mask.toNat 4 ++ natLe (st.em idx).toNat 4 ++ natLe st.mode.toNat 4)

/-- The paths of a core, `(key, idx)` first among them. -/
def State.tracedPaths (s : State) (key idx : Nat) : List (Nat × Nat) :=
  (key, idx) :: ((s.standsOfCore (coreOf key)).flatMap fun k => (pathIdx.filter fun i => (s.stand k).path i != {}).map fun i => (k, i)).filter (· != (key, idx))

/-- The paths whose SYNC stands before a record of a path: all of the core after a LOSS, else its own when one is due. -/
def State.syncsFor (s : State) (t : Trace) (key idx type : Nat) : List (Nat × Nat) :=
  let due := match SMap.get? t.since (tracePath key idx) with
    | none => true
    | some m => decide (256 ≤ m) || type == Tr.group
  if 0 < t.lost then s.tracedPaths key idx else if due then [(key, idx)] else []

/-- Write a record of a path, with the LOSS record and the SYNCs that must stand before it: all of them, or, where the buffer has no room for
that, none. Nothing happens while trace is off. -/
def State.traceRec (s : State) (key idx type : Nat) (body : List Byte) : State :=
  let k := coreOf key
  let t := (s.core k).trace
  if !t.on then s
  else
    let syncs := s.syncsFor t key idx type
    let bytes := (if 0 < t.lost then traceBytes Tr.loss key idx (natLe t.lost 6) else []) ++ syncs.flatMap (fun p => s.syncRec p.1 p.2)
      ++ traceBytes type key idx body
    if t.off + bytes.length ≤ t.size.toNat then
      let since := syncs.foldl (fun m p => SMap.insert m (tracePath p.1 p.2) 0) (if 0 < t.lost then [] else t.since)
      let me := tracePath key idx
      (s.putHomes (t.base.toNat + t.off) bytes).modCore k fun c =>
        { c with trace := { t with off := t.off + bytes.length, lost := 0, since := SMap.insert since me (SMap.get 0 since me + 1) } }
    else s.modCore k fun c => { c with trace := { t with lost := t.lost + 1 } }

end Sys2Proof.Machine
end

