-- ==== Sys2Proof/Machine/Ops.lean ====
section
/-! DEFINITION. What every instruction is made of: the environment at issue, register reads and writes (R40, R17),
commitment, waiting (R20, R49), the vacate charge (R151), issue and completion of outstanding operations (R48), and taking a trap
with the return from one beside it (R256–R258). -/

namespace Sys2Proof.Machine

/-- What an instruction sees at issue: its stand, path and kernel, its PC, `em`, the guard mask G (R44), the lanes it acts on as a
whole, and those at this issue. -/
structure Env where
  key : Nat
  idx : Nat
  st  : Stand
  path : Path
  ker : Kernel
  pc  : BitVec 17
  em  : Mask
  g   : Mask
  all : Mask
  act : Mask
  replay : Bool
  ins : Instr

/-- The fields of `mode` (R43). -/
def modeEt (m : Word) : Nat := m.toNat % 32
def modeRm (m : Word) : Nat := m.toNat / 32 % 8
def modeGp (m : Word) : Nat := m.toNat / 256 % 16
def modeGn (m : Word) : Bool := m.getLsbD 12
def modeScope (m : Word) : Nat := m.toNat / 8192 % 8
def modeOrd (m : Word) : Nat := m.toNat / 65536 % 4
def modeCb (m : Word) : Nat := m.toNat / 262144 % 8
def modeSx (m : Word) : Bool := m.getLsbD 21
def modeKs (m : Word) : Nat := m.toNat / 8388608 % 4
/-- Whether `mode.ORD` acquires, and whether it releases (R173). -/
def modeAcq (m : Word) : Bool := m.getLsbD 16
def modeRel (m : Word) : Bool := m.getLsbD 17

/-- A predicate as a stand's registers hold it: `pt` is all-true (R40). -/
def Stand.predVal (st : Stand) (n : Nat) : Mask := if n = 15 then ~~~0 else SMap.get 0 st.preds n
/-- The guard mask G (R44). -/
def Stand.guard (st : Stand) : Mask :=
  let m := if modeGp st.mode = 0 then ~~~0 else st.predVal (modeGp st.mode)
  if modeGn st.mode then ~~~m else m

/-- The replay record of a stand that issues first. -/
def Stand.firstReplay (st : Stand) : Replay := st.replays.headD { pc := 0, path := 0, lanes := 0 }

/-- The lanes of the next issue of a path: all of `em`, or what is left of an instruction that has performed in part
(R132, R255). -/
def Path.limit (p : Path) (em all : Mask) : Mask :=
  match p.part with
  | none => all
  | some t => if t.exact then t.lanes else em &&& t.lanes

/-- The environment of the instruction at the issue position. -/
def State.env (s : State) (i : Instr) : Env :=
  let key := s.cur.st
  let st := s.stand key
  let idx := s.cur.path
  let p := st.path idx
  let em := st.em idx
  let g := st.guard
  let all := if (roles i).guarded then em &&& g else em
  let rec0 := st.firstReplay
  { key := key, idx := idx, st := st, path := p, ker := s.kernelOf st, pc := if s.cur.replay then rec0.pc else p.pc, em := em, g := g,
    all := all, act := if s.cur.replay then rec0.lanes else p.limit em all, replay := s.cur.replay, ins := i }

/-- Register reads: `vz` and `sz` read 0, `pt` all-true, `em` as R17 gives it (R40). -/
def Env.v (e : Env) (r : VReg) (l : Nat) : Word := if r = 127 then 0 else SMap.get 0 e.st.vregs (32 * r.toNat + l)
def Env.s (e : Env) (r : SReg) : DWord := if r = 63 then 0 else SMap.get 0 e.st.sregs r.toNat
def Env.p (e : Env) (n : Nat) : Mask := if n = 16 then e.em else e.st.predVal n
def Env.h (e : Env) (r : HReg) : DWord := SMap.get 0 e.st.hregs r.toNat
/-- A 64-bit value in a vector pair: the low half in the named register (R308). -/
def Env.pair (e : Env) (r : VReg) (l : Nat) : DWord := e.v (r + 1) l ++ e.v r l
/-- Core of the stand. -/
def Env.core (e : Env) : Nat := coreOf e.key

/-- Register writes: those to `vz`, `sz` and `pt` are discarded, one to `em` acts as R17 gives (R40). -/
def Stand.setV (st : Stand) (r : Nat) (ls : List Nat) (f : Nat → Word) : Stand :=
  if r = 127 then st else { st with vregs := ls.foldl (fun m l => SMap.set 0 m (32 * r + l) (f l)) st.vregs }
def Stand.setS (st : Stand) (r : Nat) (x : DWord) : Stand :=
  if r = 63 then st else { st with sregs := SMap.set 0 st.sregs r x }
def Stand.setP (st : Stand) (idx n : Nat) (x : Mask) : Stand :=
  if n = 15 then st else if n = 16 then st.setEm idx x else { st with preds := SMap.set 0 st.preds n x }
def Stand.setH (st : Stand) (r : Nat) (x : DWord) : Stand := { st with hregs := SMap.set 0 st.hregs r x }

/-- The lanes of an operation that has no lanes of its own: `em`; of one that issues again, those of its record. -/
def Env.whole (e : Env) : Mask := if e.replay then e.act else e.em

/-- The active lanes, ascending. -/
def Env.lanes (e : Env) : List Nat := Mask.toList e.act

/-- The replay record that issues, and the lanes of the instruction's first issue, where they are known. -/
def Env.replayed (e : Env) : Replay := e.st.firstReplay
def Env.first (e : Env) : Option Mask := match e.path.part with
  | some t => t.first
  | none => some e.all
/-- The operation of the same instruction's lanes that have issued before (R132). -/
def Env.own (e : Env) : Option Nat := if e.replay then e.replayed.op else e.path.part.bind (·.op)

/-- Change the head of a stand's replay records. -/
def Stand.modRecord (st : Stand) (f : Replay → Replay) : Stand :=
  { st with replays := match st.replays with
      | r :: rs => f r :: rs
      | [] => [] }

/-- The path, or the replay record, waits: it is not ready until something changes (R20). Only a path that waits for the vacate check is in
the list of stalled charges (R152). -/
def Env.wait (e : Env) (s : State) (w : Wait) : Out? :=
  let s1 := if w = .vacate then s else s.modSlot e.core e.st.ctx (unstall e.key e.idx)
  .next (s1.modStand e.key fun st =>
    if e.replay then st.modRecord fun r => { r with wait := some w }
    else st.modPath e.idx fun p => { p with wait := some w })

/-- What is left of a region when an instruction issues at `pc`: it ends where that lies outside (R258). -/
def regionAt (pc : BitVec 17) (r : Option Region) : Option Region := r.filter fun r => decide (r.ientry ≤ pc.toNat ∧ pc.toNat < r.iend)
/-- An instruction issues: it ends a region it lies outside of (R258). -/
def Env.leave (e : Env) (s : State) : State :=
  if e.replay then s else s.modStand e.key fun st => { st with region := regionAt e.pc st.region }

/-- An instruction has committed: it counts once outside the handler (R221), it ends a region it lies outside of (R258),
and nothing of it is left to do. A replay record that has issued is gone (R379); its instruction counted when it first issued, but where the image counts
it no more. -/
def Env.done (e : Env) (s : State) : State :=
  s.modStand e.key fun st =>
    if e.replay then { st with replays := st.replays.drop 1, retcnt := if e.replayed.counts then st.retcnt + 1 else st.retcnt }
    else
      let t := st.modPath e.idx fun p => { p with part := none, parked := none }
      { t with
        retcnt := if st.inHandler.isNone then st.retcnt + 1 else st.retcnt,
        lastRet := s.cycOf e.core,
        region := regionAt e.pc st.region }

/-- Commit and go on at the next word, or the word after a literal (R36). -/
def Env.commit (e : Env) (s : State) : Out? :=
  .next (e.done (if e.replay then s
    else s.modStand e.key fun st => st.modPath e.idx fun p => { p with pc := e.pc + BitVec.ofNat 17 e.ins.words }))

/-- Commit at the PC that the instruction has set. -/
def Env.commitAt (e : Env) (s : State) : Out? := .next (e.done s)

/-- Put a stand back whose overflow area an instruction may have changed, and commit at the PC it has set: the core writes the slots as data,
and an uncorrectable error in one that it reads halts the context (R14). -/
def Env.moved (e : Env) (s : State) (st : Stand) : Out? :=
  let s1 := s.setStand e.key st
  let bad := (upFrom 0 32).find? fun i =>
    e.st.overSlot i != {} && e.st.overSlot i != st.overSlot i && s.poisonedAt (.mem (s.overPlace e.key i))
  match bad with
  | some i => .next (s.fatal (dieOfCore e.core) (s.mcheckOf e.key 0x21 (field e.idx 17 + e.pc.toNat) (dw (s.overPlace e.key i))))
  | none => e.commitAt (s1.keepOver e.key e.st.ovf)

/-! ### Completion of outstanding operations -/

/-- An operation that carried an acquire has performed: no later read takes an older copy (R172, R173). -/
def State.afterAcquire (s : State) (o : Out) : State :=
  match o.acq with
  | some sc => s.acquireCore (coreOf o.st) sc
  | none => s

/-- An operation has completed: it leaves its counter with the flags it has gathered, its charge is released, and its acquire acts
(R48, R145, R173, R347). -/
def State.complete (s : State) (op : Nat) (o : Out) : State :=
  ((((s.releaseFixed o).uncount o).modOwner o fun st => { st with flags := st.flags ||| o.fl }).dropOut op).afterAcquire o

/-- An operation of which every lane that has issued is done. -/
def Work.emptied : Work → Work
  | .load _ c => .load [] c
  | .tagget _ => .tagget []
  | .store _ sc => .store [] sc
  | .atomic _ et rm x y _ p f => .atomic [] et rm x y [] p f
  | w => w

/-- An operation that waits only for lanes of its instruction which are parked, or which a later operation carries, completes when
there are none (R132, R346). -/
def State.settleLead (s : State) (op : Nat) : State :=
  match SMap.get? s.outs op with
  | some o => if o.work.idle && !o.more && !(s.outs.any fun kv => kv.2.lead == some op) then s.complete op o else s
  | none => s

/-- The lanes of an operation are done. It completes; where lanes of its instruction are parked it stays counted, and where it carries
later lanes of one the instruction's first operation completes with it (R48, R132, R346). -/
def State.finish (s : State) (op : Nat) (o : Out) : State :=
  match o.lead with
  | some l =>
    let s1 := (s.dropOut op).afterAcquire o
    (match SMap.get? s1.outs l with
    | some x => s1.setOut l { x with fl := x.fl ||| o.fl, lanes := x.lanes ||| o.lanes }
    | none => s1).settleLead l
  | none => if o.more || s.outs.any fun kv => kv.2.lead == some op then s.setOut op { o with work := o.work.emptied } else s.complete op o

/-- No parked lanes follow an operation any more (R132); `commits` tells whether its instruction does. -/
def State.closeLead (s : State) (commits : Bool) : Option Nat → State
  | none => s
  | some op => match SMap.get? s.outs op with
    | some o => (s.setOut op { o with more := false, counted := o.counted && commits }).settleLead op
    | none => s

/-- The operation to which what is parked, or issues again, on an entry belongs. -/
def Path.lead (p : Path) : Option Nat := match p.parked with
  | some k => k.op
  | none => p.part.bind (·.op)

/-! ### Traps -/

/-- Whether the instruction at issue is what is left of one: a check of R131 that fails then names every lane that is left (R132, R254). -/
def Env.again (e : Env) : Bool := !e.replay && e.path.part.isSome
/-- Whether lanes of it have performed before: PART of a trap (R254, R379). -/
def Env.partDone (e : Env) : Bool := if e.replay then e.replayed.part else e.path.part.isSome

/-- What a trap records (R254, R255). -/
structure TrapRec where
  cause : Nat
  tval  : DWord
  tmask : Mask
  info  : Nat := 0
  part  : Bool := false
  imprec : Bool := false

/-- `tcause` of a trap (R255). -/
def TrapRec.tcause (t : TrapRec) (mode : Word) (rpl : Bool) : DWord :=
  dw (field mode.toNat 32 + field (t.info % 256) 16 + field (b2n rpl) 10 + field (b2n t.part) 9 + field (b2n t.imprec) 8 + t.cause)

/-- An address a signed number of words from a header (R76). -/
def wordsFrom (addr : DWord) (off : Nat) : DWord := addr + 4 * (BitVec.ofNat 32 off).signExtend 64

/-- The handler's word offset from the kernel header (R256). -/
def Kernel.handlerPc (k : Kernel) : BitVec 17 := BitVec.ofNat 17 k.trapoff

/-- What a path had left to do when it takes the trap of a replayed operation (R379). -/
def Path.left (p : Path) : Option Part := match p.parked with
  | some k => if k.fetch then p.part else some { lanes := k.lanes, exact := true, first := k.first, op := k.op, ins := k.ins }
  | none => p.part

/-- Deliver a trap to the handler: the saved registers, and the path at the handler (R256, R379). `oppc` is the PC of the
instruction that traps; for a replayed operation `tepc` holds the path's own PC, and what is left of its own instruction is kept. -/
def State.enterHandler (s : State) (key idx : Nat) (oppc : BitVec 17) (rpl : Bool) (t : TrapRec) : State :=
  let st := s.stand key
  let p := st.path idx
  let tepc := if rpl then p.pc else oppc
  let st1 := st.setPath idx { p with pc := (s.kernelOf st).handlerPc, part := none, parked := none, wait := none, flush := none, pub := none, filling := false }
  let lead := if rpl then (st.replays.head?).bind (·.op) else p.lead
  let s1 := (s.modSlot (coreOf key) st.ctx (unstall key idx)).setStand key
    { st1 with
      tcause := t.tcause st.mode rpl,
      tepc := dw (field idx 17 + tepc.toNat),
      tval := t.tval,
      tmask := dw ((if rpl then field oppc.toNat 32 else 0) + t.tmask.toNat),
      inHandler := some idx,
      deferred := rpl,
      kept := if rpl then p.left else none,
      recount := rpl && st.firstReplay.counts,
      replays := if rpl then st.replays.drop 1 else st.replays }
  (s1.closeLead false lead).traceRec key idx Tr.trap (natLe t.cause 1 ++ natLe 0 5 ++ natLe (field idx 17 + tepc.toNat) 8)

/-- Take a trap (R256): a stand in its handler gives a fatal machine check (double trap), a cause that is not enabled or a
kernel without a handler a fatal machine check of that kind; otherwise the handler runs. A hopeless charge sets
`vxstat.HOPELESS` (R153). A record that traps while the handler serves an earlier one waits for that handler's ERET: it is taken before the path
resumes (R379; log entry 23). -/
def State.takeTrap (s : State) (key idx : Nat) (oppc : BitVec 17) (rpl : Bool) (t : TrapRec) : State :=
  let st := s.stand key
  let k := s.kernelOf st
  let d := dieOfCore (coreOf key)
  let tepc := field idx 17 + (if rpl then (st.path idx).pc else oppc).toNat
  let s := if t.cause = Cause.vxexceed ∧ t.tval.getLsbD 19 then s.modStand key fun x => { x with hopeless := true } else s
  if rpl && st.deferred then s.modStand key fun x => x.modRecord fun r => { r with wait := some .operand }
  else if st.inHandler.isSome then s.fatal d (s.mcheckOf key 0x20 tepc t.tval)
  else if k.trapoff = 0 ∨ (!k.trapen.getLsbD t.cause && t.cause != Cause.pagefault) = true then s.fatal d (s.mcheckOf key t.cause tepc t.tval)
  else s.enterHandler key idx oppc rpl t

/-- SLD and SST act whatever `em` holds, and every trap of theirs names `em` (R357, R367). -/
def scalarAccess : Instr → Bool
  | .sld .. | .sst .. => true
  | _ => false

/-- Raise a trap of the instruction at issue, for lanes `m`; of what is left of an instruction, for all its lanes. -/
def Env.trapFor (e : Env) (s : State) (cause : Nat) (tval : DWord) (m : Mask) : Out? :=
  let m := if scalarAccess e.ins then e.em else if e.replay || e.again then e.act else m
  .next ((e.leave s).takeTrap e.key e.idx e.pc e.replay { cause := cause, tval := tval, tmask := m, part := e.partDone })

/-- Raise a trap with the mask that R254 gives a cause without lanes of its own: `em` ∧ G for ILLEGAL, ILLMODE and SOFT,
`em` for the others. -/
def Env.raise (e : Env) (s : State) (cause : Nat) (tval : DWord) : Out? :=
  e.trapFor s cause tval (if cause = Cause.illegal ∨ cause = Cause.illmode ∨ cause = Cause.soft then e.em &&& e.g else e.em)

/-- ILLEGAL with the word (and literal) in `tval` (R59); ILLMODE with `mode` (R45). -/
def Env.illegal (e : Env) (s : State) : Out? := e.raise s Cause.illegal e.ins.tvalWord
def Env.illmode (e : Env) (s : State) : Out? := e.raise s Cause.illmode (dw e.st.mode.toNat)

/-- The return from a trap (R258): `mode` and the path go back, the siblings are no longer held; the instruction at `tepc`
issues once for `em` ∧ `tmask` where PART is set; a replayed operation issues again where RPL is set. A saved mode that
MODE would refuse is a double trap. -/
def Env.eret (e : Env) (s : State) : State :=
  let st := e.st
  if st.inHandler.isNone then (e.leave s).takeTrap e.key e.idx e.pc e.replay { cause := Cause.illegal, tval := e.ins.tvalWord, tmask := e.em &&& e.g }
  else if !modeOk (DWord.bits st.tcause 63 32) then
    (e.leave s).fatal (dieOfCore e.core) (s.mcheckOf e.key 0x20 (field e.idx 17 + e.pc.toNat) e.ins.tvalWord)
  else
    let rpl := st.tcause.getLsbD 10
    let m : Mask := st.tmask.setWidth 32
    let part : Option Part := if rpl then st.kept else if st.tcause.getLsbD 9 then some { lanes := m, exact := false } else none
    let st1 := st.modPath e.idx fun p => { p with pc := BitVec.ofNat 17 st.tepc.toNat, part := part, parked := none }
    (e.done s).setStand e.key
      { st1 with
        mode := BitVec.ofNat 32 (DWord.bits st.tcause 63 32),
        inHandler := none,
        lastRet := s.cycOf e.core,
        region := regionAt e.pc st.region,
        deferred := false, kept := none, recount := false,
        replays := if rpl then
            { pc := BitVec.ofNat 17 (DWord.bits st.tmask 48 32), path := e.idx, lanes := m, counts := st.recount } :: st.replays
          else st.replays }

/-! ### Pending operands (R20, R41, R262) -/

/-- The lanes of vector register `n` that an instruction reads or writes: its active lanes, but the lane that V2S
names, and every lane for a source that is read across lanes (R344, R361). -/
def laneUse (e : Env) (n : Nat) (src : Bool) : Mask :=
  match e.ins with
  | .v2s _ _ _ lane => if src then BitVec.ofNat 32 (2 ^ lane.toNat) else 0
  | .lbcs _ _ a _ => if src && a.toNat == n then ~~~0 else e.act
  | .lshf _ _ a _ => if src && a.toNat == n then ~~~0 else e.act
  | .xchg _ _ a _ => if src && a.toNat == n then ~~~0 else e.act
  | _ => e.act

/-- The registers an outstanding operation will still write. -/
def Out.pendingDsts (o : Out) : List Reg :=
  match o.work with
  | .store .. | .discard .. | .pref | .copy .. | .old .. | .ald .. | .mma .. | .tile .. | .rflush .. | .cbld .. | .ptld .. => []
  | _ => (roles o.ins).dsts

/-- Whether register `r` of the instruction meets register `q` of an operation that covers lanes `ls`. -/
def meets (e : Env) (src : Bool) (r : Reg) (q : Reg) (ls : Mask) : Bool :=
  r.real && r == q && (match r with
    | .v n => decide (laneUse e n src &&& ls ≠ 0)
    | _ => true)

/-- Whether an instruction writes `mode` or `scloff`, which a class 1 operation reads (R262); ERET gives `mode` back as a record that waits for it
has read it. -/
def writesMode : Instr → Bool
  | .mode .. => true
  | .csrw _ _ n => n == 0x070
  | _ => false

/-- Vacate class REPLAY (R146): the operation may issue again, and then reads its operands again. -/
def replayable : Instr → Bool
  | .ld .. | .sld .. | .tagget .. | .cpin .. | .cpout .. | .old .. | .ald .. | .cbld .. | .ptld .. => true
  | _ => false

/-- The registers an instruction reads: its operands, and the guard predicate of a guarded one (R44). -/
def Env.sources (e : Env) : List Reg :=
  let r := roles e.ins
  if r.guarded && decide (modeGp e.st.mode ≠ 0) then .p (modeGp e.st.mode) :: r.srcs else r.srcs

/-- Whether the instruction reads or writes what an operation of `j` will write, the registers `dsts` in the lanes `m`; or writes what it would read
again, where `again` says that it may issue again (R262). -/
def Env.crosses (e : Env) (j : Instr) (dsts : List Reg) (m : Mask) (again : Bool) : Bool :=
  let r := roles e.ins
  dsts.any (fun q => e.sources.any (fun x => meets e true x q m) || r.dsts.any (fun x => meets e false x q m))
    || (again && ((roles j).srcs.any (fun q => r.dsts.any fun x => meets e false x q (~~~0)) || writesMode e.ins))

/-- The lanes of an operation's instruction that are parked, or issue again next (R132). -/
def State.parkedOf (s : State) (op : Nat) (o : Out) : Mask :=
  let lead := some (o.lead.getD op)
  let st := s.stand o.st
  if o.rpl then (match st.replays.head? with
    | some r => if r.op = lead then r.lanes else 0
    | none => 0)
  else st.paths.foldl (fun m kv => match kv.2.left with
    | some t => if t.op = lead then m ||| t.lanes else m
    | none => m) 0

/-- Whether the instruction of a path crosses one of its stand that no operation shows: one that waits as a replay record (R262), or one that has parked,
or was parked in an image, of which nothing has issued (R20). -/
def Env.waitsFor (e : Env) : Bool :=
  let rest := fun (i : Nat) => if i = e.idx then none else (e.st.path i).left
  !e.replay &&
    ((e.st.replays.any fun r => r.ins.any fun j => e.crosses j (roles j).dsts r.lanes true)
      || pathIdx.any fun i => (rest i).any fun t => t.op.isNone && t.ins.any fun j => e.crosses j (roles j).dsts t.lanes (replayable j))

/-- Whether an operand of the instruction is pending: a source, the guard or a destination that an operation still has to write, or a
destination that a class 1 operation has read and would read again after a halt (R262). What is left of an
instruction does not wait for its own earlier lanes. -/
def State.operandPending (s : State) (e : Env) : Bool :=
  ((s.outsOf e.st.uid).any fun kv =>
    let o := kv.2
    decide (some kv.1 ≠ e.own ∧ (o.lead = none ∨ o.lead ≠ e.own)) &&
    (e.crosses o.ins o.pendingDsts (o.lanes ||| s.parkedOf kv.1 o) (o.cls == Cls.replay)
      || (o.cls == Cls.replay && (match e.ins with
        | .eret .. => true
        | _ => false))))
  || e.waitsFor

/-! ### REMOTEDOWN (R271) -/

/-- What of a failed operation's destination lies in the units: the accumulator that an ALD writes, the slot that a fill writes. -/
def Armed.units (a : Armed) : List Reg :=
  (match a.ins with
  | .ald _ d _ _ => [.a d.toNat]
  | _ => []) ++ (a.slot.map Reg.o).toList

/-- A write or a copy, as far as one follows a publication (R179). -/
def writesOrCopies : Instr → Bool
  | .st .. | .sst .. | .aadd .. | .amin .. | .amax .. | .aand .. | .aor .. | .axor .. | .axch .. | .acas .. | .tagset .. | .discard .. | .tacc ..
  | .ast .. | .cpin .. | .cpout .. => true
  | _ => false

/-- Whether the instruction consumes a failed operation: it reads the destination, or waits for it; for a publication
(no destination: a PHASE) it is the stand's next write or copy (log entry 66). -/
def consumes (e : Env) (a : Armed) : Bool :=
  let reads := (e.sources.any fun r => r.real && (roles a.ins).dsts.contains r) || ((roles e.ins).units.any fun r => a.units.contains r)
  match a.ins, e.ins with
  | .phase .., i => writesOrCopies i
  | _, .wait .. => true
  | _, .phase .. => true
  | _, .ptst .. => true
  | _, .ptld .. => true
  | .tacc .., .rflush .. => true
  | _, .exit .. => decide (e.em = e.path.mask) && e.st.alone e.idx
  | _, _ => reads

/-- Raise the REMOTEDOWN of a failed operation at the instruction that consumes it: INFO holds its vacate class. -/
def Env.raiseDown (e : Env) (s : State) (a : Armed) : Out? :=
  .next ((e.leave (s.setStand e.key { e.st with armed := e.st.armed.erase a })).takeTrap e.key e.idx e.pc e.replay
    { cause := Cause.remotedown, tval := a.va, tmask := a.lanes, info := a.cls })

/-- What deterministic mode refuses by name: every operation that performs at a home or at system scope (R61). -/
def detRefused : Instr → Bool
  | .aadd .. | .amin .. | .amax .. | .aand .. | .aor .. | .axor .. | .axch .. | .acas .. | .tacc .. | .ast .. | .discard .. | .ptst .. | .ptld ..
  | .rflush .. | .xchg .. | .gcrt .. | .gjoin .. | .gleave .. | .gbar .. | .gvote .. | .gred .. | .ginfo .. | .gdel .. | .qenq .. | .qdeq ..
  | .qsteal .. | .tdone .. | .tfull .. | .tempty .. | .tstat .. | .chapp .. | .chadv .. | .chseq .. => true
  | _ => false

/-- `tval` of such a PROT: the scalar address that the instruction names, the lowest active lane's address of an atomic, else 0 (log
entry 13). -/
def Env.detAddr (e : Env) : DWord :=
  let lane := fun (a : VReg) => match e.lanes.head? with
    | some l => e.pair a l
    | none => 0
  match e.ins with
  | .aadd _ _ a _ | .amin _ _ a _ | .amax _ _ a _ | .aand _ _ a _ | .aor _ _ a _ | .axor _ _ a _ | .axch _ _ a _ | .acas _ _ a _ => lane a
  | .tacc _ _ a _ | .ast _ _ a _ | .discard _ a _ | .ptst _ _ a | .ptld _ a | .gcrt _ _ a _ | .tdone _ _ a | .tfull _ _ a | .tempty _ _ a
  | .tstat _ _ a => e.s a
  | _ => 0
/-- Its lanes: those of an atomic, else `em`. -/
def Env.detLanes (e : Env) : Mask := if (roles e.ins).guarded then e.act else e.em

/-- The checks before any instruction's own meaning: the counts of the kernel header (R41), a failed remote operation that it
consumes (R271), what deterministic mode refuses by name (R61), and operands that are pending (R20). The spec gives the first and the
last their place, and the other two none (log entry 13). -/
def gate (i : Instr) (s : State) (k : Env → State → Out?) : Out? :=
  let e := s.env i
  if !declaredOk e.ker i then e.illegal s
  else match e.st.armed.find? (consumes e) with
    | some a => e.raiseDown s a
    | none =>
      if (s.core e.core).det && detRefused i then e.trapFor s Cause.prot e.detAddr e.detLanes
      else if s.operandPending e then e.wait s .operand
      else k e s

/-- What the plain instructions answer: the stand after them, or a trap. -/
inductive Act where
  | ok (st : Stand)
  | trap (cause : Nat) (tval : DWord)

/-- An instruction that reads and writes its stand alone: the gate, then `f`, then the next word. -/
def plain (i : Instr) (s : State) (f : Env → Act) : Out? :=
  gate i s fun e s => match f e with
    | .ok st => e.commit (s.setStand e.key st)
    | .trap c v => e.raise s c v

/-! ### Charges and outstanding operations -/

/-- Depth of a counter on a core (R50, R60, R61). -/
def depthOf (c : Core) : Ctr → Nat
  | .none => 1000000
  | .loads => if c.det then Config.detDepth else Config.loadsDepth
  | .stores => if c.det then Config.detDepth else Config.storesDepth
  | .copies => if c.det then Config.detDepthSmall else Config.copiesDepth
  | .tiles => if c.det then Config.detDepthSmall else Config.tilesDepth
  | .detached => Config.detachedDepth

/-- Whether one more operation would raise a counter above its depth (R49, R50). -/
def Env.full (e : Env) (s : State) (c : Ctr) : Bool := decide (depthOf (s.core e.core) c ≤ e.st.count c)

/-- Check and take a charge, then go on with what of it is drawn (R151, R152, R155). -/
def Env.charge (e : Env) (s : State) (cls fixed b : Nat) (k : State → Nat → Out?) : Out? :=
  match chargeAns s e.key e.idx cls fixed b with
  | .ok drawn => k (s.takeCharge e.key e.idx fixed b drawn) drawn
  | .exceed tval _ => e.raise s Cause.vxexceed tval
  | .stall =>
    let x := s.ctxSlot e.core e.st.ctx
    let total := fixed + x.growVU (s.ctx e.st.ctx).rho b
    e.wait ((s.modSlot e.core e.st.ctx (enstall e.key e.idx (total - min e.st.avail total))).modStand e.key fun st => { st with stalled := true }) .vacate

/-- The outstanding operation of an instruction at issue. -/
def Env.op (e : Env) (s : State) (cls vu drawn grow : Nat) (ctr : Ctr) (lanes : Mask) (work : Work) : Out :=
  { st := e.key, uid := e.st.uid, ctx := e.st.ctx, path := e.idx, pc := e.pc, ins := e.ins, lanes := lanes, mode := e.st.mode, rpl := e.replay, cls := cls, vu := vu, drawn := drawn,
    grow := grow, payer := none, ctr := ctr, cyc := s.cycOf e.core, acq := none, spec := false, remote := none, redirect := none, orphan := false,
    more := false, lead := none, fl := 0,
    counted := if e.replay then e.replayed.counts else e.st.inHandler.isNone, work := work }

/-- An operation becomes outstanding and is counted (R48). -/
def State.issue (s : State) (o : Out) : State :=
  (s.bump.setOut s.nextId o).modStand o.st fun st => st.setCount o.ctr (st.count o.ctr + 1)

/-- Charge, then issue one operation and commit. -/
def Env.issueOp (e : Env) (s : State) (cls vu grow : Nat) (ctr : Ctr) (lanes : Mask) (work : Work) (f : Out → Out := id) : Out? :=
  if e.full s ctr then e.wait s .counter
  else e.charge s cls vu grow fun s drawn => e.commit (s.issue (f (e.op s cls vu drawn grow ctr lanes work)))

/-- The operation that carries what has performed of an instruction which parks: it stays counted (R132, R346). -/
def State.holdOpen (s : State) : Option Nat → State
  | none => s
  | some op => match SMap.get? s.outs op with
    | some o => s.setOut op { o with more := true }
    | none => s

/-- The path, or the replay record, parks at the instruction with the lanes still to do, and system software is told (R132, R379); `op` is
the operation of the instruction, if it has issued as one. A record's PART tells whether lanes of it have performed. -/
def Env.park (e : Env) (s : State) (rest : Mask) (low : DWord) (op : Option Nat) : Out? :=
  .next ((((e.leave s).modSlot e.core e.st.ctx (unstall e.key e.idx)).holdOpen op |>.modStand e.key fun st =>
    if e.replay then st.modRecord fun r => { r with lanes := rest, part := r.part || decide (rest ≠ r.lanes), parked := some (low, false), op := op, ins := some e.ins }
    else st.modPath e.idx fun p => { p with parked := some { lanes := rest, first := e.first, va := low, fetch := false, op := op, ins := some e.ins }, part := none }).tell
    (.pageFault e.st.ctx (s.gsi e.key) low))

end Sys2Proof.Machine
end

