-- ==== Sys2Proof/Machine/Flags.lean ====
section
/-! DEFINITION. What lane instructions write: vectors, predicates and the sticky `flags` (R109, R110), each for active lanes
only (R44, R306). -/

namespace Sys2Proof.Machine

/-- The flags of several results together (R110). -/
def orFlags : List Res → BitVec 4
  | [] => 0
  | r :: rs => r.flags ||| orFlags rs

/-- `flags` collects what an instruction sets; nothing clears it but a CSR write (R110). -/
def Stand.addFlags (st : Stand) (f : BitVec 4) : Stand := { st with flags := st.flags ||| f }

/-- Write a value to each active lane of a vector register. -/
def Env.putV (e : Env) (d : VReg) (f : Nat → Word) : Stand := e.st.setV d.toNat e.lanes f

/-- Write elements of a format to the active lanes of a vector register, filled as R90 gives, and collect their flags. -/
def Env.putRes (e : Env) (d : VReg) (et : Nat) (f : Nat → Res) : Stand :=
  (e.putV d fun l => fillReg et (f l).code).addFlags (orFlags (e.lanes.map f))

/-- Write one bit to each active lane of a predicate; the others keep theirs (R44). -/
def Env.putP (e : Env) (n : Nat) (f : Nat → Bool) : Stand :=
  e.st.setP e.idx n ((e.p n &&& ~~~e.act) ||| (e.act &&& maskWhere f))

/-- `mode.ET` and `mode.RM` at issue. -/
def Env.et (e : Env) : Nat := modeEt e.st.mode
def Env.rm (e : Env) : Nat := modeRm e.st.mode

/-- ILLMODE: `mode.ET` is not one the instruction accepts (R45). -/
def Env.badMode (e : Env) : Act := .trap Cause.illmode (dw e.st.mode.toNat)

/-- A vector instruction that writes each active lane by a rule of its own. -/
def laneOp (i : Instr) (s : State) (d : VReg) (f : Env → Nat → Word) : Out? := plain i s fun e => .ok (e.putV d (f e))

/-- A vector instruction on elements of `mode.ET`, which must be one that `ok` accepts. -/
def elemOp (i : Instr) (s : State) (d : VReg) (ok : Nat → Bool) (f : Env → Nat → Res) : Out? :=
  plain i s fun e => if ok e.et then .ok (e.putRes d e.et (f e)) else e.badMode

end Sys2Proof.Machine
end

