-- ==== Sys2Proof/Machine/Order.lean ====
section
/-! DEFINITION. What orders the accesses of a stand: same-byte program order (R162), publications (R172, R179), acquires
(R173), the range scoreboard of copies (R166), and the combining buffer (R175). -/

namespace Sys2Proof.Machine

/-- Bytes of an element in memory: that of `mode.ET` on a B32 page or in a window, else that of the page's format (R119, R128). -/
def elemBytes (et fmt : Nat) : Nat := if fmt = ET.b32 then max 1 (etBits et / 8) else if fmt = ET.cb2 then 2 else max 1 (etBits fmt / 8)

/-- `n` places from one on. -/
def Place.span (p : Place) (n : Nat) : List Place := (upFrom 0 n).map p.add

/-- The byte that holds the tag of an access's granule (R129; log entry 9). -/
def Place.tag : Place → Place
  | .mem pa => .mem (Config.tagBase + pa / Config.granuleBytes)
  | p => p
/-- Whether a place holds a tag. -/
def Place.isTag : Place → Bool
  | .mem pa => decide (Config.tagBase ≤ pa)
  | .scr _ _ => false

/-- The places a lane of an LD reads: its element and its scale (R101, R345). -/
def loadPlaces (mode : Word) (scloff : Nat) (a : Acc) : List Place :=
  let elem := a.pl.span (elemBytes (modeEt mode) a.fmt)
  match a.pl with
  | .mem pa => if scaledPage a.fmt a.geom then elem ++ [.mem (a.page + scloff + scaleIndex a.fmt a.geom a.lane (pa - a.page))] else elem
  | .scr _ _ => elem

/-- The bytes that an outstanding operation still has to read or write, as far as R162 orders them. Copies are ordered by R182
alone, TACC by R199 alone. -/
def Out.footprint (o : Out) : List Place :=
  match o.work with
  | .load accs scloff => accs.flatMap (loadPlaces o.mode scloff)
  | .sload a => a.pl.span 8
  | .tagget accs => accs.map (·.pl.tag)
  | .store wr _ => wr.map (·.pl)
  | .atomic ws .. => (ws.filter fun w => !w.done).flatMap fun w => w.pl.span 4
  | .cbld pa _ => (Place.mem pa).span 1024
  | .old _ _ src => src
  | .ald rows => rows.flatMap fun r => (Place.mem r).span 128
  | .tile t => if t.ast then t.rows.flatMap fun r => (Place.mem r).span 128 else []
  | .det .sent ask _ => (match o.ins with
    | .tdone .. => (Place.mem ask.pa).span 64
    | _ => [])
  | _ => []

/-- Physical addresses of accesses to memory that passed their checks. -/
def rowPas (accs : List Acc) : List Nat := accs.map fun a => match a.pl with
  | .mem pa => pa
  | .scr _ _ => 0

/-- Whether two lists of places share one. -/
def shares (a b : List Place) : Bool := a.any b.contains

/-- Whether one of these bytes lies in a tile that a DISCARD still has to drop (R136). -/
def Out.drops (o : Out) (ps : List Place) : Bool :=
  match o.work with
  | .discard _ tiles => ps.any fun p => match p with
    | .mem pa => tiles.contains (pa / 4096 * 4096)
    | .scr _ _ => false
  | _ => false

/-- Whether an earlier access of the stand to one of these bytes has not performed yet (R162). -/
def State.earlierAccess (s : State) (uid op : Nat) (ps : List Place) : Bool :=
  (s.outsOf uid).any fun kv => decide (kv.1 < op) && (shares ps kv.2.footprint || kv.2.drops ps)

/-- Whether an earlier access of the stand to a tile has not performed yet (R136, R162). -/
def State.earlierInTile (s : State) (uid op t : Nat) : Bool :=
  (s.outsOf uid).any fun kv => decide (kv.1 < op) && (kv.2.footprint.any (fun p => match p with
    | .mem pa => decide (t ≤ pa ∧ pa < t + 4096)
    | .scr _ _ => false) || kv.2.drops [.mem t])

/-- Whether an address lies in window 0, the stand's own scratchpad, or in window 1, a peer's (R121). -/
def inWindow0 (va : DWord) : Bool := decide (DWord.bits va 63 56 = 0xF0)
def inWindow1 (va : DWord) : Bool := decide (DWord.bits va 63 56 = 0xF1)

/-- Whether an operation still has to access the stand's own scratchpad through window 0: such accesses take their places in one order
that keeps the stand's program order (R165). OLD reads it without an address (R166). -/
def Out.ownScratch (o : Out) : Bool :=
  match o.work with
  | .load accs _ => accs.any fun a => inWindow0 a.va
  | .sload a => inWindow0 a.va
  | .store wr _ => wr.any fun w => inWindow0 w.va
  | .atomic ws .. => ws.any fun w => !w.done && inWindow0 w.va
  | .old .. => true
  | _ => false
/-- Whether it still has to access some scratchpad. -/
def Out.anyScratch (o : Out) : Bool :=
  o.footprint.any fun p => match p with
    | .scr _ _ => true
    | .mem _ => false
/-- Whether it is a store to memory that has not performed: those of a stand perform in program order (R164). -/
def Out.storesMem (o : Out) : Bool :=
  match o.work with
  | .store wr _ => wr.any fun w => match w.pl with
    | .mem _ => true
    | .scr _ _ => false
  | .discard _ tiles => !tiles.isEmpty
  | _ => false

/-- Whether an earlier operation of the stand is one that `f` picks. -/
def State.earlier (s : State) (uid op : Nat) (f : Out → Bool) : Bool := (s.outsOf uid).any fun kv => decide (kv.1 < op) && f kv.2

/-- Whether a publication that the stand started before operation `op` is not complete (R172, R179). -/
def State.pubBefore (s : State) (uid op : Nat) : Bool := s.pubs.any fun p => p.uid == uid && decide (p.id < op)

/-- Whether an operation may perform now: every earlier access to its bytes has; every earlier store of the stand has before a store, and
every earlier access to its scratchpad before one to it; and for a write, or a read that releases, every earlier publication of the
stand is complete (R162, R164, R165, R172, R173). -/
def State.mayPerform (s : State) (op : Nat) (o : Out) (write : Bool) : Bool :=
  !s.earlierAccess o.uid op o.footprint && !(o.storesMem && s.earlier o.uid op Out.storesMem)
    && !(o.ownScratch && s.earlier o.uid op Out.ownScratch) && !((write || modeRel o.mode) && s.pubBefore o.uid op)

/-- Whether an acquire of the stand holds its later accesses back (R173, R219), `own` apart. -/
def State.acqHeld (s : State) (uid : Nat) (own : Option Nat := none) : Bool :=
  (s.outsOf uid).any fun kv => kv.2.acq.isSome && decide (some kv.1 ≠ own)
/-- Whether an acquire-release PHASE holds the stand's later reads back (R172). -/
def State.readHeld (s : State) (uid : Nat) : Bool := s.pubs.any fun p => p.uid == uid && p.reads

/-- Whether every load, store, atomic and TAGSET that the stand issued earlier has returned or performed (R172). An AST is a store
(R312). -/
def State.accessesDone (s : State) (uid : Nat) : Bool :=
  !(s.outsOf uid).any fun kv => match kv.2.work with
    | .load .. | .sload .. | .tagget .. | .store .. | .discard .. | .atomic .. | .cbld .. | .ald .. | .ptld .. => true
    | .tile t => t.ast
    | _ => false

/-- Start a release at scope `sc`: its flushes, and its publication (R172, R199). Scopes 0 and 1 publish nothing. -/
def State.startRelease (s : State) (key sc : Nat) (reads : Bool) : State :=
  if sc ≤ 1 then s
  else
    let (s1, tiles) := s.releaseFlush key sc
    { s1.bump with pubs := s1.pubs ++ [{ id := s1.nextId, uid := (s.stand key).uid, core := coreOf key, scope := sc, reads := reads, tiles := tiles }] }

/-- How an access meets the range scoreboard (R166). -/
inductive Meet where
  | load | store | copyIn | copyOut
  deriving DecidableEq, Repr

/-- Whether a byte of scratchpad is held by a copy in flight (R166). -/
def State.rangeHeld (s : State) (m : Meet) (p : Place) : Bool :=
  match p with
  | .mem _ => false
  | .scr g off => s.outs.any fun kv => match kv.2.work with
    | .copy _ _ (some (g2, lo, hi)) out =>
      g == g2 && decide (lo ≤ off ∧ off ≤ hi) && (match m with
        | .load | .copyOut => !out
        | .store | .copyIn => true)
    | _ => false

/-- The combining-buffer entries for the words of some bytes leave the core (R175). -/
def State.combineFor (s : State) (k : Nat) (ps : List Place) : State :=
  if (s.core k).combine.isEmpty then s
  else s.combineDrain k fun e => shares ps ((Place.mem e.pa).span 4)

/-- Scope of an access's ordering, if it is not relaxed (R173). -/
def orderedScope (mode : Word) : Option Nat := if modeOrd mode = 0 then none else some (modeScope mode)

/-- Whether a TAGSET of the stand has not performed: accesses are checked against the tags it sets (R374). -/
def State.tagsHeld (s : State) (uid : Nat) : Bool :=
  (s.outsOf uid).any fun kv => match kv.2.work with
    | .store wr _ => wr.any (·.pl.isTag)
    | _ => false

/-- The waits before an access of the stand can issue: an acquire before it, or an acquire-release PHASE before a read; a
release waits for the stand's earlier accesses (R172, R173), every access for the tags it is checked against (R374). What is left of
an instruction waits for neither its own acquire nor its release. -/
def Env.accessWait (e : Env) (s : State) (read rel : Bool) : Option Wait :=
  if s.acqHeld e.st.uid e.own then some .publication
  else if s.tagsHeld e.st.uid then some .counter
  else if read && s.readHeld e.st.uid then some .publication
  else if rel && e.own.isNone && !s.accessesDone e.st.uid then some .counter
  else none

/-- The codebook table that a CBLD writes. -/
def tableOf : Instr → Option Nat
  | .cbld _ tab _ => some tab.toNat
  | _ => none

/-- A failed copy that was to write one of these bytes of scratchpad, or a failed CBLD of one of these tables: the instruction that reads them raises its
REMOTEDOWN (R271). -/
def Stand.failedInto (st : Stand) (ps : List Place) (tabs : List Nat) : Option Armed :=
  st.armed.find? fun a => (tableOf a.ins).any tabs.contains || (match a.range with
    | some (g, lo, hi) => ps.any fun p => match p with
      | .scr h off => g == h && decide (lo ≤ off ∧ off ≤ hi)
      | .mem _ => false
    | none => false)
/-- The codebook tables that an access reads: where it converts what it finds on a page of FMT CB2, the one that `mode.CB` names (R345). -/
def Env.tablesRead (e : Env) (converts : Bool) (accs : List Acc) : List Nat :=
  if converts && accs.any fun a => a.fmt == ET.cb2 then [modeCb e.st.mode] else []
/-- Raise it, or go on. -/
def Env.unlessFailed (e : Env) (s : State) (read : Bool) (ps : List Place) (tabs : List Nat) (k : Out?) : Out? :=
  match (if read then e.st.failedInto ps tabs else none) with
  | some a => e.raiseDown s a
  | none => k

/-- Carry an access's ordering into its operation: the release before it starts, unless earlier lanes of the instruction have started it;
the acquire after it holds later accesses (R173). -/
def Env.issueOrdered (e : Env) (s : State) (o : Out) : State :=
  let m := e.st.mode
  let s1 := if modeRel m && e.own.isNone then s.startRelease e.key (modeScope m) false else s
  s1.issue { o with acq := if modeAcq m then some (modeScope m) else none }

end Sys2Proof.Machine
end

