-- ==== Sys2Proof/Machine/Mem.lean ====
section
/-! DEFINITION. Loads, stores, prefetches, PHASE, address conversion, DISCARD and tags: OP 0x47 to 0x4F, 0x5C and 0x5D, as far as
they act at issue (R119, R123, R124, R135, R172, R345–R347, R355, R356, R366, R367, R370–R374). What they do later is in
`EvMem.lean`. -/

namespace Sys2Proof.Machine

/-- How an access is carried out: whether it reads, whether `mode.ORD` orders it, how it meets copies, its charge and the
counter that counts it. -/
structure Plan where
  read    : Bool
  ordered : Bool
  meet    : Meet
  cls     : Nat
  vu      : Nat
  ctr     : Ctr

/-- The address of a lane: scalar base plus signed offset (R345). -/
def Env.addr (e : Env) (b : SReg) (a : VReg) (l : Nat) : DWord := e.s b + (e.v a l).signExtend 64

/-- `tval` of a trap of an access without lanes of its own: where it names hit lanes, those are `em` (R134, R254). -/
def Env.flatTval (e : Env) (cause : Nat) (v : DWord) : DWord :=
  if cause = Cause.watch then dw (DWord.bits v 63 32 * 2 ^ 32 + e.em.toNat) else v

/-- Charge and issue the operation of an access, or of what is left of one: the first operation of an instruction carries its charge and its
count (R48, R132, R346). -/
def Env.issueAccess (e : Env) (s : State) (pl : Plan) (o : Nat → State → Out) (k : State → Nat → Out?) : Out? :=
  let put := fun (s : State) (o : Out) => if pl.ordered then e.issueOrdered s o else s.issue o
  match e.own with
  | some l => let s1 := put s { o 0 s with vu := 0, ctr := .none, lead := some l }; k s1 l
  | none => e.charge s pl.cls pl.vu 0 fun s1 drawn => let s2 := put s1 (o drawn s1); k s2 (s2.nextId - 1)

/-- Issue an access: the checks of R131, the waits, the charge, and the operation for the lanes that perform; the rest parks
(R132). An access by lanes of which none performs yet is charged and counted all the same: that is its first issue (R48, R133, R346). `w` is the width of
a lane's access, `mk` the operation, and `upd` what the instruction changes as it commits. A scalar access traps and parks for all of `em`, and issues
again whole (R367). -/
def Env.access (e : Env) (s : State) (scalar : Bool) (nd : Need) (ask : List (Nat × DWord)) (pl : Plan) (w : Acc → Nat)
    (mk : List Acc → Work) (lanesOf : List Acc → Mask) (upd : List Acc → Stand → Stand) : Out? :=
  match e.accessWait s pl.read (pl.ordered && modeRel e.st.mode) with
  | some why => e.wait s why
  | none => match s.access e.key scalar nd ask with
    | (s1, .trap c v m) => if scalar then e.trapFor s1 c (e.flatTval c v) e.em else e.trapFor s1 c v m
    | (s1, .go accs rest low) =>
      let left := if scalar then e.whole else rest
      if accs.isEmpty && rest != 0 && (scalar || e.own.isSome) then e.park s1 left low e.own
      else if accs.any (fun a => (a.pl.span (w a)).any (s1.rangeHeld pl.meet)) || (e.own.isNone && e.full s1 pl.ctr) then e.wait s1 .counter
      else e.unlessFailed s1 pl.read (accs.flatMap fun a => a.pl.span (w a)) (e.tablesRead pl.ordered accs) (e.issueAccess s1 pl
        (fun drawn s2 => { e.op s2 pl.cls pl.vu drawn 0 pl.ctr (lanesOf accs) (mk accs) with
          mode := if pl.ordered then e.st.mode else 0, remote := s2.remoteOf (accs.map (·.pl)) })
        fun s2 lead =>
          let s3 := s2.modStand e.key (upd accs)
          if rest = 0 then e.commit (s3.closeLead true e.own) else e.park s3 left low (some lead))

/-- The lanes of some accesses. -/
def laneMask (accs : List Acc) : Mask := maskOf (accs.map (·.lane))

/-! ### LD, SLD -/

/-- The pages a load of `mode.ET` accepts (R345). -/
def ldFmtOk (et fmt : Nat) : Bool :=
  et != ET.cb2 && (fmt == ET.b32 || fmt == ET.fp32 || fmt == ET.i32 || fmt == ET.u32 || et != ET.b32)

def ldNeed (et : Nat) : Need :=
  { width := elemBytes et, fixed := false, load := true, store := false, fmtOk := fun f _ => ldFmtOk et f, scaled := true }

/-- LD (R345, R346). -/
def execLd (h : Hdr) (d a : VReg) (b : SReg) (s : State) : Out? :=
  gate (.ld h d a b) s fun e s =>
    if e.et = ET.cb2 then e.trapFor s Cause.format (dw e.st.mode.toNat) (e.em &&& e.g)
    else e.access s false (ldNeed e.et) (e.lanes.map fun l => (l, e.addr b a l))
      ⟨true, true, .load, Cls.replay, Config.chargeReplay, .loads⟩ (fun x => elemBytes e.et x.fmt)
      (fun accs => .load accs e.st.scloff.toNat) laneMask fun _ st => st

/-- What SLD and SST ask of their 8 bytes (R366). -/
def scalNeed (load : Bool) : Need :=
  { width := fun _ => 8, load := load, store := !load,
    fmtOk := fun f _ => f == ET.b32 || f == ET.fp32 || f == ET.i32 || f == ET.u32, win := fun w => w != 2 }

/-- SLD: a halt leaves a record with lane mask 1 (R366, R367). -/
def execSld (h : Hdr) (d a : SReg) (s : State) : Out? :=
  gate (.sld h d a) s fun e s =>
    e.access s true (scalNeed true) [(0, e.s a)] ⟨true, true, .load, Cls.replay, Config.chargeReplay, .loads⟩ (fun _ => 8)
      (fun accs => .sload (accs.headD ⟨0, e.s a, .mem 0, 0, 0, 0, 0⟩)) (fun _ => 1) fun _ st => st

/-! ### ST, SST -/

/-- The pages a store of `mode.ET` accepts (R370). DEDUCED: a scaled page is one to which R101 applies geometry. -/
def stFmtOk (et fmt geom : Nat) : Bool :=
  et != ET.cb2 && (fmt == ET.b32 || (!(fmt == ET.e2m1 || fmt == ET.i4 || fmt == ET.cb2) && !scaledPage fmt geom
    && (fmt == ET.fp32 || fmt == ET.i32 || fmt == ET.u32 || et != ET.b32)))

def stNeed (et : Nat) : Need :=
  { width := elemBytes et, fixed := false, load := false, store := true, fmtOk := stFmtOk et }

/-- The element a lane stores to a page of a format, with the flags of its conversion (R370). -/
def stRes (et rm fmt : Nat) (x : Word) : Res := convert et fmt rm .none (x.toNat % 2 ^ etBits et)

/-- The bytes of a lane's store; a 4-bit element writes its nibble (R370). -/
def stBytes (et rm : Nat) (a : Acc) (x : Word) : List Wr :=
  let c := (stRes et rm a.fmt x).code
  if a.fmt = ET.b32 ∧ etBits et = 4 then
    [if a.lane % 2 = 0 then ⟨a.pl, a.va, BitVec.ofNat 8 (c % 16), 0x0F⟩ else ⟨a.pl, a.va, BitVec.ofNat 8 (c % 16 * 16), 0xF0⟩]
  else (upFrom 0 (elemBytes et a.fmt)).map fun i => ⟨a.pl.add i, a.va, BitVec.ofNat 8 (c / 2 ^ (8 * i)), 0xFF⟩

/-- ST: the flags are set as it commits (R371). -/
def execSt (h : Hdr) (d a : VReg) (b : SReg) (s : State) : Out? :=
  gate (.st h d a b) s fun e s =>
    if e.et = ET.cb2 then e.trapFor s Cause.format (dw e.st.mode.toNat) (e.em &&& e.g)
    else e.access s false (stNeed e.et) (e.lanes.map fun l => (l, e.addr b a l))
      ⟨false, true, .store, Cls.pipe, 0, .stores⟩ (fun x => elemBytes e.et x.fmt)
      (fun accs => .store (accs.flatMap fun x => stBytes e.et e.rm x (e.v d x.lane)) (orderedScope e.st.mode)) laneMask
      fun accs st => st.addFlags (orFlags (accs.map fun x => stRes e.et e.rm x.fmt (e.v d x.lane)))

/-- SST (R366). -/
def execSst (h : Hdr) (d a : SReg) (s : State) : Out? :=
  gate (.sst h d a) s fun e s =>
    e.access s true (scalNeed false) [(0, e.s a)] ⟨false, true, .store, Cls.pipe, 0, .stores⟩ (fun _ => 8)
      (fun accs => .store (accs.flatMap fun x =>
        (upFrom 0 8).map fun i => ⟨x.pl.add i, x.va, BitVec.ofNat 8 ((e.s d).toNat / 2 ^ (8 * i)), 0xFF⟩) (orderedScope e.st.mode))
      (fun _ => e.em) fun _ st => st

/-! ### PREF -/

/-- The lanes of a PREF that name a global address, each with the line that it fetches, if any (R355). -/
def State.prefLines (s : State) (key : Nat) : List (Nat × DWord) → State × List (Nat × Option Nat)
  | [] => (s, [])
  | (l, va) :: rest =>
    if va.toNat / 2 ^ 60 ≠ 0 then s.prefLines key rest
    else
      let c := (s.stand key).ctx
      let (s1, r) := s.translate (coreOf key) c va.toNat
      let (s2, more) := s1.prefLines key rest
      let line := match r with
        | some t => if t.p && s.populated c (t.pa va.toNat) then some (t.pa va.toNat) else none
        | none => none
      (s2, (l, line) :: more)

/-- PREF: the line counts as filled at issue (R355, R356); what holds a read back holds it too. -/
def execPref (h : Hdr) (copse : Bool) (a : VReg) (b : SReg) (s : State) : Out? :=
  gate (.pref h copse a b) s fun e s =>
    let (s1, lines) := s.prefLines e.key (e.lanes.map fun l => (l, e.addr b a l))
    let far := lines.filter fun x => (s.core e.core).det && (s.core e.core).outside x.2
    if !far.isEmpty then
      e.trapFor s1 Cause.prot (e.addr b a ((far.headD (0, none)).1)) (maskOf (far.map (·.1)))
    else match e.accessWait s1 true false with
      | some w => e.wait s1 w
      | none => e.charge s1 Cls.replay Config.chargeReplay 0 fun s2 drawn =>
        let fill := fun (u : State) (pa : Nat) => if copse then u.fillCopse (copseOfCore e.core) pa else u.fillCore e.core pa
        e.commit (((lines.filterMap (·.2)).foldl fill s2).issue (e.op s2 Cls.replay Config.chargeReplay drawn 0 .none e.act .pref))

/-! ### PHASE -/

/-- PHASE: it waits for the stand's earlier accesses, starts the publication, and acquires (R172). -/
def execPhase (h : Hdr) (kind : BitVec 2) (scope : BitVec 3) (s : State) : Out? :=
  gate (.phase h kind scope) s fun e s =>
    if kind = 0 ∨ 6 ≤ scope.toNat then e.illegal s
    else if !s.accessesDone e.st.uid then e.wait s .counter
    else
      let s1 := if kind.getLsbD 1 then s.startRelease e.key scope.toNat (kind.toNat == 3) else s
      e.commit (if kind.getLsbD 0 then s1.acquireCore e.core scope.toNat else s1)

/-! ### Address conversion -/

/-- One lane of ACVT (R123). -/
def acvtLane (toGen : Bool) (w : Nat) (x : DWord) : DWord :=
  if toGen then (if DWord.bits x 63 56 = 0 then dw (field (0xF0 + w) 56 + DWord.bits x 55 0) else ~~~0)
  else if DWord.bits x 63 56 = 0xF0 + w then dw (DWord.bits x 55 0) else ~~~0

/-- ACVT (R123). -/
def execAcvt (h : Hdr) (toGen : Bool) (win : BitVec 2) (d a : VReg) (s : State) : Out? :=
  plain (.acvt h toGen win d a) s fun e =>
    if win.toNat = 3 then .trap Cause.illegal e.ins.tvalWord
    else
      let r := fun (l : Nat) => acvtLane toGen win.toNat (e.pair a l)
      .ok ((e.putV d fun l => lo32 (r l)).setV (d.toNat + 1) e.lanes fun l => lo32 (r l >>> 32))

/-- AWIN (R124). -/
def execAwin (h : Hdr) (d : PReg) (a : VReg) (kind : BitVec 2) (s : State) : Out? :=
  plain (.awin h d a kind) s fun e =>
    .ok (e.putP d.toNat fun l =>
      let x := e.pair a l
      if kind.toNat = 3 then decide (DWord.bits x 63 60 = 0) else decide (DWord.bits x 63 56 = 0xF0 + kind.toNat))

/-! ### DISCARD -/

/-- What DISCARD finds in its range: a trap, or the tiles to drop. -/
inductive Range where
  | trap (cause : Nat) (tval : DWord)
  | tiles (ts : List Nat)

/-- Go through the pages that meet `[va, last)`, in order; invalid 64 KiB are skipped (R14, R135, R208). -/
def State.discardPages (s : State) (key lo last : Nat) : Nat → Nat → State × Range
  | _, 0 => (s, .tiles [])
  | va, fuel + 1 =>
    if last ≤ va then (s, .tiles [])
    else
      let c := (s.stand key).ctx
      match s.translate (coreOf key) c va with
      | (s1, none) => s1.discardPages key lo last (va / 65536 * 65536 + 65536) fuel
      | (s1, some t) =>
        if t.va < lo ∨ last < t.va + t.size then (s1, .trap Cause.misalign (dw t.va))
        else if !t.w || !s1.populated c t.base || s1.inOverflow c t.base t.size then (s1, .trap Cause.prot (dw t.va))
        else match s1.live.find? fun kv => decide (t.base ≤ kv.1 * 64 ∧ kv.1 * 64 < t.base + t.size) with
          | some kv => (s1, .trap Cause.groupline (dw (t.va + (kv.1 * 64 - t.base))))
          | none => match s1.discardPages key lo last (t.va + t.size) fuel with
            | (s2, .tiles ts) => (s2, .tiles ((upFrom 0 (t.size / 4096)).map (fun i => t.base + 4096 * i) ++ ts))
            | r => r

/-- DISCARD (R135, R208): every check is made before any tile is dropped. -/
def execDiscard (h : Hdr) (a b : SReg) (s : State) : Out? :=
  gate (.discard h a b) s fun e s =>
    let x := e.s a
    let n := (e.s b).toNat
    let lo := x.toNat % 2 ^ 56
    if DWord.bits x 63 60 ≠ 0 then e.raise s Cause.prot x
    else if x.toNat % 65536 ≠ 0 ∨ n = 0 ∨ n % 65536 ≠ 0 then e.raise s Cause.misalign x
    else match s.watchHit e.core false true lo n with
    | some _ => e.raise s Cause.watch x
    | none => match e.accessWait s false false with
      | some w => e.wait s w
      | none => match s.discardPages e.key lo (lo + n) lo (n / 65536) with
        | (s1, .trap c v) => e.raise s1 c v
        | (s1, .tiles ts) =>
          if e.full s1 .stores then e.wait s1 .counter
          else e.commit (s1.issue { e.op s1 Cls.pipe 0 0 0 .stores e.em (.discard x ts) with mode := 0, remote := s1.remoteOf (ts.map .mem) })

/-! ### Tags -/

/-- What the tag instructions ask: TE on a global page (R373). -/
def tagNeed (load : Bool) : Need :=
  { width := fun _ => 1, load := load, store := !load, fmtOk := fun _ _ => true, win := fun _ => false, tag := true }

/-- TAGSET (R373). -/
def execTagset (h : Hdr) (a b : VReg) (s : State) : Out? :=
  gate (.tagset h a b) s fun e s =>
    e.access s false (tagNeed false) (e.lanes.map fun l => (l, e.pair a l)) ⟨false, false, .store, Cls.pipe, 0, .stores⟩ (fun _ => 1)
      (fun accs => .store (accs.map fun x => ⟨x.pl.tag, x.va, BitVec.ofNat 8 ((e.v b x.lane).toNat % 16), 0xFF⟩) none) laneMask
      fun _ st => st

/-- TAGGET (R373). -/
def execTagget (h : Hdr) (d a : VReg) (s : State) : Out? :=
  gate (.tagget h d a) s fun e s =>
    e.access s false (tagNeed true) (e.lanes.map fun l => (l, e.pair a l))
      ⟨true, false, .load, Cls.replay, Config.chargeReplay, .loads⟩ (fun _ => 1) (fun accs => .tagget accs) laneMask fun _ st => st

end Sys2Proof.Machine
end

