-- ==== Sys2Proof/Machine/Atomic.lean ====
section
/-! DEFINITION. The atomics at issue: OP 0x50 to 0x57 (R307, R308, R310). What they do at the home and at the reply is in
`EvMem.lean`. -/

namespace Sys2Proof.Machine

/-- The ETs that an atomic accepts (R307). -/
def atomicEtOk (i : Instr) (et : Nat) : Bool :=
  match i with
  | .aadd .. | .amin .. | .amax .. => et == ET.fp32 || et == ET.i32 || et == ET.u32
  | .aand .. | .aor .. | .axor .. => et == ET.b32 || et == ET.i32 || et == ET.u32
  | _ => et == ET.b32 || et == ET.fp32 || et == ET.i32 || et == ET.u32

/-- The page formats that an atomic accepts under an ET (R307). -/
def atomicFmtOk (i : Instr) (et fmt : Nat) : Bool :=
  match i with
  | .aadd .. | .amin .. | .amax .. =>
    fmt == ET.b32 || (if et = ET.fp32 then fmt == ET.fp32 else fmt == ET.i32 || fmt == ET.u32)
  | _ => fmt == ET.b32 || fmt == ET.fp32 || fmt == ET.i32 || fmt == ET.u32

/-- What an atomic asks of its words (R308, R61). -/
def atomicNeed (i : Instr) (et : Nat) : Need :=
  { width := fun _ => 4, load := true, store := true, fmtOk := fun f _ => atomicFmtOk i et f, win := fun w => w != 2, home := true }

/-- The words that lanes name, each with its lanes in ascending order (R308). -/
def groupWords : List Acc → List AWord
  | [] => []
  | a :: as =>
    let ws := groupWords as
    let own := (ws.find? fun w => w.pl == a.pl).map (·.lanes)
    ⟨a.pl, a.va, a.lane :: own.getD [], false⟩ :: ws.filter fun w => w.pl != a.pl

/-- An atomic: the address pairs, the operand, and whether it returns (R308). -/
def atomicOp (i : Instr) (s : State) (d a b : VReg) : Out? :=
  gate i s fun e s =>
    if !atomicEtOk i e.et then e.illmode s
    else
      let ret := d != 127
      let cls := if ret then Cls.detach else Cls.pipe
      e.access s false (atomicNeed i e.et) (e.lanes.map fun l => (l, e.pair a l))
        ⟨ret, true, .store, cls, if ret then Config.chargeDetach else 0, if ret then .loads else .stores⟩ (fun _ => 4)
        (fun accs =>
          let m := laneMask accs
          let x := fun (r : VReg) => SMap.tabulate 0 (fun l => if m.getLsbD l then e.v r l else 0) 0 32
          .atomic (groupWords accs) e.et e.rm (x b) (match i with
            | .acas .. => x (b + 1)
            | _ => []) [] 0 0)
        laneMask fun _ st => st

/-- AADD (R307, R308). -/
def execAadd (h : Hdr) (d a b : VReg) (s : State) : Out? := atomicOp (.aadd h d a b) s d a b
/-- AMIN (R307, R308). -/
def execAmin (h : Hdr) (d a b : VReg) (s : State) : Out? := atomicOp (.amin h d a b) s d a b
/-- AMAX (R307, R308). -/
def execAmax (h : Hdr) (d a b : VReg) (s : State) : Out? := atomicOp (.amax h d a b) s d a b
/-- AAND (R307, R308). -/
def execAand (h : Hdr) (d a b : VReg) (s : State) : Out? := atomicOp (.aand h d a b) s d a b
/-- AOR (R307, R308). -/
def execAor (h : Hdr) (d a b : VReg) (s : State) : Out? := atomicOp (.aor h d a b) s d a b
/-- AXOR (R307, R308). -/
def execAxor (h : Hdr) (d a b : VReg) (s : State) : Out? := atomicOp (.axor h d a b) s d a b
/-- AXCH (R307, R308). -/
def execAxch (h : Hdr) (d a b : VReg) (s : State) : Out? := atomicOp (.axch h d a b) s d a b
/-- ACAS: compare and swap values in a pair (R307, R308). -/
def execAcas (h : Hdr) (d a b : VReg) (s : State) : Out? := atomicOp (.acas h d a b) s d a b

end Sys2Proof.Machine
end

