-- ==== Sys2Proof/Machine/Copy.lean ====
section
/-! DEFINITION. The streamer and the operand slots at issue: CPIN, CPOUT, KTST, OCLM, OREL and OLD (R120, R166, R182, R222–R225,
R228, R235, R236). What they do later is in `EvEng.lean`. -/

namespace Sys2Proof.Machine

/-! ### Operand slots -/

/-- Elements in a 128-byte row of a format (R224). -/
def rowElems (fmt : Nat) : Nat := if fmt = ET.cb2 then 512 else 1024 / etBits fmt
/-- Elements that share a scale (R101). -/
def blockElems (geom : Nat) : Nat := if geom = 1 then 32 else 16
/-- Whether the elements of a filled slot carry scales (R101, R224). -/
def OpSlot.scaled (x : OpSlot) : Bool := scaledPage x.sfmt x.geom
/-- Scale bytes of one row. -/
def OpSlot.rowScales (x : OpSlot) : Nat := rowElems x.sfmt / blockElems x.geom
/-- Offset from the page base of a row's first scale byte (R224): the stride counts without a sign, so a fill that runs to lower addresses has its
scales beyond the page (DEDUCED; log entry 98). -/
def OpSlot.scaleOff (x : OpSlot) (r : Nat) : Nat := x.sscl + r * x.sstride * rowElems x.sfmt / 128 / blockElems x.geom
/-- Where the scale bytes of a filled slot lie, in the order of the scale store (R223, R224). -/
def OpSlot.scaleSrc (x : OpSlot) : List Nat :=
  if x.scaled then (upFrom 0 x.rows).flatMap fun r => upFrom (x.sppa + x.scaleOff r) x.rowScales else []
/-- The slot with the bytes of its scale store. -/
def OpSlot.withScales (x : OpSlot) (bs : List Byte) : OpSlot := { x with scales := SMap.setMany 0 [] 0 bs }

/-- The physical slot to which a name of a stand is bound (R222). -/
def Stand.boundSlot (st : Stand) (n : Nat) : Option Nat := SMap.get? st.oslots n

/-- Whether a fill of a physical slot that issued before operation `op` is outstanding on a core (R228). -/
def State.fillBefore (s : State) (k p op : Nat) : Bool :=
  s.outs.any fun kv => coreOf kv.2.st == k && decide (kv.1 < op) && (match kv.2.work with
    | .copy _ (some (q, _)) _ _ => q == p
    | .old q _ _ => q == p
    | _ => false)

/-- Number of members, and the `standid` of member `i`, of a `gang` value (R229). -/
def gangN (x : DWord) : Nat := DWord.bits x 50 48
def gangM (x : DWord) (i : Nat) : Nat := x.toNat / 2 ^ (8 * i) % 256
def gangMembers (x : DWord) : List Nat := (upFrom 0 (gangN x)).map (gangM x)

/-- Whether an MMA that issued before operation `op` and reads a physical slot has not started (R228). A lodged MMA of another
stand does not name the leader's slot yet; after the rendezvous every member reads it as the leader's MMA found it, so that fills issued since wait for
all of them. -/
def State.mmaBefore (s : State) (k p op : Nat) : Bool :=
  s.outs.any fun kv => coreOf kv.2.st == k && (match kv.2.work with
    | .mma a b stage _ _ _ => stage != .started && ((decide (kv.1 < op) && (a == p || b == p))
        || (stage == .queued && b == p && decide (1 < gangN (s.stand kv.2.st).gang)))
    | _ => false)

/-- Whether an MMA that is lodged or in the array names a physical slot (R222); an MMA lodged at its leader's latch names the
leader's slot by its own B (R228). -/
def State.mmaNames (s : State) (k p : Nat) (leader : Stand) : Bool :=
  s.outs.any fun kv => coreOf kv.2.st == k && (match kv.2.work, kv.2.ins with
    | .mma a b stage _ _ _, .mma _ _ _ n =>
      a == p || b == p || (stage == .lodged && (s.stand kv.2.st).grove == leader.grove
        && (s.stand kv.2.st).gang.toNat % 256 == leader.standid && leader.boundSlot n.toNat == some p)
    | _, _ => false)

/-- OCLM (R147, R222). -/
def execOclm (h : Hdr) (d : OReg) (s : State) : Out? :=
  gate (.oclm h d) s fun e s =>
    if (e.st.boundSlot d.toNat).isSome then e.commit s
    else match SMap.lowestFree (s.core e.core).oslots 0 Config.slotsPerCore with
      | none => e.wait s .slot
      | some p => e.charge s Cls.grow 0 slotBytes fun s1 drawn =>
        let s2 := s1.growResident (e.op s1 Cls.grow 0 drawn slotBytes .none 0 .pref)
        let s3 := s2.modCore e.core fun c => { c with oslots := SMap.insert c.oslots p {} }
        e.commit (s3.modStand e.key fun st => { st with oslots := SMap.insert st.oslots d.toNat p })

/-- OREL (R222). -/
def execOrel (h : Hdr) (d : OReg) (s : State) : Out? :=
  gate (.orel h d) s fun e s =>
    match e.st.boundSlot d.toNat with
    | none => e.commit s
    | some p =>
      if s.fillBefore e.core p s.nextId || s.mmaNames e.core p e.st then e.wait s .slot
      else
        let s1 := s.modCore e.core fun c => { c with oslots := SMap.erase c.oslots p }
        let s2 := s1.modStand e.key fun st => { st with oslots := SMap.erase st.oslots d.toNat }
        e.commit (s2.shrink e.core e.st.ctx slotBytes)

/-- The formats that OLD accepts (R225). -/
def oldEtOk (et : Nat) : Bool :=
  et == ET.fp16 || et == ET.bf16 || et == ET.e4m3 || et == ET.e5m2 || et == ET.e2m1 || et == ET.i8 || et == ET.i4 || et == ET.cb2

/-- OLD (R224, R225). -/
def execOld (h : Hdr) (d : OReg) (a : SReg) (rows : BitVec 7) (s : State) : Out? :=
  gate (.old h d a rows) s fun e s =>
    let x := (e.s a).toNat
    let n := rows.toNat
    if n = 0 ∨ 32 < n then e.illegal s
    else match e.st.boundSlot d.toNat with
      | none => e.illegal s
      | some p =>
        if !oldEtOk e.et then e.illmode s
        else if x % 128 ≠ 0 then e.raise s Cause.misalign (e.s a)
        else if e.ker.scratch < x + 128 * n then e.raise s Cause.prot (e.s a)
        else match e.accessWait s true false with
          | some w => e.wait s w
          | none =>
            let src := (Place.scr e.st.grove x).span (128 * n)
            let desc : OpSlot := { sfmt := e.et, geom := 0, table := modeCb e.st.mode, rows := n, sscl := 0, sstride := 128, sppa := 0 }
            if src.any (s.rangeHeld .load) then e.wait s .counter
            else e.unlessFailed s true src [] <| e.issueOp s Cls.replay Config.chargeReplay 0 .copies e.whole (.old p desc src) fun o => { o with mode := 0 }

/-! ### Copies -/

/-- What a copy asks of the words on its global side (R235). -/
def copyNeed (load : Bool) : Need :=
  { width := fun _ => 4, load := load, store := !load, fmtOk := fun _ _ => true, win := fun _ => false }

/-- The addresses of the words of a copy's rows (R235). -/
def copyWords (g t : DWord) (rows bytes : Nat) : List (Nat × DWord) :=
  (upFrom 0 rows).flatMap fun r => (upFrom 0 (bytes / 4)).map fun i => (0, g + dw (r * t.toNat + 4 * i))

/-- The bytes of a copy: global places in the order of `copyWords`, with what lies on the packed side. -/
def copyBytes (accs : List Acc) (near : Place) : List (Place × Place) :=
  ((accs.flatMap fun a => a.pl.span 4).zip (near.span (4 * accs.length)))

/-- Whether every row of a slot fill lies on the page of row 0; a row 0 without a translation faults later (R235). -/
def rowsOnPage (t : Option TlbEntry) (g stride : DWord) (rows : Nat) : Bool :=
  match t with
  | none => true
  | some t => (upFrom 0 rows).all fun r =>
    let n := (g + dw (r * stride.toNat)).toNat
    decide (n / 2 ^ 60 = 0 ∧ t.va ≤ n % 2 ^ 56 ∧ n % 2 ^ 56 + 128 ≤ t.va + t.size)

/-- The descriptor that a CPIN fill from a page leaves (R224). -/
def fillDesc (e : Env) (a : Acc) (t : DWord) (rows : Nat) : OpSlot :=
  let o := match a.pl with
    | .mem pa => pa - a.page
    | .scr _ _ => 0
  { sfmt := a.fmt, geom := a.geom, table := modeCb e.st.mode, rows := rows,
    sscl := if a.geom = 1 ∨ a.geom = 2 then e.st.scloff.toNat + o * rowElems a.fmt / 128 / blockElems a.geom else 0,
    sstride := t.toNat, sppa := a.page }

/-- The first scale address of a fill that lies outside its page, as an address of the program (R101). -/
def fillOutside (a : Acc) (desc : OpSlot) : Option DWord :=
  (desc.scaleSrc.find? fun pa => decide (a.page + a.psz ≤ pa)).map fun pa => a.va + dw (pa - a.page) - dw (match a.pl with
    | .mem x => x - a.page
    | .scr _ _ => 0)

/-- Whether a core in deterministic mode serves no byte of a scale that a fill reads from its page (R61). -/
def Core.fillScaleFar (c : Core) (a : Acc) (desc : OpSlot) : Bool :=
  c.det && desc.scaleSrc.any fun pa => decide (pa < a.page + a.psz) && c.outside (some pa)

/-- A copy whose checks on its operands have passed: the checks of its rows, the waits, the charge, and the operation (R235).
`near` is the first place of the packed side, `fill` the physical slot that it fills. -/
def Env.copy (e : Env) (s : State) (inward : Bool) (k : Tok) (g t : DWord) (rows bytes : Nat) (near : Place) (fill : Option Nat) : Out? :=
  match e.accessWait s inward false with
  | some w => e.wait s w
  | none => match s.access e.key true (copyNeed inward) (copyWords g t rows bytes) with
    | (s1, .trap c v _) => e.trapFor s1 c (e.flatTval c v) e.em
    | (s1, .go accs rest low) =>
      if rest ≠ 0 then e.park s1 e.whole low none
      else
        let a0 := accs.headD ⟨0, g, .mem 0, 0, 0, 0, 0⟩
        let desc := fillDesc e a0 t rows
        let mv := copyBytes accs near
        let range : Option (Nat × Nat × Nat) := match fill, near with
          | none, .scr gid x => some (gid, x, x + rows * bytes - 1)
          | _, _ => none
        let held := fill.isNone && (mv.any fun m => s1.rangeHeld (if inward then .copyIn else .copyOut) m.2)
        if fill.isSome && (s1.core e.core).fillScaleFar a0 desc then e.raise s1 Cause.prot g
        else if accs.any fun a => a.fmt != a0.fmt then e.raise s1 Cause.format g
        else match (if fill.isSome then fillOutside a0 desc else none) with
          | some x => e.raise s1 Cause.format x
          | none =>
            if held || e.full s1 .copies then e.wait s1 .counter
            else e.unlessFailed s1 (!inward) (mv.map (·.2)) [] <| e.charge s1 Cls.replay Config.chargeReplay 0 fun s2 drawn =>
              let mv := if inward then mv else mv.map fun m => (m.2, m.1)
              let o := { e.op s2 Cls.replay Config.chargeReplay drawn 0 .copies e.whole (.copy mv (fill.map fun p => (p, desc)) range (!inward)) with
                mode := BitVec.ofNat 32 (field (modeScope e.st.mode) 13), remote := s2.remoteOf (accs.map (·.pl)) }
              e.commit ((s2.issue o).modStand e.key fun st => { st with tokmask := st.tokmask ||| BitVec.ofNat 8 (2 ^ k.toNat) })

/-- Whether the stream baton exists and the stand lacks it (R232, R235). -/
def State.lacksStream (s : State) (st : Stand) : Bool :=
  match (s.grove st.grove).sbat with
  | none => false
  | some i => i != st.standid

/-- CPIN into scratchpad or into a slot (R224, R235). -/
def execCpin (h : Hdr) (slot : Bool) (k : Tok) (a b : SReg) (rows : BitVec 12) (bytes : BitVec 20) (s : State) : Out? :=
  gate (.cpin h slot k a b rows bytes) s fun e s =>
    let g := e.s a
    let t := e.s (a + 1)
    let x := (e.s b).toNat
    let m := rows.toNat
    let n := bytes.toNat
    let fill := if slot then e.st.boundSlot x else none
    if m = 0 ∨ n = 0 ∨ 62 ≤ a.toNat ∨ (slot && fill.isNone) = true then e.illegal s
    else if s.lacksStream e.st then e.raise s Cause.baton e.ins.tvalWord
    else if DWord.bits g 63 60 ≠ 0 then e.raise s Cause.prot g
    else if g.toNat % 4 ≠ 0 ∨ t.toNat % 4 ≠ 0 ∨ n % 4 ≠ 0 ∨ (!slot && decide (x % 4 ≠ 0)) = true then e.raise s Cause.misalign g
    else if slot then
      let (s1, page) := s.translate e.core e.st.ctx g.toNat
      if 32 < m ∨ n ≠ 128 ∨ g.toNat % 128 ≠ 0 ∨ t.toNat % 128 ≠ 0 ∨ rowsOnPage page g t m = false then e.raise s1 Cause.misalign g
      else e.copy s1 true k g t m n (.scr 0 0) fill
    else if e.ker.scratch < x + m * n then e.raise s Cause.prot (e.s b)
    else e.copy s true k g t m n (.scr e.st.grove x) none

/-- CPOUT (R235). -/
def execCpout (h : Hdr) (k : Tok) (a b : SReg) (rows : BitVec 12) (bytes : BitVec 20) (s : State) : Out? :=
  gate (.cpout h k a b rows bytes) s fun e s =>
    let g := e.s b
    let t := e.s (b + 1)
    let x := (e.s a).toNat
    let m := rows.toNat
    let n := bytes.toNat
    if m = 0 ∨ n = 0 ∨ 62 ≤ b.toNat then e.illegal s
    else if s.lacksStream e.st then e.raise s Cause.baton e.ins.tvalWord
    else if DWord.bits g 63 60 ≠ 0 then e.raise s Cause.prot g
    else if g.toNat % 4 ≠ 0 ∨ t.toNat % 4 ≠ 0 ∨ n % 4 ≠ 0 ∨ x % 4 ≠ 0 then e.raise s Cause.misalign g
    else if t.toNat < n then e.raise s Cause.misalign t
    else if e.ker.scratch < x + m * n then e.raise s Cause.prot (e.s a)
    else e.copy s false k g t m n (.scr e.st.grove x) none

/-- KTST (R236). -/
def execKtst (h : Hdr) (d : PReg) (k : Tok) (s : State) : Out? :=
  plain (.ktst h d k) s fun e => .ok (e.st.setP e.idx d.toNat (if e.st.tokmask.getLsbD k.toNat then 0 else ~~~0))

end Sys2Proof.Machine
end

