-- ==== Sys2Proof/Machine/Csr.lean ====
section
/-! DEFINITION. The CSRs of R322: what a CSRR reads and a CSRW writes (R5, R52, R100, R109, R115, R142, R143, R150, R153, R156,
R202, R229, R231, R255, R321, R323). -/

namespace Sys2Proof.Machine

/-- `accres`: slots in use (R202). -/
def Stand.accres (st : Stand) : Nat := (SMap.keys st.residuals).foldl (fun a i => a + 2 ^ i) 0 + field st.residuals.length 16
/-- `accquo` (R202). -/
def Kernel.accquo (k : Kernel) : Nat := field k.nres 16 + 0x8122

/-- The value of a CSR at issue; none where the number names no CSR (R322). -/
def State.csr (s : State) (e : Env) (n : Nat) : Option Nat :=
  let st := e.st
  let c := s.ctx st.ctx
  let g := s.grove st.grove
  let l := s.launchOf st
  match n with
  | 0x000 => some st.mode.toNat
  | 0x001 => some st.flags.toNat
  | 0x010 => some st.standid
  | 0x011 => some (g.g % l.gx)
  | 0x012 => some (g.g / l.gx % l.gy)
  | 0x013 => some (g.g / (l.gx * l.gy))
  | 0x014 => some g.size
  | 0x015 => some (s.workOf e.core)
  | 0x016 => some (copseInDie e.core)
  | 0x017 => some (dieOfCore e.core)
  | 0x018 => some s.devid
  | 0x019 => some st.taskrec.toNat
  | 0x01A => some l.arg.toNat
  | 0x01B => some e.ker.addr.toNat
  | 0x01C => some c.locsz
  | 0x020 => some st.loads
  | 0x021 => some st.stores
  | 0x022 => some st.copies
  | 0x023 => some st.tiles
  | 0x024 => some st.tokmask.toNat
  | 0x030 => some c.vxcbnd
  | 0x031 => some c.vxbnd
  | 0x032 => some (s.vxest e.key)
  | 0x033 => some c.rho
  | 0x034 => some Config.vxcost.toNat
  | 0x035 => some st.vxres
  | 0x036 => some st.vxstat
  | 0x037 => some c.vxctx
  | 0x040 => some st.accref.toNat
  | 0x041 => some st.accres
  | 0x042 => some e.ker.accquo
  | 0x050 => some st.gang.toNat
  | 0x051 => some (s.baton st)
  | 0x070 => some st.scloff.toNat
  | 0x080 => some st.retcnt.toNat
  | 0x081 => some (s.cycOf e.core)
  | 0x100 => some st.tcause.toNat
  | 0x101 => some st.tepc.toNat
  | 0x102 => some st.tval.toNat
  | 0x103 => some st.tmask.toNat
  | 0x104 => some st.tvec.toNat
  | 0x105 => some st.tscratch.toNat
  | 0x200 => some (e.ker.partw.toNat % 2 ^ 21)
  | _ => none

/-- Bits of a dword that a write may change: the others keep the old value. -/
def mergeBits (old new m : DWord) : DWord := (old &&& ~~~m) ||| (new &&& m)

/-- The stand after a CSRW of `x`: RW fields take it, W1C fields are cleared where it has 1, all others keep (R5, R321). -/
def Stand.csrWrite (st : Stand) (n : Nat) (x : DWord) : Stand :=
  match n with
  | 0x001 => { st with flags := x.setWidth 4 }
  | 0x019 => { st with taskrec := x }
  | 0x036 => { st with vxTrap := x.getLsbD 0, stalled := st.stalled && !x.getLsbD 1, hopeless := st.hopeless && !x.getLsbD 2 }
  | 0x040 => { st with accref := lo32 x }
  | 0x070 => { st with scloff := lo32 x }
  | 0x100 => { st with tcause := mergeBits st.tcause x 0xFFFFFFFF00000200#64 }
  | 0x101 => { st with tepc := mergeBits st.tepc x 0x1FFFF#64 }
  | 0x102 => { st with tval := x }
  | 0x103 => { st with tmask := mergeBits st.tmask x 0xFFFFFFFF#64 }
  | 0x105 => { st with tscratch := x }
  | _ => st

/-- CSRR: an undefined number is ILLEGAL (R321). -/
def execCsrr (h : Hdr) (d : SReg) (n : BitVec 14) (s : State) : Out? :=
  gate (.csrr h d n) s fun e s => match s.csr e n.toNat with
    | none => e.illegal s
    | some x => e.commit (s.setStand e.key (e.st.setS d.toNat (dw x)))

/-- CSRW: an undefined number is ILLEGAL (R321). -/
def execCsrw (h : Hdr) (d : SReg) (n : BitVec 14) (s : State) : Out? :=
  gate (.csrw h d n) s fun e s => match s.csr e n.toNat with
    | none => e.illegal s
    | some _ => e.commit (s.setStand e.key (e.st.csrWrite n.toNat (e.s d)))

end Sys2Proof.Machine
end

