-- ==== Sys2Proof/Machine/Stands.lean ====
section
/-! DEFINITION. New stands (R12, R30), where they may sit (R10, R28), and the pool units of a kernel (R115, R116). -/

namespace Sys2Proof.Machine

/-- `tvec` of a stand: the address of the kernel's handler (R76, R256). -/
def Kernel.tvec (k : Kernel) : DWord := wordsFrom k.addr k.trapoff

/-- A new stand of a grove (R30): everything zero, a root path at its entry, `s0` as given. A launched stand takes its gang
from `gangdef`, a spawned one is its own leader (R229). -/
def newStand (uid ctx grove standid : Nat) (k : Kernel) (pc s0 gang now : Nat) : Stand :=
  { uid := uid, ctx := ctx, grove := grove, standid := standid,
    sregs := SMap.set 0 [] 0 (dw s0),
    gang := dw gang,
    tvec := k.tvec,
    paths := [(0, Path.start 0 (BitVec.ofNat 17 pc) (~~~0) now)],
    lastRet := now }

/-- A gang of one, led by the stand itself (R229). -/
def ownGang (standid : Nat) : Nat := field 1 48 + standid

/-- Saved groves, with their contexts, that come back to a core of their own (R268, R272). -/
def State.returning (s : State) (k : Nat) : List (Nat × SavedGrove) :=
  s.ctxs.flatMap fun kv => (kv.2.saved.filter fun g => g.onto == some k).map fun g => (kv.1, g)

/-- Free core-local stand indices of a core, ascending (R28, R31); those of groves that come back are kept for them. -/
def State.freeIdx (s : State) (k : Nat) : List Nat :=
  let kept := (s.returning k).flatMap fun g => g.2.stands.map (·.idx)
  (upFrom 0 64).filter fun i => (SMap.get? s.stands (k * 64 + i)).isNone && !kept.contains i

/-- Fields of `partw` (R115). -/
def Kernel.regu (k : Kernel) : Nat := k.partw.toNat % 128
def Kernel.scru (k : Kernel) : Nat := k.partw.toNat / 128 % 128
def Kernel.accu (k : Kernel) : Nat := k.partw.toNat / 16384 % 128
def Kernel.units (k : Kernel) : Nat := k.regu + k.scru + k.accu

/-- Whether the grove's register and accumulator units hold `n` stands (R31, R116). -/
def Kernel.holds (k : Kernel) (n : Nat) : Bool :=
  decide (n * (128 * k.vregs) ≤ k.regu * Config.unitBytes ∧ n * (4096 * k.nacc + 4160 * k.nres) ≤ k.accu * Config.unitBytes)

/-- The `standid`s of stands of a grove that the debugger has halted: they have not retired (R272). -/
def State.haltedIds (s : State) (g : Nat) : List Nat :=
  s.ctxs.flatMap fun kv => (kv.2.saved.filter fun x => x.id == g).flatMap fun x => x.stands.map (·.standid)

/-- The lowest `standid`s from `grovemax` up that no live stand of the grove holds (R31). -/
def State.freeIds (s : State) (g : Nat) (k : Kernel) : List Nat :=
  let held := (s.standsOfGrove g).map (fun key => (s.stand key).standid) ++ s.haltedIds g
  (upFrom k.grovemax (64 - k.grovemax)).filter fun i => !held.contains i

/-- Before a stand takes core-local index `idx`: the local part there, where a saved stand has not taken it to a new place yet, is kept for
that stand (R122, R263). -/
def State.stashLocal (s : State) (c core idx : Nat) : State :=
  let keep := fun (g : SavedGrove) (x : SavedStand) =>
    if g.grove.core = core ∧ x.idx = idx ∧ x.local_.isNone then
      { x with local_ := some (s.homeBytes ((s.ctx c).localPart (core * 64 + idx)) (32 * (s.ctx c).locsz)) } else x
  s.modCtx c fun y => { y with saved := y.saved.map fun g => { g with stands := g.stands.map (keep g) } }

/-- Put new stands of a grove at core-local indices, each with its `standid` (R30, R31). -/
def State.addStands (s : State) (core ctx grove : Nat) (k : Kernel) (pc s0 : Nat) (gang : Nat → Nat) : List (Nat × Nat) → State
  | [] => s
  | (idx, id) :: rest =>
    let s1 := (s.stashLocal ctx core idx).bump.setStand (core * 64 + idx) (newStand s.nextId ctx grove id k pc s0 (gang id) (s.cycOf core))
    (s1.writeList (core * 64 + idx)).addStands core ctx grove k pc s0 gang rest

end Sys2Proof.Machine
end

