-- ==== Sys2Proof/Machine/Ctrl.lean ====
section
/-! DEFINITION. The control instructions: OP 0x00 to 0x0F (R13–R16, R31, R46, R53, R58, R258, R315–R320, R327, R343, R352, R359,
R368, R377). -/

namespace Sys2Proof.Machine

/-- Whether a PC is one a branch may go to (R315). -/
def pcOk (t : Int) : Bool := decide (16 ≤ t ∧ t < 131072)
/-- A word offset from `pc` (R42). -/
def offPc (pc : BitVec 17) (d : Int) : Int := (pc.toNat : Int) + d

/-- Put a changed stand back and commit at the PC it holds. -/
def Env.jump (e : Env) (s : State) (st : Stand) : Out? := e.commitAt (s.setStand e.key st)
/-- The whole path goes to a PC. -/
def Stand.goto (st : Stand) (i : Nat) (pc : BitVec 17) : Stand := st.modPath i fun p => { p with pc := pc }

/-- ILLEGAL: a word with OP 0 (R58, R59). -/
def execIllegal (word : Word) (s : State) : Out? := gate (.illegal word) s fun e s => e.illegal s

/-- NOP (R352). -/
def execNop (h : Hdr) (s : State) : Out? := plain (.nop h) s fun e => .ok e.st

/-- BRA (R315): a mixed branch that is declared uniform is ILLEGAL. -/
def execBra (h : Hdr) (neg : Bool) (p : PReg) (tgt jn : BitVec 16) (s : State) : Out? :=
  gate (.bra h neg p tgt jn) s fun e s =>
    let t := offPc e.pc tgt.toInt
    let j := offPc e.pc jn.toInt
    let pr := e.p p.toNat
    let taken := e.em &&& (if neg then ~~~pr else pr)
    if !pcOk t || (jn != 0 && !pcOk j) then e.illegal s
    else match e.st.branch e.idx taken (BitVec.ofInt 17 t) (e.pc + 2) (if jn = 0 then none else some (BitVec.ofInt 17 j)) (s.cycOf e.core) with
      | some st => e.moved s st
      | none => e.illegal s

/-- The distinct targets of a BRX in the order of their lowest lanes, each with its lanes (R318). -/
def groupLanes : List (Nat × Nat) → List (Nat × Mask)
  | [] => []
  | (l, t) :: rest =>
    let gs := groupLanes rest
    let own := (gs.find? fun g => g.1 == t).map (·.2)
    (t, BitVec.ofNat 32 (2 ^ l) ||| own.getD 0) :: gs.filter fun g => g.1 != t

/-- What BRX asks of its table: 8-byte aligned dwords on B32 pages, needing P (R317, R318). -/
def brxNeed : Need := { width := fun _ => 8, load := true, store := false, fmtOk := fun f _ => f == ET.b32 }

/-- A target dword as a word offset, if it is a valid address (R317). -/
def Kernel.target (k : Kernel) (a : Nat) : Option Nat :=
  let d := a - k.addr.toNat
  if k.addr.toNat ≤ a ∧ d % 4 = 0 ∧ 16 ≤ d / 4 ∧ d / 4 < 131072 then some (d / 4) else none

/-- A valid table entry, or a fall-through (R317, R318). -/
def brxTargets (k : Kernel) (fall : Nat) (val : Nat → Option Nat) : List Nat → Option (List (Nat × Nat))
  | [] => some []
  | l :: ls =>
    let t := match val l with
      | none => some fall
      | some a => k.target a
    match t, brxTargets k fall val ls with
    | some x, some rest => some ((l, x) :: rest)
    | _, _ => none

/-- Move a path by the groups of a BRX (R318, R319): `none` where the branch is ILLEGAL. -/
def Stand.branchIndexed (st : Stand) (i : Nat) (pc : BitVec 17) (n j : Nat) (gs : List (Nat × Mask)) (now : Nat) : Option Stand :=
  let p := st.path i
  let em := st.em i
  match gs with
  | [] => none
  | (t1, m1) :: rest =>
    let g1 := m1 ||| (p.mask &&& ~~~em)
    let groups := (t1, g1) :: rest
    let k := groups.length
    let l := min n 31
    if k = 1 then some (st.goto i (BitVec.ofNat 17 t1))
    else if j = 0 then none
    else
      let onLadder := p.state == .serialj && decide (j + 1 ≤ p.jt.toNat + l ∧ p.jt.toNat ≤ j)
      if onLadder && decide (p.jt.toNat + l = j + 1) then none
      else
        let jt : BitVec 17 := if onLadder then p.jt - 1 else BitVec.ofNat 17 j
        if !onLadder && p.state == .active && decide (k ≤ st.freePaths.length) then
          some (st.splitFree i jt now (groups.map fun g => (BitVec.ofNat 17 g.1, g.2)))
        else some (st.splitSerial i jt (BitVec.ofNat 17 t1) g1 pc (p.mask &&& ~~~g1))

/-- BRX (R165, R317–R319). The table is read in the issue cycle as relaxed loads of the stand. -/
def execBrx (h : Hdr) (n : BitVec 7) (a : VReg) (b : SReg) (s : State) : Out? :=
  gate (.brx h n a b) s fun e s =>
    if n = 0 then e.illegal s
    else if e.em = 0 then e.commit s
    else
      let base := (e.s b).toNat
      let used := (Mask.toList e.em).filter fun l => decide ((e.v a l).toNat < n.toNat)
      let ask := (32, dw base) :: used.map fun l => (l, dw (base + 8 * (1 + (e.v a l).toNat)))
      match e.accessWait s true false with
      | some w => e.wait s w
      | none =>
        match s.access e.key true brxNeed ask with
        | (s1, .trap c v m) => e.trapFor s1 c v (if m = 0 then e.em else m)
        | (s1, .go accs _ low) =>
          if accs.length ≠ ask.length then e.park s1 e.em low none
          else
            let bytes := accs.flatMap fun x => x.pl.span 8
            if s1.earlierAccess e.st.uid s1.nextId bytes || bytes.any (s1.rangeHeld .load)
                || (accs.any (fun x => inWindow0 x.va) && s1.earlier e.st.uid s1.nextId Out.ownScratch) then e.wait s1 .counter
            else e.unlessFailed s1 true bytes [] <|
              let s2 := s1.combineFor e.core bytes
              match accs.find? fun x => s2.poisonedAt x.pl with
              | some x => e.trapFor s2 Cause.poison x.va e.em
              | none =>
                let s3 := accs.foldl (fun u x => u.readFill e.core none x.pl) s2
                let val := fun (x : Acc) => leNat ((x.pl.span 8).map (s3.readPlace e.core none))
                let of := fun (l : Nat) => (accs.find? fun x => x.lane == l).map val
                let j0 := (of 32).getD 0
                let j := if j0 = 0 then some 0 else e.ker.target j0
                match j, brxTargets e.ker (e.pc.toNat + 1) of (Mask.toList e.em) with
                | some j, some ts => match e.st.branchIndexed e.idx e.pc n.toNat j (groupLanes ts) (s3.cycOf e.core) with
                  | some st => e.moved s3 st
                  | none => e.illegal s3
                | _, _ => e.illegal s3

/-- JOIN (R15, R343). -/
def execJoin (h : Hdr) (s : State) : Out? := gate (.join h) s fun e s => e.moved s (e.st.join e.idx e.pc (s.cycOf e.core))

/-- CALL (R320). -/
def execCall (h : Hdr) (d : SReg) (lit : Word) (s : State) : Out? :=
  gate (.call h d lit) s fun e s =>
    let t := offPc e.pc lit.toInt
    if !pcOk t then e.illegal s
    else if e.em = 0 then e.commit s
    else e.jump s ((e.st.setS d.toNat (dw (e.pc.toNat + 2))).goto e.idx (BitVec.ofInt 17 t))

/-- RET (R359). -/
def execRet (h : Hdr) (a : SReg) (s : State) : Out? :=
  gate (.ret h a) s fun e s =>
    let t := (e.s a).toNat
    if t < 16 ∨ 131072 ≤ t then e.illegal s
    else if e.em = 0 then e.commit s
    else e.jump s (e.st.goto e.idx (BitVec.ofNat 17 t))

/-- EXIT (R16, R327, R328). In the handler, it ends the handler when the running group of the handler's entry is empty. A GROUPLINE that no
path is left to take is a machine check (R208). The
last EXIT flushes what the stand still holds, and the stand retires in a step of its own (R32). -/
def execExit (h : Hdr) (s : State) : Out? :=
  gate (.exit h) s fun e s =>
    let x := e.em
    if x = 0 then e.commit s
    else
      let st0 := { e.st with region := none }
      let st1 := if x = e.path.mask then st0 else st0.goto e.idx (e.pc + 1)
      let st2 := st1.removeLanes e.idx x (s.cycOf e.core)
      let ended : Bool := match e.st.inHandler with
        | none => false
        | some i => (i == e.idx && x == e.path.mask) || ((st2.path i).state == PState.free)
      let st3 := if ended then { st2 with inHandler := none, deferred := false, kept := none, recount := false } else st2
      let lost := pathIdx.flatMap fun i => if st2.path i == {} then (e.st.path i).glines else []
      let s0 := lost.foldl (fun (u : State) x => u.grouplineCheck e.st.ctx (dieOfCore e.core) x.2.1.toNat) s
      match e.moved s0 st3 with
      | .next t =>
        let t1 := if e.st.inHandler.isSome then t.modStand? e.key fun st => { st with retcnt := e.st.retcnt } else t
        .next (if st3.hasLanes then t1 else t1.flushAll e.key)
      | x => x

/-- WAIT (R53). -/
def execWait (h : Hdr) (lit : Word) (s : State) : Out? :=
  gate (.wait h lit) s fun e s =>
    let n := lit.toNat
    let st := e.st
    if n % 64 < st.loads ∨ n / 64 % 64 < st.stores ∨ n / 4096 % 64 < st.copies ∨ n / 262144 % 64 < st.tiles
       ∨ st.tokmask &&& BitVec.ofNat 8 (n / 2 ^ 24) ≠ 0 then e.wait s .counter
    else e.commit s

/-- YIELD (R19, R377): the scheduler gives the greedy position up after it (`yieldsAfter`). -/
def execYield (h : Hdr) (s : State) : Out? := gate (.yield h) s fun e s => e.commit s

/-- Whether a store, an atomic or an access to scratchpad that SPAWN waits for has not performed (R368). -/
def State.spawnHeld (s : State) (uid : Nat) : Bool :=
  (s.outsOf uid).any fun kv => kv.2.anyScratch || (match kv.2.work with
    | .store .. | .discard .. | .atomic .. => true
    | .tile t => t.ast
    | _ => false)

/-- SPAWN (R31, R368): its own ILLEGAL holds the literal, as its operation says (log entry 11). -/
def execSpawn (h : Hdr) (d : SReg) (a : SReg) (lit : Word) (s : State) : Out? :=
  gate (.spawn h d a lit) s fun e s =>
    let n := lit.toNat / 65536 % 256
    let ent := lit.toNat % 65536
    let k := e.ker
    if n = 0 ∨ 16 < n ∨ k.entries.length ≤ ent ∨ lit.toNat / 2 ^ 24 ≠ 0 then e.raise s Cause.illegal (dw lit.toNat)
    else if s.spawnHeld e.st.uid then e.wait s .counter
    else
      let b := n * k.standBytes
      let core := e.core
      e.charge s Cls.grow 0 b fun s1 drawn =>
        let o := e.op s1 Cls.grow 0 drawn b .none 0 .pref
        let idxs := s1.freeIdx core
        let ids := s1.freeIds e.st.grove k
        if n ≤ idxs.length ∧ k.holds ((s1.grove e.st.grove).size + n) = true ∧ (s1.grove e.st.grove).size + n ≤ 64 ∧ n ≤ ids.length then
          let s2 := (s1.growResident o).addStands core e.st.ctx e.st.grove k (k.entries.getD ent 16) (e.s a).toNat ownGang ((idxs.zip ids).take n)
          let s3 := s2.modGrove e.st.grove fun g => { g with size := g.size + n }
          e.commit (s3.modStand e.key fun st => st.setS d.toNat (dw (idxs.headD 0)))
        else e.commit ((s1.growRefund o).modStand e.key fun st => st.setS d.toNat (~~~0))

/-- TRAP (R258): SOFT with the scalar in `tval` and the code in INFO. -/
def execTrap (h : Hdr) (a : SReg) (code : BitVec 7) (s : State) : Out? :=
  gate (.trap h a code) s fun e s =>
    .next ((e.leave s).takeTrap e.key e.idx e.pc e.replay { cause := Cause.soft, tval := e.s a, tmask := e.em &&& e.g, info := code.toNat })

/-- ERET (R258). -/
def execEret (h : Hdr) (s : State) : Out? := gate (.eret h) s fun e s => .next (e.eret s)

/-- BRK (R258): with a debugger attached the path is HELD before it, and the debugger is told; else BREAK. -/
def execBrk (h : Hdr) (s : State) : Out? :=
  gate (.brk h) s fun e s =>
    if (s.ctx e.st.ctx).debugger then
      .next ((s.modStand e.key fun st => st.modPath e.idx fun p => { p with held := true, single := false }).tell (.debugStop e.st.ctx (s.gsi e.key) e.idx))
    else e.raise s Cause.break 0

/-- IDEM (R258): record the region, if the path runs alone. -/
def execIdem (h : Hdr) (s : State) : Out? :=
  gate (.idem h) s fun e s =>
    match e.ker.idems.find? fun r => r.1 == e.pc.toNat with
    | none => e.illegal s
    | some r =>
      if e.st.alone e.idx && e.path.state == .active && e.path.link == 0 then
        e.commit (s.setStand e.key { e.st with region := some ⟨r.1, r.2, e.path.mask, e.em⟩ })
      else e.commit s

/-- Replace bits `[lo + n - 1 : lo]` of a word by those of another. -/
def copyBits (old new : Word) (lo n : Nat) : Word :=
  let m : Word := BitVec.ofNat 32 ((2 ^ n - 1) * 2 ^ lo)
  (old &&& ~~~m) ||| (new &&& m)

/-- The fields that MODE's mask names, as (mask bit, least bit, width) (R46). -/
def modeFields : List (Nat × Nat × Nat) := [(0, 0, 5), (1, 5, 3), (2, 8, 5), (3, 13, 3), (4, 16, 2), (5, 18, 3), (6, 21, 1), (6, 23, 2)]

/-- `mode` after MODE with mask `msk` and literal `lit` (R46). -/
def modeWrite (old : Word) (msk : BitVec 7) (lit : Word) : Word :=
  modeFields.foldl (fun m f => if msk.getLsbD f.1 then copyBits m lit f.2.1 f.2.2 else m) old

/-- Whether MODE traps: a reserved bit, or a selected field with a reserved value (R46). -/
def modeBad (msk : BitVec 7) (lit : Word) : Bool :=
  decide (lit.toNat / 2 ^ 25 ≠ 0) || lit.getLsbD 22 || (msk.getLsbD 0 && decide (16 ≤ lit.toNat % 32))
    || (msk.getLsbD 1 && decide (5 ≤ lit.toNat / 32 % 8)) || (msk.getLsbD 3 && decide (6 ≤ lit.toNat / 8192 % 8))

/-- MODE (R46). -/
def execMode (h : Hdr) (msk : BitVec 7) (lit : Word) (s : State) : Out? :=
  plain (.mode h msk lit) s fun e =>
    if modeBad msk lit then .trap Cause.illmode (dw lit.toNat)
    else .ok { e.st with mode := modeWrite e.st.mode msk lit }

end Sys2Proof.Machine
end

