-- ==== Sys2Proof/Machine/TileIns.lean ====
section
/-! DEFINITION. The accumulator instructions: TACC, AST, ALD and RFLUSH as far as they act at issue, AZERO, AMOV and AMOVV: OP 0x58
to 0x5B and 0x67 to 0x69 (R148, R189, R197, R302, R311, R312, R314). What they do later is in `EvTile.lean` and `EvEng.lean`. -/

namespace Sys2Proof.Machine

/-- The rows of a tile at `va` with a stride (R189). -/
def tileRows (va : DWord) (stride : Word) : List (Nat × DWord) := (upFrom 0 32).map fun r => (r, va + dw (r * stride.toNat))

/-- What a tile instruction asks of its rows (R189, R311). -/
def tileNeed (load home : Bool) (fmtOk : Nat → Bool) : Need :=
  { width := fun _ => 128, load := load, store := !load, fmtOk := fun f _ => fmtOk f, win := fun _ => false, home := home }

/-- The formats whose pages move raw 32-bit values (R128). -/
def rawFmt (f : Nat) : Bool := f == ET.b32 || f == ET.fp32 || f == ET.i32 || f == ET.u32

/-- An accumulator's 1,024 values (R189). -/
def Stand.accVals (st : Stand) (a : Nat) : SMap Word := SMap.tabulate 0 (fun i => SMap.get 0 st.accs (1024 * a + i)) 0 1024

/-- The checks that TACC, AST and ALD share, up to the translated rows (R189, R311). -/
def Env.tileAccess (e : Env) (s : State) (a : SReg) (lit : Word) (etOk : Nat → Bool) (nd : Need) (pl : Plan)
    (k : State → List Acc → Out?) : Out? :=
  let va := e.s a
  if lit = 0 ∨ lit.toNat % 128 ≠ 0 then e.illegal s
  else if !etOk e.et then e.illmode s
  else if DWord.bits va 63 60 ≠ 0 then e.raise s Cause.prot va
  else if va.toNat % 128 ≠ 0 then e.raise s Cause.misalign va
  else match e.accessWait s pl.read (modeRel e.st.mode) with
    | some w => e.wait s w
    | none => match s.access e.key true nd (tileRows va lit) with
      | (s1, .trap c v _) => e.trapFor s1 c (e.flatTval c v) e.em
      | (s1, .go accs rest low) => if rest = 0 then k s1 accs else e.park s1 e.em low none

/-- The tile operation of TACC or AST at issue. -/
def Env.tileWork (e : Env) (a : SReg) (lit : Word) (d : AReg) (rows : List Nat) (ast grow : Bool) : Tile :=
  { rva := e.s a, rpa := rows.headD 0, stride := lit.toNat, et := e.et, rows := rows, vals := e.st.accVals d.toNat, stage := .drain, ast := ast,
    slot := none, grow := grow, poisoned := false, refusals := 0, delay := 0, since := 0 }

/-- A tile operation enters the drain path (R181, R189). -/
def State.toDrain (s : State) (k : Nat) (op : Nat) : State := s.modCore k fun c => { c with drain := c.drain ++ [op] }

/-- Whether no drain-buffer entry is free (R60). -/
def State.drainFull (s : State) (k : Nat) : Bool := decide (Config.drainDepth ≤ (s.core k).drain.length)

/-- TACC (R148, R189, R199): an acquire in `mode.ORD` has no effect on it. -/
def execTacc (h : Hdr) (d : AReg) (a : SReg) (lit : Word) (s : State) : Out? :=
  gate (.tacc h d a lit) s fun e s =>
    let va := e.s a
    e.tileAccess s a lit (fun et => et == ET.fp32 || et == ET.i32 || et == ET.u32) (tileNeed false true fun _ => true)
      ⟨false, true, .store, Cls.drain, Config.chargeDrain, .tiles⟩ fun s1 accs =>
        let rows := rowPas accs
        let rpa := rows.headD 0
        let far := (accs.zip rows).find? fun x => homeOf x.2 != homeOf rpa
        let fam := fun (f : Nat) => f == ET.b32 || (if e.et = ET.fp32 then f == ET.fp32 else f == ET.i32 || f == ET.u32)
        match far with
        | some x => e.raise s1 Cause.misalign x.1.va
        | none =>
          if !(accs.all fun x => fam x.fmt) then e.raise s1 Cause.format va
          else if e.st.residuals.any fun kv => kv.2.rpa == rpa && (kv.2.stride != lit.toNat || kv.2.et != e.et) then e.raise s1 Cause.format va
          else if s1.drainFull e.core || e.full s1 .tiles then e.wait s1 .counter
          else
            let grow := decide (e.st.residuals.length < e.ker.nres) && (e.st.slotFor rpa lit.toNat e.et).isNone
            let b := if grow then residualBytes else 0
            e.charge s1 Cls.drain Config.chargeDrain b fun s2 drawn =>
              let o := { e.op s2 Cls.drain Config.chargeDrain drawn b .tiles e.em (.tile (e.tileWork a lit d rows false grow)) with
                remote := s2.remoteOf [.mem rpa] }
              let s3 := if modeRel e.st.mode then s2.startRelease e.key (modeScope e.st.mode) false else s2
              e.commit ((s3.issue o).toDrain e.core s3.nextId)

/-- AST: it sends the value that the accumulator holds now (R311, R312). -/
def execAst (h : Hdr) (d : AReg) (a : SReg) (lit : Word) (s : State) : Out? :=
  gate (.ast h d a lit) s fun e s =>
    e.tileAccess s a lit rawFmt (tileNeed false true rawFmt) ⟨false, true, .store, Cls.drain, Config.chargeDrain, .tiles⟩ fun s1 accs =>
      let rows := rowPas accs
      if s1.drainFull e.core || e.full s1 .tiles then e.wait s1 .counter
      else e.charge s1 Cls.drain Config.chargeDrain 0 fun s2 drawn =>
        let o := { e.op s2 Cls.drain Config.chargeDrain drawn 0 .tiles e.em (.tile (e.tileWork a lit d rows true false)) with
          remote := s2.remoteOf (accs.map (·.pl)) }
        let s3 := e.issueOrdered s2 o
        e.commit (s3.toDrain e.core (s3.nextId - 1))

/-- ALD (R311, R312). -/
def execAld (h : Hdr) (d : AReg) (a : SReg) (lit : Word) (s : State) : Out? :=
  gate (.ald h d a lit) s fun e s =>
    e.tileAccess s a lit rawFmt (tileNeed true false rawFmt) ⟨true, true, .load, Cls.replay, Config.chargeReplay, .tiles⟩ fun s1 accs =>
      if e.full s1 .tiles then e.wait s1 .counter
      else e.charge s1 Cls.replay Config.chargeReplay 0 fun s2 drawn =>
        let o := { e.op s2 Cls.replay Config.chargeReplay drawn 0 .tiles e.whole (.ald (rowPas accs)) with remote := s2.remoteOf (accs.map (·.pl)) }
        e.commit (e.issueOrdered s2 o)

/-- Whether the first byte of a tile lies in the range of an RFLUSH; length 0 selects every tile (R197). -/
def inRange (lo n : DWord) (rva : DWord) : Bool := decide (n = 0 ∨ (lo.toNat ≤ rva.toNat ∧ rva.toNat < lo.toNat + n.toNat))

/-- Leave the path waiting at its RFLUSH for tiles (R197). -/
def Env.waitFlush (e : Env) (s : State) (ops : List Nat) : Out? :=
  e.wait (s.modStand e.key fun st => st.modPath e.idx fun p => { p with flush := some ops }) .home

/-- RFLUSH: sends what it selects as flush-class requests, then waits until their homes have applied them, and the tiles that
had left the drain path before (R197). -/
def execRflush (h : Hdr) (a b : SReg) (s : State) : Out? :=
  gate (.rflush h a b) s fun e s =>
    match e.path.flush with
    | some ops =>
      let left := ops.filter fun op => (SMap.get? s.outs op).isSome
      if left.isEmpty then e.commit (s.modStand e.key fun st => st.modPath e.idx fun p => { p with flush := none })
      else e.waitFlush s left
    | none =>
      let sel := inRange (e.s a) (e.s b)
      e.charge s Cls.drain Config.chargeDrain 0 fun s1 drawn =>
        let tiles := (s1.tilesOf e.st.uid).filter fun kv => sel kv.2.rva
        let (s2, ops) := s1.flushSlots e.key (e.st.residuals.filter fun kv => sel kv.2.rva)
        let s3 := tiles.foldl (fun u kv => u.flushTile kv.1) s2
        let inPath := (tiles.filter fun kv => kv.2.stage != .home).map (·.1) ++ ops
        let o := e.op s3 Cls.drain Config.chargeDrain drawn 0 .none e.em (.rflush inPath)
        let s4 := s3.issue o
        let all := tiles.map (·.1) ++ ops
        if all.isEmpty then e.commit s4 else e.waitFlush s4 all

/-- Whether an MMA or ALD of the stand that names an accumulator has not written it (R302, R312, R314). -/
def State.accBusy (s : State) (uid : Nat) (a : AReg) : Bool :=
  (s.outsOf uid).any fun kv => match kv.2.ins with
    | .mma _ d _ _ => d == a
    | .ald _ d _ _ => d == a
    | _ => false

/-- AZERO (R314). -/
def execAzero (h : Hdr) (d : AReg) (s : State) : Out? :=
  gate (.azero h d) s fun e s =>
    if s.accBusy e.st.uid d then e.wait s .operand
    else
      let keep := fun (kv : Nat × Word) => decide (kv.1 < 1024 * d.toNat ∨ 1024 * d.toNat + 1024 ≤ kv.1)
      e.commit (s.setStand e.key { e.st with accs := e.st.accs.filter keep })

/-- Element of accumulator `a` that lane `l` reads or writes (R302). -/
def accElem (a : AReg) (col : Bool) (n : BitVec 5) (l : Nat) : Nat := 1024 * a.toNat + (if col then 32 * l + n.toNat else 32 * n.toNat + l)

/-- AMOV (R302). -/
def execAmov (h : Hdr) (d : VReg) (a : AReg) (col : Bool) (n : BitVec 5) (s : State) : Out? :=
  gate (.amov h d a col n) s fun e s =>
    if s.accBusy e.st.uid a then e.wait s .operand
    else e.commit (s.setStand e.key (e.putV d fun l => SMap.get 0 e.st.accs (accElem a col n l)))

/-- AMOVV (R302). -/
def execAmovv (h : Hdr) (d : AReg) (a : VReg) (col : Bool) (n : BitVec 5) (s : State) : Out? :=
  gate (.amovv h d a col n) s fun e s =>
    if s.accBusy e.st.uid d then e.wait s .operand
    else
      let put := fun (m : SMap Word) (l : Nat) => SMap.set 0 m (accElem d col n l) (e.v a l)
      e.commit (s.setStand e.key { e.st with accs := e.lanes.foldl put e.st.accs })

end Sys2Proof.Machine
end

