-- ==== Sys2Proof/Machine/Engine.lean ====
section
/-! DEFINITION. The matrix engine at issue: format pairs and sums (R99, R114, R226, R227), gangs and their latch (R149,
R229, R230), batons (R231, R232), and CBLD (R97, R98). What they do later is in `EvEng.lean`. -/

namespace Sys2Proof.Machine

/-! ### What an MMA computes -/

/-- An accepted pair of formats: elements K of a row, the ratio, and whether the sum is an integer (R226). -/
structure MmaPair where
  k     : Nat
  ratio : Nat
  int   : Bool
  deriving DecidableEq, Repr

/-- The pairs of R226, in either order. -/
def mmaPair (x y : Nat) : Option MmaPair :=
  let fp8 := fun (f : Nat) => f == ET.e4m3 || f == ET.e5m2
  let fp16 := fun (f : Nat) => f == ET.fp16 || f == ET.bf16
  if x = y ∧ fp16 x = true then some ⟨64, 1, false⟩
  else if fp8 x && fp8 y then some ⟨128, 1, false⟩
  else if x = ET.i8 ∧ y = ET.i8 then some ⟨128, 1, true⟩
  else if x = ET.cb2 ∧ y = ET.cb2 then some ⟨512, 1, false⟩
  else if (x == ET.cb2 && (fp8 y || y == ET.i8)) || (y == ET.cb2 && (fp8 x || x == ET.i8)) then some ⟨128, 4, false⟩
  else if x = ET.e2m1 ∧ y = ET.e2m1 then some ⟨256, 1, false⟩
  else if x = ET.i4 ∧ y = ET.i4 then some ⟨256, 1, true⟩
  else none

/-- Element `k` of row `r` of a slot, decoded and scaled; rows at or above `srows` read as +0 (R95, R101, R224). -/
def OpSlot.elem (x : OpSlot) (tabs : SMap Word) (r k : Nat) : FVal :=
  if x.rows ≤ r then .fin false 0 0
  else
    let byte := fun (i : Nat) => (SMap.get 0 x.data (128 * r + i)).toNat
    let v : FVal :=
      if x.sfmt = ET.cb2 then
        let idx := byte (2 * (k / 8)) + 256 * byte (2 * (k / 8) + 1)
        (cb2Values idx (SMap.get 0 tabs (256 * x.table + idx / 256)).toNat).getD (k % 8) (.fin false 0 0)
      else if etBits x.sfmt = 16 then decodeVal x.sfmt (byte (2 * k) + 256 * byte (2 * k + 1))
      else if etBits x.sfmt = 4 then decodeVal x.sfmt (byte (k / 2) / 2 ^ (4 * (k % 2)) % 16)
      else decodeVal x.sfmt (byte k)
    if x.scaled then v.scaled (Scale.ofCode (SMap.get 0 x.scales (x.rowScales * r + k / blockElems x.geom)).toNat) else v

/-- The exact sum of a chunk's products; `none` where it is invalid (R108, R114). -/
def chunkSum (ps : List (Option FVal)) : Option FVal :=
  if ps.any (· == some .nan) then some .nan
  else if ps.any (· == none) then none
  else exactSum RM.rne (ps.filterMap id)

/-- One output element: its value and the flags, chunk by chunk of 32 (R114). -/
def mmaElem (int : Bool) (a b : Nat → FVal) : Nat → Nat → Word → Word × BitVec 4
  | _, 0, d => (d, 0)
  | c, n + 1, d =>
    let ks := upFrom (32 * c) 32
    if int then
      let t := ks.foldl (fun (t : Int) k => t + (a k).at 0 * (b k).at 0) 0
      mmaElem int a b (c + 1) n (d + BitVec.ofInt 32 t)
    else
      let r := accAdd d.toNat (chunkSum (ks.map fun k => (a k).mul (b k)))
      let (d2, f) := mmaElem int a b (c + 1) n (wd r.code)
      (d2, r.flags ||| f)

/-- The 1,024 new values of an accumulator, and the flags (R114, R227). The CB2 slot of a pair with ratio 4 gives the segment
that `mode.KS` selects (R226). -/
def mmaValues (p : MmaPair) (sa sb : OpSlot) (tabs : SMap Word) (ks : Nat) (acc : SMap Word) : SMap Word × BitVec 4 :=
  let off := fun (x : OpSlot) => if p.ratio = 4 ∧ x.sfmt = ET.cb2 then 128 * ks else 0
  let res := fun (n : Nat) => mmaElem p.int (fun k => sa.elem tabs (n / 32) (off sa + k)) (fun k => sb.elem tabs (n % 32) (off sb + k))
    0 (p.k / 32) (SMap.get 0 acc n)
  (SMap.tabulate 0 (fun n => (res n).1) 0 1024, (upFrom 0 1024).foldl (fun f n => f ||| (res n).2) 0)

/-! ### Gangs -/

/-- The stand of a grove with a `standid`. -/
def State.standById (s : State) (g i : Nat) : Option Nat := (s.standsOfGrove g).find? fun key => (s.stand key).standid == i

/-- Whether GANG takes a value (R229); a stand that the debugger has halted is one of its grove still. -/
def State.gangOk (s : State) (st : Stand) (x : DWord) : Bool :=
  let ms := gangMembers x
  decide (DWord.bits x 63 51 = 0 ∧ 1 ≤ gangN x ∧ gangN x ≤ 6 ∧ ms.Nodup) && (upFrom (gangN x) (6 - gangN x)).all (fun i => gangM x i == 0)
    && ms.contains st.standid && ms.all fun i => (s.standById st.grove i).isSome || (s.haltedIds st.grove).contains i

/-- Whether an MMA of a stand is lodged or has not finished, or one waits for its fills at the issue position of another path (R229). -/
def State.hasMma (s : State) (key idx : Nat) : Bool :=
  let st := s.stand key
  ((s.outsOf st.uid).any fun kv => match kv.2.work with
    | .mma .. => true
    | _ => false)
  || (pathIdx.any fun i => i != idx && (st.path i).filling)

/-- GANG (R229): its ILLEGAL holds the value, as its operation says (log entry 11). -/
def execGang (h : Hdr) (a : SReg) (s : State) : Out? :=
  gate (.gang h a) s fun e s =>
    let x := e.s a
    if !s.gangOk e.st x then e.raise s Cause.illegal x
    else if s.hasMma e.key e.idx then e.wait s .operand
    else e.commit (s.setStand e.key { e.st with gang := x })

/-- The MMAs lodged at the latch of a grove's leader (R230). -/
def State.latch (s : State) (g leader : Nat) : List (Nat × Out) :=
  s.outs.filter fun kv => !kv.2.orphan && (match kv.2.work with
    | .mma _ _ .lodged _ _ _ => (s.stand kv.2.st).grove == g && gangM (s.stand kv.2.st).gang 0 == leader
    | _ => false)

/-- A member of a rendezvous: its operation, or the MMA at the issue position. -/
structure MmaMember where
  op  : Nat
  out : Out
  deriving DecidableEq, Repr

/-- The names that an MMA gives its accumulator and slots. -/
def mmaRegs : Instr → Nat × Nat × Nat
  | .mma _ d a b => (d.toNat, a.toNat, b.toNat)
  | _ => (0, 0, 0)

/-- The traps of a member's formats and segment (R45, R226, R227). -/
def State.mmaTrap (s : State) (m : MmaMember) (sb : Nat) : Option (Nat × DWord) :=
  let c := s.core (coreOf m.out.st)
  let sa := match m.out.work with
    | .mma a _ _ _ _ _ => a
    | _ => 0
  let fa := (SMap.get {} c.oslots sa).sfmt
  let fb := (SMap.get {} c.oslots sb).sfmt
  match mmaPair fa fb with
  | none => some (Cause.format, dw (fa + field fb 8))
  | some p => if p.ratio ≤ modeKs m.out.mode then some (Cause.illmode, dw m.out.mode.toNat) else none

/-- The MMA of a member goes to the array: it is charged and counted, and the path goes on (R48, R149, R227). What of its charge is drawn
comes from the reservation of the member at issue, and returns to it (R155). -/
def State.queueMma (s : State) (sb drawn payer : Nat) (m : MmaMember) : State :=
  let work : Work := match m.out.work with
    | .mma a _ _ _ _ _ => .mma a sb .queued [] [] 0
    | w => w
  let s1 := (s.setOut m.op { m.out with
    work := work, vu := Config.chargeArray, drawn := drawn, payer := if payer = m.out.uid then none else some payer, ctr := .tiles,
    cyc := s.cycOf (coreOf m.out.st) }).modStand
    m.out.st fun st => { st.modPath m.out.path fun p => { p with filling := false } with tiles := st.tiles + 1 }
  match (({ s1 with cur := ⟨m.out.st, m.out.path, m.out.rpl⟩ }).env m.out.ins).commit { s1 with cur := ⟨m.out.st, m.out.path, m.out.rpl⟩ } with
  | .next t => { t with cur := s.cur }
  | _ => s1

/-- The charge of a rendezvous is 3 VU for each member, released when that member's MMA finishes; what was drawn covers the members in order
(R145, R149, R155); the member that completes the rendezvous comes first and the lodged ones follow in their order (DESIGN CHOICE; log entry 103). -/
def State.queueAll (s : State) (sb payer : Nat) : Nat → List MmaMember → State
  | _, [] => s
  | drawn, m :: ms => (s.queueMma sb (min Config.chargeArray drawn) payer m).queueAll sb payer (drawn - Config.chargeArray) ms

/-- A member of a failed rendezvous traps, and nothing of its MMA stays (R227); one that is in its handler takes a double trap (R256). -/
def State.failMma (s : State) (cause : Nat) (tval : DWord) (m : MmaMember) : State :=
  let s1 := s.dropOut m.op
  let st := s1.stand m.out.st
  let v := if cause = Cause.illmode then dw st.mode.toNat else tval
  s1.takeTrap m.out.st m.out.path m.out.pc m.out.rpl { cause := cause, tval := v, tmask := st.em m.out.path }

/-- The MMA at issue with all members of its gang at hand, itself last (R227, R228). It waits for the fills that issued before the members' own MMAs; of the
leader's B, before the leader's. Where members fail differently, all trap as the first that fails in the order of lodging (DESIGN CHOICE; log entry
106). -/
def Env.rendezvous (e : Env) (s : State) (sb : Nat) (others : List MmaMember) (me : Out) : Out? :=
  let all := others ++ [⟨s.nextId, me⟩]
  let slotOf := fun (m : MmaMember) => match m.out.work with
    | .mma a _ _ _ _ _ => a
    | _ => 0
  let total := Config.chargeArray * all.length
  let leader := ((others.find? fun m => (s.stand m.out.st).standid == gangM e.st.gang 0).map (·.op)).getD s.nextId
  if all.any (fun m => s.fillBefore e.core (slotOf m) m.op) || s.fillBefore e.core sb leader then
    e.wait (s.modStand e.key fun st => st.modPath e.idx fun p => { p with filling := true }) .counter
  else if all.any fun m => decide (depthOf (s.core e.core) .tiles ≤ (s.stand m.out.st).tiles) then e.wait s .counter
  else e.charge s Cls.array total 0 fun s1 drawn =>
    let noBaton := match (s.grove e.st.grove).mbat with
      | none => false
      | some i => i != gangM e.st.gang 0
    let fail : Option (Nat × DWord) := if noBaton then some (Cause.baton, e.st.gang) else all.findSome? fun m => s.mmaTrap m sb
    match fail with
    | some (c, v) =>
      let s2 := s1.releaseFixed { me with vu := total, drawn := drawn }
      .next (all.foldl (fun u m => u.failMma c v m) s2)
    | none => .next (s1.bump.queueAll sb e.st.uid drawn (⟨s1.nextId, me⟩ :: others))

/-- Whether an ALD of the stand that names an accumulator has not written it (R312). -/
def State.aldBusy (s : State) (uid : Nat) (d : AReg) : Bool :=
  (s.outsOf uid).any fun kv => match kv.2.ins with
    | .ald _ x _ _ => x == d
    | _ => false

/-- The codebook tables that the elements of some physical slots go through (R227). -/
def State.slotTables (s : State) (k : Nat) (ps : List Nat) : List Nat :=
  (ps.map (SMap.get {} (s.core k).oslots)).filterMap fun x => if x.sfmt = ET.cb2 then some x.table else none

/-- MMA (R149, R226–R230, R312); a failed CBLD of a table that it names itself raises its REMOTEDOWN here (R271). -/
def execMma (h : Hdr) (d : AReg) (a b : OReg) (s : State) : Out? :=
  gate (.mma h d a b) s fun e s =>
    let g := e.st.gang
    let lead := gangN g ≤ 1 ∨ gangM g 0 = e.st.standid
    match e.st.boundSlot a.toNat with
    | none => e.illegal s
    | some sa =>
      if lead ∧ (e.st.boundSlot b.toNat).isNone = true then e.illegal s
      else if s.aldBusy e.st.uid d then e.wait s .operand
      else
        let own := (e.st.boundSlot b.toNat).getD sa
        e.unlessFailed s true [] (s.slotTables e.core [sa, if lead then own else sa]) <|
        let me := { e.op s Cls.array 0 0 0 .none e.em (.mma sa (if lead then own else sa) .lodged [] [] 0) with mode := e.st.mode }
        if gangN g ≤ 1 then e.rendezvous s own [] me
        else
          let at_ := s.latch e.st.grove (gangM g 0)
          if at_.any fun kv => (s.stand kv.2.st).gang != g then e.raise s Cause.illegal g
          else if at_.any fun kv => kv.2.uid == e.st.uid then e.wait s .group
          else if e.full s .tiles then e.wait s .counter
          else if at_.length + 1 < gangN g then e.wait (s.bump.setOut s.nextId me) .group
          else
            let others := at_.map fun kv => (⟨kv.1, kv.2⟩ : MmaMember)
            let sb := if lead then own else ((others.find? fun m => (s.stand m.out.st).standid == gangM g 0).bind fun m =>
              match m.out.work with
              | .mma _ q _ _ _ _ => some q
              | _ => none).getD own
            e.rendezvous s sb others me

/-! ### Batons -/

/-- The holder of a baton of a grove, and the baton moved (R231). -/
def Grove.baton (g : Grove) (matrix : Bool) : Option Nat := if matrix then g.mbat else g.sbat
def Grove.setBaton (g : Grove) (matrix : Bool) (x : Option Nat) : Grove := if matrix then { g with mbat := x } else { g with sbat := x }

/-- The next live stand of the ring after position `pos`; none where no stand of the ring is left (R232). A stand that the debugger has halted
has not retired. -/
def State.nextInRing (s : State) (g ring pos : Nat) : Option Nat :=
  ((upFrom 1 ring).map fun i => (pos + i) % ring).find? fun i => (s.standById g i).isSome || (s.haltedIds g).contains i

/-- BTAKE (R232): an acquire at grove scope drops no copy (R168). -/
def execBtake (h : Hdr) (matrix : Bool) (s : State) : Out? :=
  gate (.btake h matrix) s fun e s =>
    match (s.grove e.st.grove).baton matrix with
    | none => e.raise s Cause.baton e.ins.tvalWord
    | some i =>
      if e.ker.ring ≤ e.st.standid then e.raise s Cause.baton e.ins.tvalWord
      else if i != e.st.standid then e.wait s .baton
      else e.commit (s.acquireCore e.core 1)

/-- BPASS (R232, R233): a release at grove scope waits for the stand's earlier accesses. -/
def execBpass (h : Hdr) (matrix : Bool) (s : State) : Out? :=
  gate (.bpass h matrix) s fun e s =>
    match (s.grove e.st.grove).baton matrix with
    | none => e.raise s Cause.baton e.ins.tvalWord
    | some i =>
      if e.ker.ring ≤ e.st.standid ∨ i ≠ e.st.standid then e.raise s Cause.baton e.ins.tvalWord
      else if !s.accessesDone e.st.uid then e.wait s .counter
      else e.commit (s.modGrove e.st.grove fun g => g.setBaton matrix (s.nextInRing e.st.grove e.ker.ring e.st.standid))

/-! ### CBLD -/

/-- What CBLD asks of its source (R98). -/
def cbldNeed : Need :=
  { width := fun _ => 1024, load := true, store := false, fmtOk := fun _ _ => true, win := fun _ => false }

/-- CBLD (R97, R98): it is charged before its address is translated. -/
def execCbld (h : Hdr) (tab : BitVec 3) (a : SReg) (s : State) : Out? :=
  gate (.cbld h tab a) s fun e s =>
    let va := e.s a
    if DWord.bits va 63 60 = 15 then e.raise s Cause.prot va
    else if va.toNat % 1024 ≠ 0 then e.raise s Cause.misalign va
    else match e.accessWait s true false with
      | some w => e.wait s w
      | none =>
        if e.full s .loads then e.wait s .counter
        else e.charge s Cls.replay Config.chargeReplay 0 fun s1 drawn =>
          let o := { e.op s1 Cls.replay Config.chargeReplay drawn 0 .loads e.whole (.cbld 0 va) with mode := 0 }
          match s1.access e.key true cbldNeed [(0, va)] with
          | (s2, .trap c v _) => e.trapFor (s2.releaseFixed o) c (e.flatTval c v) e.em
          | (s2, .go accs rest low) =>
            if rest ≠ 0 then e.park (s2.releaseFixed o) e.whole low none
            else e.commit (s2.issue { o with work := .cbld ((rowPas accs).headD 0) va, remote := s2.remoteOf (accs.map (·.pl)) })

end Sys2Proof.Machine
end

