-- ==== Sys2Proof/Machine/Lane.lean ====
section
/-! DEFINITION. Lane exchange, lane reductions, predicate logic, and moves between predicates, scalars and lanes: OP 0x2D to
0x3B without XCHG (R112, R297, R299, R301, R303, R344, R349, R354, R360, R361). -/

namespace Sys2Proof.Machine

/-- A predicate instruction: a bitwise function of two predicates over the active lanes (R354). -/
def predOp (i : Instr) (s : State) (d a b : PReg) (f : Bool → Bool → Bool) : Out? :=
  plain i s fun e => .ok (e.putP d.toNat fun l => f ((e.p a.toNat).getLsbD l) ((e.p b.toNat).getLsbD l))

/-- PAND (R354). -/
def execPand (h : Hdr) (d a b : PReg) (s : State) : Out? := predOp (.pand h d a b) s d a b fun x y => x && y
/-- POR (R354). -/
def execPor (h : Hdr) (d a b : PReg) (s : State) : Out? := predOp (.por h d a b) s d a b fun x y => x || y
/-- PXOR (R354). -/
def execPxor (h : Hdr) (d a b : PReg) (s : State) : Out? := predOp (.pxor h d a b) s d a b fun x y => x != y
/-- PANDN (R354). -/
def execPandn (h : Hdr) (d a b : PReg) (s : State) : Out? := predOp (.pandn h d a b) s d a b fun x y => x && !y

/-- P2S (R303). -/
def execP2s (h : Hdr) (d : SReg) (a : PReg) (s : State) : Out? :=
  plain (.p2s h d a) s fun e => .ok (e.st.setS d.toNat ((e.p a.toNat).setWidth 64))
/-- S2P: every bit, whatever `em` and the guard are (R360). -/
def execS2p (h : Hdr) (d : PReg) (a : SReg) (s : State) : Out? :=
  plain (.s2p h d a) s fun e => .ok (e.st.setP e.idx d.toNat (lo32 (e.s a)))

/-- LSHF: the source lane is read whatever its state (R344). -/
def execLshf (h : Hdr) (d a b : VReg) (s : State) : Out? :=
  laneOp (.lshf h d a b) s d fun e l => e.v a ((e.v b l).toNat % 32)
/-- LBCS (R344). -/
def execLbcs (h : Hdr) (d a : VReg) (lane : BitVec 5) (s : State) : Out? := laneOp (.lbcs h d a lane) s d fun e _ => e.v a lane.toNat
/-- LMATCH (R297). -/
def execLmatch (h : Hdr) (d a : VReg) (s : State) : Out? :=
  laneOp (.lmatch h d a) s d fun e l => maskOf (e.lanes.filter fun m => e.v a m == e.v a l)

/-- The formats that LPFX, LRED and GRED accept (R217, R299, R301). -/
def foldOk (et : Nat) : Bool := et == ET.fp32 || et == ET.i32 || et == ET.u32

/-- Two values combined: 0 add, 1 min, 2 max, with the flags of an FP32 sum (R301). -/
def combine (kind et rm : Nat) (x y : Nat) : Res :=
  match kind with
  | 0 => if et = ET.fp32 then fpAdd et rm x y else ⟨(x + y) % 2 ^ 32, 0⟩
  | 1 => ⟨elemMinMax et false x y, 0⟩
  | _ => ⟨elemMinMax et true x y, 0⟩

/-- The running sums of the lanes given, in order: the lane, the sum below it if any, and the sum with it (R299). -/
def prefixSums (et rm : Nat) (val : Nat → Nat) : Option Res → List Nat → List (Nat × Option Res × Res)
  | _, [] => []
  | acc, l :: ls =>
    let r : Res := match acc with
      | none => ⟨val l, 0⟩
      | some x => let y := combine 0 et rm x.code (val l); ⟨y.code, y.flags⟩
    (l, acc, r) :: prefixSums et rm val (some r) ls

/-- LPFX: a left fold; the flags of every sum are collected (R299). -/
def execLpfx (h : Hdr) (d a : VReg) (excl : Bool) (s : State) : Out? :=
  plain (.lpfx h d a excl) s fun e =>
    if foldOk e.et then
      let xs := prefixSums e.et e.rm (fun l => (e.v a l).toNat) none e.lanes
      let of := fun (l : Nat) => match xs.find? fun x => x.1 == l with
        | some (_, below, r) => if excl then ((below.map (·.code)).getD 0) else r.code
        | none => 0
      .ok ((e.putV d fun l => wd (of l)).addFlags (orFlags (xs.map (·.2.2))))
    else e.badMode

/-- One level of the tree of R112: neighbours combine, a lone child passes up unchanged. -/
def pairUp (f : Res → Res → Res) : List (Option Res) → List (Option Res)
  | x :: y :: t => (match x, y with
      | some p, some q => some (f p q)
      | some p, none => some p
      | none, q => q) :: pairUp f t
  | l => l

/-- The tree of R112 over 32 lanes; +0 where no lane is active. -/
def laneTree (f : Res → Res → Res) (leaves : List (Option Res)) : Res :=
  let up := pairUp f
  ((up (up (up (up (up leaves))))).headD none).getD ⟨0, 0⟩

/-- LRED (R301). -/
def execLred (h : Hdr) (d a : VReg) (kind : BitVec 2) (s : State) : Out? :=
  plain (.lred h d a kind) s fun e =>
    if kind.toNat = 3 then .trap Cause.illegal e.ins.tvalWord
    else if foldOk e.et then
      let f := fun (x y : Res) => let r := combine kind.toNat e.et e.rm x.code y.code; Res.mk r.code (x.flags ||| y.flags ||| r.flags)
      let r := laneTree f (lanes.map fun l => if e.act.getLsbD l then some ⟨(e.v a l).toNat, 0⟩ else none)
      .ok ((e.putV d fun _ => wd r.code).addFlags r.flags)
    else e.badMode

/-- The outcome of a vote of kind 0 any, 1 all or 2 parity over the lanes `act` (R349). -/
def voteOf (kind : Nat) (b act : Mask) : Bool :=
  match kind with
  | 0 => decide (b ≠ 0)
  | 1 => decide (b = act)
  | _ => decide (popcount b % 2 = 1)

/-- LVOTE (R349). -/
def execLvote (h : Hdr) (kind : BitVec 2) (p : BitVec 4) (a : PReg) (s : State) : Out? :=
  plain (.lvote h kind p a) s fun e =>
    if kind.toNat = 3 then .trap Cause.illegal e.ins.tvalWord
    else .ok (e.putP p.toNat fun _ => voteOf kind.toNat (e.p a.toNat &&& e.act) e.act)

/-- V2S: the lane is read whether active or not (R361). -/
def execV2s (h : Hdr) (d : SReg) (a : VReg) (lane : BitVec 5) (s : State) : Out? :=
  plain (.v2s h d a lane) s fun e => .ok (e.st.setS d.toNat ((e.v a lane.toNat).setWidth 64))
/-- S2V (R361). -/
def execS2v (h : Hdr) (d : VReg) (a : SReg) (hi : Bool) (s : State) : Out? :=
  laneOp (.s2v h d a hi) s d fun e _ => if hi then lo32 (e.s a >>> 32) else lo32 (e.s a)

end Sys2Proof.Machine
end

