-- ==== Sys2Proof/Machine/GroupOps.lean ====
section
/-! DEFINITION. The group controllers: the group object, membership lists, rounds and their results, removal, record and replay
(R207–R213, R216–R221). The instructions are in `Handle.lean`, the events in `EvGroup.lean`. -/

namespace Sys2Proof.Machine

/-! ### Status words (R213) -/

abbrev GCode.ok : Nat := 0
abbrev GCode.stale : Nat := 1
abbrev GCode.busy : Nat := 2
abbrev GCode.nogroup : Nat := 3
abbrev GCode.deleted : Nat := 4
abbrev GCode.notmember : Nat := 5
abbrev GCode.member : Nat := 6
abbrev GCode.scope : Nat := 7
abbrev GCode.mismatch : Nat := 8
abbrev GCode.toobig : Nat := 9

def groupStatus (round : Word) (pend flt : Bool) (code : Nat) : DWord :=
  dw (field round.toNat 32 + field (b2n pend) 9 + field (b2n flt) 8 + code)

/-! ### Operations under way -/

/-- A detached operation: what it carries and its reply, at its stage. -/
def State.detOp (s : State) (op : Nat) : Option (Out × DStage × Ask × Reply) :=
  match SMap.get? s.outs op with
  | some o => match o.work with
    | .det stage ask rep => some (o, stage, ask, rep)
    | _ => none
  | none => none

/-- Give a detached operation its reply. -/
def State.replyTo (s : State) (op : Nat) (rep : Reply) : State :=
  match s.detOp op with
  | some (o, _, ask, _) => s.setOut op { o with work := .det .replied ask rep }
  | none => s

/-- A halted stand's image: its context, kernel and place. -/
def State.savedStand (s : State) (uid : Nat) : Option (SavedGrove × SavedStand) :=
  s.ctxs.findSome? fun kv => kv.2.saved.findSome? fun g => (g.stands.find? fun x => x.uid == uid).map fun x => (g, x)
def State.savedKernel (s : State) (g : SavedGrove) : Kernel := (s.launch g.grove.launch).kernel

/-- An operation lodges: it waits for other stands and gives its charge back (R149). Where a halt has redirected its reply, a lodge record
takes the reply slot (R220). -/
def State.lodge (s : State) (op : Nat) : State :=
  match s.detOp op with
  | some (o, _, ask, rep) =>
    let s1 := (s.releaseFixed o).setOut op { o with work := .det .lodged ask rep, vu := 0, drawn := 0 }
    match o.redirect, s.savedStand o.uid with
    | some pa, some (g, x) => (s1.putHomes pa (s1.lodgeBytes op o)).sealImage (s.savedKernel g) x.image
    | _, _ => s1
  | none => s

/-- The reply with a status; XCHG raises HANDLE instead (R205, R218). -/
def statusReply (i : Instr) (status : DWord) : Reply :=
  match i with
  | .xchg .. => { trap := some (Cause.handle, dw (status.toNat % 256)) }
  | _ => { status := status }

/-- Answer a group operation with a code; `ground` and the fault flag are those of the group, and 0 where no group answers (R213; DESIGN CHOICE: log entry
104). -/
def State.answer (s : State) (op : Nat) (o : Out) (g : Option Group) (code : Nat) (pend : Bool := false) : State :=
  s.replyTo op (statusReply o.ins (groupStatus ((g.map (·.ground)).getD 0) pend ((g.map (·.fault)).getD false) code))

/-! ### Membership lists (R210) -/

/-- The membership list of a stand: the core's copy, or that of its image after a halt. -/
def State.membersOf (s : State) (uid : Nat) : List Member :=
  match s.keyOfUid uid with
  | some key => (s.stand key).members
  | none => match s.savedStand uid with
    | some (g, x) => imgMembers (s.savedKernel g) (s.imageAt x.image)
    | none => []

/-- Change a membership list: the core's copy and the tail of the stand's image place, written as data; after a halt the image
(R210). -/
def State.setMembers (s : State) (uid : Nat) (l : List Member) : State :=
  match s.keyOfUid uid with
  | some key => (s.modStand key fun st => { st with members := l }).storeBytes (coreOf key) (s.listPlace key) (memberBytes l)
  | none => match s.savedStand uid with
    | some (g, x) => (s.putHomes (x.image + (s.savedKernel g).offTail + 16) (memberBytes l)).sealImage (s.savedKernel g) x.image
    | none => s

/-- Entry of a list for a group; directory slots are named by die and index with their generation. -/
def Member.names (m : Member) (gk gen : Nat) : Bool := m.die * 16384 + m.index == gk % 65536 && m.gen == gen
def State.memberOf (s : State) (uid gk : Nat) : Option Member := (s.membersOf uid).find? fun m => m.names gk (s.gen gk)
def State.dropMember (s : State) (uid gk gen : Nat) : State := s.setMembers uid ((s.membersOf uid).filter fun m => !m.names gk gen)

/-- Every stand there is: on a core, or in an image. -/
def State.allUids (s : State) : List Nat :=
  s.stands.map (·.2.uid) ++ s.ctxs.flatMap fun kv => kv.2.saved.flatMap fun g => g.stands.map (·.uid)

/-- Pending joiners become members (R212). -/
def State.admitAll (s : State) (gk : Nat) : State :=
  s.allUids.foldl (fun u uid =>
    let l := u.membersOf uid
    if l.any fun m => m.names gk (u.gen gk) && m.pending then
      u.setMembers uid (l.map fun m => if m.names gk (u.gen gk) then { m with pending := false } else m)
    else u) s

/-! ### The group object -/

def State.setGroup (s : State) (gk : Nat) (g : Group) : State := { s with groups := SMap.insert s.groups gk g }

/-- The number that `gop` shows for an operation (R209: the layout names the field and no coding; log entry 36). -/
def GOp.code : Option GOp → Nat
  | none => 0
  | some .gbar => 0x6F
  | some (.gvote kind) => 0x70 + field kind 8
  | some (.gred op et) => 0x71 + field op 8 + field et 16
  | some .xchg => 0x39

/-- The 64 bytes of a backing line (R209). -/
def groupLine (gk gen : Nat) (g : Group) : List Byte :=
  natLe (1 + 2 * b2n g.fault + 4 * b2n g.record + 8 * b2n g.replay + field g.scope 4) 4 ++ natLe gen 2 ++ natLe (gk % 65536) 2
    ++ natLe g.m 4 ++ natLe g.a 4 ++ natLe g.j 4 ++ natLe g.ground.toNat 4 ++ natLe (GOp.code g.gop) 4 ++ natLe g.joins 4
    ++ List.replicate 32 0

/-- Whether an active entry is pinned (R207). -/
def Group.pinned (g : Group) : Bool := decide (g.a ≠ 0 ∨ g.j ≠ 0 ∨ g.pendingOps ≠ [])

/-- The active entries of a die's controller (R207). -/
def State.activeOn (s : State) (die : Nat) : List (Nat × Group) := s.groups.filter fun kv => kv.1 % 65536 / 16384 == die && kv.2.active

/-- The state of a group goes back to its line. -/
def State.writeBack (s : State) (gk : Nat) (g : Group) : State := (s.putHomes g.pa (groupLine gk (s.gen gk) g)).setGroup gk { g with active := false }

/-- The controller worked on a group, so its state is in an active entry. Where the table is full, the first other entry
that holds no waiter is written back to its line and reused (R207 lets it be; which one is the model's: log entry 36); where every one holds a waiter, the
group's own state goes back. -/
def State.touch (s : State) (gk : Nat) : State :=
  match SMap.get? s.groups gk with
  | some g =>
    let s1 := s.setGroup gk { g with active := true }
    let on := s1.activeOn (gk % 65536 / 16384)
    if on.length ≤ Config.activeGroups then s1
    else match on.find? fun kv => kv.1 != gk && !kv.2.pinned with
      | some (k, x) => s1.writeBack k x
      | none => s.writeBack gk g
  | none => s

/-- Whether an operation on a group finds an active entry for it: its own, a free one, or one that holds no waiter (R207). -/
def State.seats (s : State) (gk : Nat) : Bool :=
  match SMap.get? s.groups gk with
  | some g =>
    let on := s.activeOn (gk % 65536 / 16384)
    g.active || decide (on.length < Config.activeGroups) || on.any fun kv => !kv.2.pinned
  | none => true

/-- Whether the group's scope admits a stand (R214); a halted stand by where it stood. -/
def State.admits (s : State) (g : Group) (o : Out) : Bool :=
  let grove := match s.keyOfUid o.uid, s.savedStand o.uid with
    | some key, _ => (s.stand key).grove
    | none, some (x, _) => x.id
    | none, none => 0
  let k := coreOf o.st
  if g.scope ≤ 1 then g.grove == grove
  else if g.scope = 2 then g.copse == copseOfCore k
  else if g.scope = 3 then g.die == dieOfCore k
  else true

/-- Free the value cells of a group's round (R217). -/
def State.freeCells (s : State) (gk : Nat) (g : Group) : State :=
  if g.cells = 0 then s
  else (s.modDie (gk % 65536 / 16384) fun d => { d with cells := d.cells - g.cells }).setGroup gk { g with cells := 0 }

/-! ### Record and replay (R221) -/

/-- Whether an address of the arrival log holds a record for a round and an ordinal, and its n. -/
def State.logEntry (s : State) (base round ord : Nat) : Nat → Option Nat
  | i => if s.homeNat (base + 16 * i) 4 = round ∧ s.homeNat (base + 16 * i + 4) 4 = ord then some (s.homeNat (base + 16 * i + 8) 8) else none

/-- What the log of replay mode says of a round and an ordinal: the first record that names them. -/
def State.logFind (s : State) (c : Ctx) (round ord : Nat) : Option Nat :=
  (upFrom 0 (c.clogsz.toNat / 16)).findSome? (s.logEntry (field (DWord.bits c.cgroup 51 12) 12) round ord)

/-- Append a record in record mode; a full log drops it (R286). -/
def State.logArrival (s : State) (g : Group) (ord n : Nat) : State :=
  let c := s.ctx g.ctx
  if !g.record then s
  else if c.clogsz.toNat < c.logUsed + 16 then s.setCtx g.ctx { c with clogdrop := c.clogdrop + 1 }
  else (s.putHomes (field (DWord.bits c.cgroup 51 12) 12 + c.logUsed) (natLe g.ground.toNat 4 ++ natLe ord 4 ++ natLe n 8)).setCtx g.ctx
    { c with logUsed := c.logUsed + 16 }

/-- `tval` of DIVERGE, where replay finds another n. -/
def State.diverges (s : State) (g : Group) (ord n : Nat) : Option DWord :=
  if !g.replay then none
  else match s.logFind (s.ctx g.ctx) g.ground.toNat ord with
    | some m => if m = n then none else some (dw (m % 2 ^ 32 + field (n % 2 ^ 32) 32))
    | none => none

/-! ### Rounds -/

/-- The operation that an instruction brings to a round. -/
def Out.gop (o : Out) : Option GOp :=
  match o.ins with
  | .gbar .. => some .gbar
  | .gvote _ kind _ _ _ => some (.gvote kind.toNat)
  | .gred _ _ _ _ op => some (.gred op.toNat (modeEt o.mode))
  | .xchg .. => some .xchg
  | _ => none

/-- The left fold of GRED over its members' values (R113, R217). -/
def gredFold (op et rm : Nat) : List Word → Res
  | [] => ⟨0, 0⟩
  | v :: vs => vs.foldl (fun (r : Res) x => let y := combine op et rm r.code x.toNat; ⟨y.code, r.flags ||| y.flags⟩) ⟨v.toNat, 0⟩

/-- Arrivals in ascending gsi (R211); of one gsi, which a stand that has halted after its arrival can share with one that came to its place,
the later one second (DESIGN CHOICE; log entry 82). -/
def insertArrival (a : Arrival) : List Arrival → List Arrival
  | [] => [a]
  | b :: bs => if a.gsi < b.gsi then a :: b :: bs else b :: insertArrival a bs
def sortArrivals (l : List Arrival) : List Arrival := l.foldl (fun acc a => insertArrival a acc) []

/-- What each arrival receives when the round completes (R212, R216–R218). -/
def State.roundReply (s : State) (g : Group) (a : Arrival) : Reply :=
  let status := groupStatus g.ground false g.fault GCode.ok
  let asks := (sortArrivals g.arrivals).filterMap fun x => (s.detOp x.op).map fun d => d.2.2.1
  match g.gop with
  | some (.gvote kind) =>
    let bits := asks.map (·.bit)
    let v := if kind = 0 then bits.any id else if kind = 1 then bits.all id else bits.foldl xor false
    { status := status, vote := some (if v then ~~~0 else 0) }
  | some (.gred op et) =>
    let r := gredFold op et g.lastRm (asks.map fun x => lo32 x.val)
    { status := status, extra := some (dw (r.code % 2 ^ 32)), flags := r.flags }
  | some .xchg =>
    let mine := (s.detOp a.op).map fun d => d.2.2.1
    let other := (g.arrivals.find? fun x => x.op != a.op).bind fun x => (s.detOp x.op).map fun d => d.2.2.1
    match mine, other with
    | some x, some y => { status := status, lanes := x.act &&& y.act, vals := y.vals }
    | _, _ => { status := status }
  | _ => { status := status }

/-- A complete round: replies, the next round, admission; the operations that waited for admission are left to act, those that wait
for cells go on waiting (R212, R217). -/
def State.finishRound (s : State) (gk : Nat) (g : Group) : State × List Nat :=
  let s1 := g.arrivals.foldl (fun u a => u.replyTo a.op (s.roundReply g a)) s
  let cellWait := (s.die (gk % 65536 / 16384)).cellWait
  let g2 := { g with ground := g.ground + 1, a := 0, gop := none, arrivals := [], m := g.m + g.j, j := 0, pendingOps := g.pendingOps.filter cellWait.contains }
  (((s1.setGroup gk g2).freeCells gk g2).admitAll gk, g.pendingOps.filter fun op => !cellWait.contains op)

/-- A member's round operation arrives, waits for cells, or is refused (R212, R217, R218, R221). -/
def State.arriveOne (s : State) (gk op : Nat) : State :=
  match SMap.get? s.groups gk, s.detOp op with
  | some g, some (o, _, ask, _) =>
    let mem := (s.memberOf o.uid gk).getD ⟨0, 0, 0, 0, 0, false⟩
    let n := (ask.ret - dw mem.ret).toNat
    let die := gk % 65536 / 16384
    let isRed := match o.gop with
      | some (.gred _ _) => true
      | _ => false
    if g.a ≠ 0 ∧ g.gop ≠ o.gop then s.answer op o (some g) GCode.mismatch
    else if isRed && g.a == 0 && decide (Config.gredCells < g.m) then s.answer op o (some g) GCode.toobig
    else if o.gop = some .xchg ∧ g.m ≠ 2 then s.replyTo op { trap := some (Cause.handle, dw GCode.toobig) }
    else match s.diverges g mem.ord n with
      | some v => s.replyTo op { trap := some (Cause.diverge, v) }
      | none =>
        if isRed && g.a == 0 && (decide (Config.gredCells < (s.die die).cells + g.m) || !(s.die die).cellWait.isEmpty) then
          ((s.setGroup gk { g with pendingOps := g.pendingOps ++ [op] }).modDie die fun d => { d with cellWait := d.cellWait ++ [op] }).lodge op
        else
          let take := if isRed && g.a == 0 then g.m else 0
          let g2 := { g with a := g.a + 1, gop := o.gop, arrivals := g.arrivals ++ [⟨op, o.uid, s.gsi o.st⟩], cells := g.cells + take,
                             lastRm := if isRed then modeRm o.mode else g.lastRm }
          let s1 := ((s.setGroup gk g2).modDie die fun d => { d with cells := d.cells + take }).logArrival g mem.ord n
          if g2.a = g2.m then s1 else s1.lodge op
  | _, _ => s

/-- Complete the round if every member has arrived, then let the operations act that waited for it. -/
def State.runOps (s : State) (gk : Nat) : Nat → List Nat → State
  | 0, _ => s
  | fuel + 1, ops =>
    match SMap.get? s.groups gk with
    | none => s
    | some g =>
      if 0 < g.a ∧ g.a = g.m then
        let (s1, more) := s.finishRound gk g
        s1.runOps gk fuel (ops ++ more)
      else match ops with
        | [] => s
        | op :: rest => (s.arriveOne gk op).runOps gk fuel rest

/-- Steps that `runOps` needs: each operation arrives once, and each arrival completes at most one round. -/
def Group.fuel (g : Group) : Nat := 2 * g.pendingOps.length + 4

/-- Withdraw whatever a stand has arrived or waiting at a group (R212): it gets no reply. The RM of the last GRED that arrived stays the round's, also where
that is the one withdrawn (R113; DESIGN CHOICE: log entry 101). -/
def State.withdraw (s : State) (gk uid : Nat) : State :=
  match SMap.get? s.groups gk with
  | none => s
  | some g =>
    let mine := fun (op : Nat) => match SMap.get? s.outs op with
      | some o => o.uid == uid
      | none => false
    let gone := (g.arrivals.filter fun a => a.uid == uid).map (·.op) ++ g.pendingOps.filter mine
    let left := g.arrivals.filter fun a => a.uid != uid
    let g2 := { g with arrivals := left, a := left.length, gop := if left.isEmpty then none else g.gop, pendingOps := g.pendingOps.filter fun op => !mine op }
    let s1 := s.setGroup gk g2
    let s2 := if left.isEmpty then s1.freeCells gk g2 else s1
    let s3 := s2.modDie (gk % 65536 / 16384) fun d => { d with cellWait := d.cellWait.filter fun op => !gone.contains op }
    gone.foldl (fun u op => match SMap.get? u.outs op with
      | some o => ((u.releaseFixed o).uncount o).dropOut op
      | none => u) s3

/-- A stand leaves a group: as a member or a pending joiner (R212). -/
def State.leave (s : State) (gk uid : Nat) (pending fault : Bool) : State :=
  match SMap.get? s.groups gk with
  | none => s
  | some g =>
    let g2 := { g with m := if pending then g.m else g.m - 1, j := if pending then g.j - 1 else g.j, fault := g.fault || fault }
    let s1 := (s.dropMember uid gk (s.gen gk)).setGroup gk g2
    (s1.runOps gk g2.fuel []).touch gk

/-- A stand is removed from all its groups: by a fault, or as it retires (R32, R212). -/
def State.leaveAll (s : State) (uid : Nat) (fault : Bool) : State :=
  (s.membersOf uid).foldl (fun u m =>
    let gk := dirKey 1 m.die m.index
    if u.gen gk = m.gen then (u.withdraw gk uid).leave gk uid m.pending fault else u) s

/-- A group is deleted: everything that waits is released (R212). -/
def State.deleteGroup (s : State) (gk : Nat) : State :=
  match SMap.get? s.groups gk with
  | none => s
  | some g =>
    let ops := g.arrivals.map (·.op) ++ g.pendingOps
    let gen := s.gen gk
    let s1 := ops.foldl (fun u op => match SMap.get? u.outs op with
      | some o => (u.answer op o (some g) GCode.deleted).dropMember o.uid gk gen
      | none => u) s
    let pend := s1.allUids.filter fun uid => (s1.membersOf uid).any fun m => m.names gk gen && m.pending
    let s2 := pend.foldl (fun u uid => u.dropMember uid gk gen) s1
    let s3 := (s2.freeCells gk g).modDie (gk % 65536 / 16384) fun d => { d with cellWait := d.cellWait.filter fun op => !ops.contains op }
    ({ s3 with groups := SMap.erase s3.groups gk, live := SMap.erase s3.live (lineNo g.pa) }).bumpGen gk

end Sys2Proof.Machine
end

