-- ==== Sys2Proof/Machine/Handle.lean ====
section
/-! DEFINITION. Handles and the group instructions at issue: XCHG, GCRT to GDEL, H2S and S2H (R203–R206, R210, R214–R219). What they
do at the controller is in `GroupOps.lean` and `EvGroup.lean`. -/

namespace Sys2Proof.Machine

/-- H2S (R206). -/
def execH2s (h : Hdr) (d : SReg) (a : HReg) (s : State) : Out? :=
  plain (.h2s h d a) s fun e => .ok (e.st.setS d.toNat (e.h a))

/-- S2H (R206): the handle after clearing rights carries its own MAC. -/
def execS2h (h : Hdr) (d : HReg) (a : SReg) (clr : BitVec 4) (s : State) : Out? :=
  plain (.s2h h d a clr) s fun e =>
    let x := e.s a
    let c := s.ctx e.st.ctx
    if handleKind x = 0 ∨ 4 < handleKind x ∨ DWord.bits x 63 40 ≠ handleMac c x.toNat then .trap Cause.handle x
    else .ok (e.st.setH d.toNat (mkHandle c (handleKind x) (handleRights x &&& (clr ^^^ 15#4).toNat) (handleGen x) (handleDie x) (handleIndex x)))

/-- Key of the directory slot that a handle names (R380). -/
def handleKey (x : DWord) : Nat := dirKey (handleKind x) (handleDie x) (handleIndex x)

/-- Whether an earlier operation of the stand on the object that `key` names has not performed yet. A stand's operations on one object
perform in its program order (R162, and R240, where CHADV publishes the entry of the CHAPP before it; log entry 40). -/
def State.objBefore (s : State) (uid op key : Nat) : Bool :=
  s.outs.any fun kv => decide (kv.1 < op) && kv.2.uid == uid && (match kv.2.work with
    | .det .sent ask _ => handleKey ask.handle == key
    | _ => false)

/-- The rights of a group handle: bits of RIGHTS (R203). -/
abbrev GRight.m : Nat := 0
abbrev GRight.i : Nat := 1
abbrev GRight.d : Nat := 2

/-- KIND, then the right, of a handle register (R205). -/
def Env.handleTrap (e : Env) (a : HReg) (kind right : Nat) : Option Nat :=
  let x := e.h a
  if handleKind x ≠ kind then some Cause.handle
  else if !(handleRights x).testBit right then some Cause.rights
  else none

/-- Whether the stand has an operation outstanding at the group a handle names (R210). -/
def State.groupBusy (s : State) (uid : Nat) (x : DWord) : Bool :=
  (s.outsOf uid).any fun kv => (groupRegOf kv.2.ins).isSome && (match kv.2.work with
    | .det _ ask _ => ask.handle.toNat % 2 ^ 32 == x.toNat % 2 ^ 32
    | _ => false)

/-- The group that a handle names now, if its generation is current. -/
def State.groupOf (s : State) (x : DWord) : Option Group :=
  if s.gen (handleKey x) = handleGen x then SMap.get? s.groups (handleKey x) else none

/-- Whether an acquire of the stand holds an operation on a queue or a chain back, as it holds an access (R173, R219). -/
def Env.afterAcq (e : Env) (s : State) (k : Out?) : Out? := if s.acqHeld e.st.uid then e.wait s .publication else k

/-- Issue a detached operation (R50, R145, R219): `rel` releases at a scope before it, `acq` acquires after its reply. -/
def Env.detach (e : Env) (s : State) (ctr : Ctr) (rel acq : Option Nat) (ask : Ask) (far : Option Nat := none) : Out? :=
  if rel.isSome && !s.accessesDone e.st.uid then e.wait s .counter
  else if e.full s ctr then e.wait s .counter
  else e.charge s Cls.detach Config.chargeDetach 0 fun s1 drawn =>
    let s2 := match rel with
      | some sc => s1.startRelease e.key sc false
      | none => s1
    let o := { e.op s2 Cls.detach Config.chargeDetach drawn 0 ctr e.act (.det .sent ask {}) with acq := acq, remote := far }
    e.commit (s2.issue o)

/-- A group operation on a handle (R205, R210, R219). -/
def Env.groupOp (e : Env) (s : State) (a : HReg) (right : Nat) (rel round : Bool) (ctr : Ctr) (ask : Ask) : Out? :=
  let x := e.h a
  match e.handleTrap a 1 right with
  | some c => e.raise s c x
  | none =>
    if s.groupBusy e.st.uid x then e.wait s .group
    else
      let sc := (s.groupOf x).map (·.scope)
      e.detach s ctr (if rel then sc else none) (if round then sc else none) { ask with handle := x, ret := e.st.retcnt }

/-- What GCRT asks of a backing line (R208, R214). -/
def gcrtNeed : Need :=
  { width := fun _ => 64, load := false, store := true, needP := true, home := true, fmtOk := fun f _ => f == ET.b32, win := fun _ => false }

/-- GCRT (R214). -/
def execGcrt (h : Hdr) (d a : SReg) (b : HReg) (s : State) : Out? :=
  gate (.gcrt h d a b) s fun e s =>
    let va := e.s a
    if modeScope e.st.mode = 0 then e.illmode s
    else if DWord.bits va 63 60 ≠ 0 then e.raise s Cause.prot va
    else if va.toNat % 64 ≠ 0 then e.raise s Cause.misalign va
    else match e.accessWait s false false with
    | some w => e.wait s w
    | none => match s.access e.key true gcrtNeed [(0, va)] with
      | (s1, .trap c v _) => e.trapFor s1 c (e.flatTval c v) e.em
      | (s1, .go accs rest low) =>
        if rest ≠ 0 then e.park s1 e.em low none
        else e.detach s1 .detached none none { val := va, pa := (rowPas accs).headD 0 } (s1.remoteOf (accs.map (·.pl)))

/-- GJOIN (R212, R215). -/
def execGjoin (h : Hdr) (d : SReg) (a : HReg) (s : State) : Out? :=
  gate (.gjoin h d a) s fun e s => e.groupOp s a GRight.m false false .detached {}

/-- GLEAVE: a release at the group's scope (R215, R219). -/
def execGleave (h : Hdr) (d : SReg) (a : HReg) (s : State) : Out? :=
  gate (.gleave h d a) s fun e s => e.groupOp s a GRight.m true false .detached {}

/-- GBAR (R215, R219). -/
def execGbar (h : Hdr) (d : SReg) (a : HReg) (s : State) : Out? :=
  gate (.gbar h d a) s fun e s => e.groupOp s a GRight.m true true .detached {}

/-- GVOTE (R216). -/
def execGvote (h : Hdr) (kind : BitVec 2) (p : BitVec 4) (a : HReg) (b : SReg) (s : State) : Out? :=
  gate (.gvote h kind p a b) s fun e s =>
    if kind = 3 then e.illegal s
    else e.groupOp s a GRight.m true true .detached { bit := decide (e.em &&& e.p p.toNat ≠ 0) }

/-- GRED (R217); `mode` goes with it for ET and RM. -/
def execGred (h : Hdr) (d : SReg) (a : HReg) (b : SReg) (op : BitVec 2) (s : State) : Out? :=
  gate (.gred h d a b op) s fun e s =>
    if op = 3 then e.illegal s
    else if !(e.et == ET.fp32 || e.et == ET.i32 || e.et == ET.u32) then e.illmode s
    else e.groupOp s a GRight.m true true .detached { val := e.s b }

/-- GINFO (R215). -/
def execGinfo (h : Hdr) (d : SReg) (a : HReg) (s : State) : Out? :=
  gate (.ginfo h d a) s fun e s =>
    if d = 62 then e.illegal s else e.groupOp s a GRight.i false false .detached {}

/-- GDEL (R212, R215). -/
def execGdel (h : Hdr) (d : SReg) (a : HReg) (s : State) : Out? :=
  gate (.gdel h d a) s fun e s => e.groupOp s a GRight.d false false .detached {}

/-- XCHG: it reads vA at issue and counts as a load (R218). -/
def execXchg (h : Hdr) (d a : VReg) (hd : HReg) (s : State) : Out? :=
  gate (.xchg h d a hd) s fun e s =>
    e.groupOp s hd GRight.m true true .loads { act := e.act, vals := SMap.tabulate 0 (fun l => e.v a l) 0 32 }

end Sys2Proof.Machine
end

