-- ==== Sys2Proof/Machine/Header.lean ====
section
/-! DEFINITION. What a queue checks before it accepts a launch record: the kernel header and its tables, read through the context's
translation at system scope (R76–R82), the record's own fields (R25), and the fit of a co-resident grid (R29). -/

namespace Sys2Proof.Machine

/-! ### Reads of a controller -/

/-- The physical address that a controller finds for one byte of a context: translated, with permission, with memory behind it; never
a page fault (R79, R238, R249). -/
def State.ctlAddr (s : State) (c : Nat) (perm : TlbEntry → Bool) (va : DWord) : Option Nat :=
  if 2 ^ 60 ≤ va.toNat then none
  else match s.walkCtx c va.toNat with
    | none => none
    | some t => if perm t && s.populated c (t.pa va.toNat) then some (t.pa va.toNat) else none

/-- A readable byte that is not poisoned (R79). -/
def State.ctlPa (s : State) (c : Nat) (va : DWord) : Option Nat :=
  (s.ctlAddr c (fun t => t.p && !t.psn) va).filter fun pa => !s.poisonedAt (.mem pa)

/-- `n` bytes of a context: their physical addresses; none where one cannot be read. -/
def State.ctlPas (s : State) (c : Nat) : DWord → Nat → Option (List Nat)
  | _, 0 => some []
  | va, n + 1 => match s.ctlPa c va with
    | none => none
    | some pa => (s.ctlPas c (va + 1) n).map (pa :: ·)
def State.ctlBytes (s : State) (c : Nat) (va : DWord) (n : Nat) : Option (List Byte) := (s.ctlPas c va n).map (·.map s.homeByte)

/-- A little-endian number within bytes. -/
def bytesNat (bs : List Byte) (off n : Nat) : Nat := leNat ((bs.drop off).take n)

/-! ### The kernel header -/

/-- Bits of a header that must be zero (R76, R77, R115). -/
def headerReserved (f : Nat → Nat → Nat) : Bool :=
  decide (f 6 2 / 8 % 32 = 0 ∧ f 0x14 4 / 2 ^ 21 = 0 ∧ f 0x20 4 % 2 = 0 ∧ f 0x20 4 / 16 % 2 = 0 ∧ f 0x20 4 / 2 ^ 20 = 0
    ∧ f 0x30 2 / 16 = 0 ∧ f 0x3A 2 = 0)

/-- The limits of R72 and the counts of R76. The holder of the matrix baton leads a gang. -/
def headerLimits (f : Nat → Nat → Nat) : Bool :=
  let vregs := f 8 1
  let grovemax := f 0xC 1
  let ring := f 0x1A 1
  let gangdef := f 0x1B 1
  let mbat := f 0x19 1
  let sbat := f 0x18 1
  (vregs == 127 || decide (8 ≤ vregs ∧ vregs ≤ 120 ∧ vregs % 8 = 0))
  && decide (1 ≤ f 9 1 ∧ f 9 1 ≤ 63 ∧ f 0xA 1 ≤ 16 ∧ f 0xB 1 ≤ 16 ∧ f 0xD 1 ≤ 16 ∧ f 0xE 1 ≤ 16)
  && decide (1 ≤ grovemax ∧ grovemax ≤ 64 ∧ ring ≤ grovemax ∧ gangdef ≤ 6 ∧ f 0xF 1 ≤ 3 ∧ 1 ≤ f 0x28 2)
  && decide (f 0x10 4 % 128 = 0 ∧ f 0x10 4 ≤ 1048576)
  && decide (mbat = 0xFF ∨ (mbat < ring ∧ (gangdef < 2 ∨ mbat % gangdef = 0))) && decide (sbat = 0xFF ∨ sbat < ring)

/-- Whether a header passes the first list of R79. -/
def headerOk (h : List Byte) : Bool :=
  let f := bytesNat h
  let partw := f 0x14 4
  decide (f 0 4 = 0x314B585A ∧ f 4 2 = 1 ∧ f 0x3C 4 = crc32c (h.take 0x3C)) && headerReserved f && headerLimits f
  && decide (partw % 128 + partw / 128 % 128 + partw / 16384 % 128 ≤ Config.poolUnits ∧ f 0x30 2 / 8 % 2 = 0 ∧ f 0x32 2 ≤ Config.revision)

/-- Whether region records are sorted by `ientry` and do not overlap (R81). -/
def regionsOk : List (Nat × Nat) → Bool
  | a :: b :: rest => decide (a.1 < b.1 ∧ a.2 ≤ b.1) && regionsOk (b :: rest)
  | _ => true

/-- Words of a byte list. -/
def wordsOf (bs : List Byte) : List Nat := (upFrom 0 (bs.length / 4)).map fun i => bytesNat bs (4 * i) 4
def pairsOf : List Nat → List (Nat × Nat)
  | a :: b :: rest => (a, b) :: pairsOf rest
  | _ => []

/-- The codebook tables of a kernel with their physical addresses: consecutive from `cbtab`, in ascending number (R77, R82). Of a table that
is not 1,024-byte aligned, which no check names, the address of the first byte is what is recorded (DESIGN CHOICE; log entry 83). -/
def State.tableAddrs (s : State) (c : Nat) : DWord → List Nat → Option (List (Nat × Nat))
  | _, [] => some []
  | va, n :: ns => match s.ctlPas c va 1024, s.tableAddrs c (va + 1024) ns with
    | some pas, some rest => some ((n, pas.headD 0) :: rest)
    | _, _ => none

/-- A kernel with its tables, from header bytes that pass. -/
def parseKernel (addr : DWord) (h : List Byte) (entries : List Nat) (idems tables : List (Nat × Nat)) : Kernel :=
  let f := bytesNat h
  { addr := addr, vregs := f 8 1, sregs := f 9 1, nacc := f 0xA 1, nslot := f 0xB 1, grovemax := f 0xC 1, nhand := f 0xD 1, nres := f 0xE 1,
    level := f 0xF 1, scratch := f 0x10 4, partw := wd (f 0x14 4), sbat := f 0x18 1, mbat := f 0x19 1, ring := f 0x1A 1, gangdef := f 0x1B 1,
    trapoff := f 0x1C 4, trapen := wd (f 0x20 4), entries := entries, idems := idems, tables := tables, idemk := (f 6 2).testBit 0,
    lvlreq := (f 6 2).testBit 1, replayOk := (f 6 2).testBit 2 }

/-- The header check (R79): the kernel as the check read it; none where the queue rejects the record. No check names the alignment of the
header's own address: any is accepted (DESIGN CHOICE; log entry 84). -/
def State.checkHeader (s : State) (c : Nat) (addr : DWord) : Option Kernel :=
  (s.ctlBytes c addr 64).bind fun h =>
    let f := bytesNat h
    if !headerOk h then none
    else
      (s.ctlBytes c (wordsFrom addr (f 0x24 4)) (4 * f 0x28 2)).bind fun ent =>
      (s.ctlBytes c (wordsFrom addr (f 0x34 4)) (8 * f 0x38 2)).bind fun rgs =>
      (s.tableAddrs c (wordsFrom addr (f 0x2C 4)) ((upFrom 0 8).filter (f 7 1).testBit)).bind fun tabs =>
        let entries := wordsOf ent
        let idems := pairsOf (wordsOf rgs)
        if entries.headD 0 = 16 ∧ (entries.all fun e => decide (16 ≤ e ∧ e < 2 ^ 17)) = true ∧ regionsOk idems = true then
          some (parseKernel addr h entries idems tabs)
        else none

/-! ### Launch records (R25, R29, R77, R79) -/

/-- The completion counter line of a launch: none where `succ` is not 0 and fails the check, else its physical address (R79). A line that
translates and has no memory behind it fails it (DESIGN CHOICE; log entry 85). -/
def State.checkSucc (s : State) (c : Nat) (succ : DWord) : Option (Option Nat) :=
  if succ = 0 then some none
  else if succ.toNat % 64 ≠ 0 then none
  else (s.ctlAddr c (fun t => t.p && t.w && t.fmt == ET.b32) succ).map some

/-- Units, stands and resident bytes of a new grove (R28, R115, R117). -/
def Kernel.groveUnits (k : Kernel) : Nat := k.partw.toNat % 128 + k.partw.toNat / 128 % 128 + k.partw.toNat / 16384 % 128
def Kernel.groveBytes (k : Kernel) : Nat := k.grovemax * k.standBytes + k.scratch

/-- Groves of a kernel that an idle core holds at once (R29). -/
def idleCap (x : Ctx) (k : Kernel) (hint : Nat) : Nat :=
  ((upFrom 1 64).filter fun n => decide (n * k.groveUnits ≤ Config.poolUnits ∧ n * k.grovemax ≤ 64
    ∧ 5 + ceilDiv (n * k.groveBytes) x.rho + hint ≤ x.vxbnd)).length

/-- Working cores of a die, or of a copse of the Pelfold. -/
def State.workingCores (s : State) (d : Nat) : List Nat := (coresOfDie d).filter fun k => (s.core k).work.isSome
def State.workingOfCopse (s : State) (cp : Nat) : List Nat :=
  (upFrom (cp * Config.physPerCopse) Config.physPerCopse).filter fun k => (s.core k).work.isSome

/-- Whether a grid of `n` groves fits at a co-residency level on idle resources (R29). -/
def State.levelFits (s : State) (x : Ctx) (k : Kernel) (hint level n : Nat) : Bool :=
  let cap := idleCap x k hint
  let onDie := fun (d : Nat) => cap * min (s.workingCores d).length (x.maxCores d)
  if level = 0 then true
  else if level = 1 then x.dieList.any fun d => (upFrom (d * Config.copses) Config.copses).any fun cp =>
    decide (n ≤ cap * min (s.workingOfCopse cp).length (x.maxCores d))
  else if level = 2 then x.dieList.any fun d => decide (n ≤ onDie d)
  else decide (1 < x.dieList.length ∧ n ≤ (x.dieList.map onDie).sum)

/-- The blocks of a grid, each with the die where it starts (R26). -/
def launchBlocks (x : Ctx) (n : Nat) : List Block :=
  (upFrom 0 (ceilDiv n 8)).map fun b =>
    { num := b, die := (match x.dieList with
        | [d] => d
        | _ => b % 4), left := (upFrom (8 * b) 8).filter (· < n), touched := false }

/-- The launch that a record asks for; none where the queue rejects the record (R25, R29, R77, R79). -/
def State.launchOfRecord (s : State) (c queue : Nat) (bytes : List Byte) : Option Launch :=
  let f := bytesNat bytes
  let x := s.ctx c
  let gx := f 16 2
  let gy := f 18 2
  let gz := f 20 2
  let flags := f 22 2
  let level := flags / 256
  if gx = 0 ∨ gy = 0 ∨ gz = 0 ∨ flags / 16 % 16 ≠ 0 ∨ 4 ≤ level then none
  else
    (s.checkHeader c (dw (f 0 8))).bind fun k =>
    (s.checkSucc c (dw (f 24 8))).bind fun succ =>
      if (k.lvlreq = true ∧ level < k.level) ∨ (x.cgroup.toNat % 4 = 2 ∧ k.replayOk = false)
          ∨ s.levelFits x k (f 56 4) level (gx * gy * gz) = false then none
      else some { ctx := c, queue := queue, kernel := k, gx := gx, gy := gy, gz := gz, arg := dw (f 8 8), succ := succ, level := level,
                  hint := f 56 4, blocks := launchBlocks x (gx * gy * gz), left := gx * gy * gz }

end Sys2Proof.Machine
end

