-- ==== Sys2Proof/Machine/QueueOps.lean ====
section
/-! DEFINITION. The queue controllers, successor counters and I/O chains as they perform an operation (R187, R237–R253). The
instructions are in `Task.lean`, the events in `EvQueue.lean`. -/

namespace Sys2Proof.Machine

/-! ### Status words (R246) -/

abbrev QCode.ok : Nat := 0
abbrev QCode.stale : Nat := 1
abbrev QCode.full : Nat := 0x0A
abbrev QCode.empty : Nat := 0x0B
abbrev QCode.notready : Nat := 0x0C
abbrev QCode.qbroken : Nat := 0x0D
abbrev QCode.badrec : Nat := 0x0E
abbrev QCode.state : Nat := 0x0F
abbrev QCode.underflow : Nat := 0x10

def qStatus (hi code : Nat) : DWord := dw (field (hi % 2 ^ 32) 32 + code)

/-! ### Queues -/

/-- The queue number of a directory slot (R243, R380), and back. -/
def queueNumber (qk : Nat) : Nat := qk % 65536 / 16384 * 1024 + qk % 16384
def queueKey (q : Nat) : Nat := dirKey 2 (q / 1024) (q % 1024)

/-- The queue, and the chain, that a handle names now, if its generation is current. -/
def State.queueOf (s : State) (x : DWord) : Option Queue :=
  if s.gen (handleKey x) = handleGen x then SMap.get? s.queues (handleKey x) else none
def State.chainOf (s : State) (x : DWord) : Option Chain :=
  if s.gen (handleKey x) = handleGen x then SMap.get? s.chains (handleKey x) else none

def State.setQueue (s : State) (qk : Nat) (q : Queue) : State := { s with queues := SMap.insert s.queues qk q }
def State.setChain (s : State) (ck : Nat) (c : Chain) : State := { s with chains := SMap.insert s.chains ck c }

/-- What a record is in a queue that takes it: a task record with its flags clear, or a launch record that passes its checks
(R25, R79, R242, R245). -/
def State.acceptRecord (s : State) (q : Queue) (qk : Nat) (bytes : List Byte) : Option (Option Launch) :=
  let flags := bytesNat bytes 22 2
  if q.launch then
    if flags % 16 ≠ 1 ∨ (s.ctx q.ctx).state = .free then none else (s.launchOfRecord q.ctx qk bytes).map some
  else if flags = 0 then some none else none

/-- The tenant interface to which a queue is assigned (R285). -/
def State.ifaceOfQueue (s : State) (q : Nat) : Option Nat :=
  (s.ifs.find? fun kv => (SMap.get 0 kv.2.queues (q / 64)).getLsbD (q % 64)).map (·.1)
/-- Whether a queue accepts records: the interface it is assigned to runs (R289). -/
def State.queueOpen (s : State) (q : Nat) : Bool :=
  match s.ifaceOfQueue q with
  | some i => (s.iface i).state == .run
  | none => true

/-- QENQ at the controller: the state, the code, and `seq` (R245). An accepted launch record is a launch that waits for its place
(R26). A queue of an interface that does not run drops the record (R289), and answers BADREC (DESIGN CHOICE; log entry 90). -/
def State.enqueue (s : State) (qk : Nat) (bytes : List Byte) : State × Nat × Nat :=
  match SMap.get? s.queues qk with
  | none => (s, QCode.stale, 0)
  | some q =>
    if q.broken then (s, QCode.qbroken, q.seq)
    else if !s.queueOpen (queueNumber qk) then (s, QCode.badrec, q.seq)
    else match s.acceptRecord q qk bytes with
      | none => (s, QCode.badrec, q.seq)
      | some l =>
        if q.cap ≤ q.recs.length then (s, QCode.full, q.seq)
        else
          let put := fun (t : State) (id : Option Nat) => t.setQueue qk { q with recs := q.recs ++ [⟨bytes, false, id⟩], seq := q.seq + 1 }
          (match l with
            | none => put s none
            | some x => put (s.bump.setLaunch s.nextId x) (some s.nextId), QCode.ok, q.seq + 1)

/-- Whether the full bit of a buffer is `v`; one without a translation is never ready (R248, R249). -/
def State.bufferIs (s : State) (c num : Nat) (v : Bool) : Bool :=
  match s.ctlAddr c (fun _ => true) (dw (num * 65536)) with
  | none => false
  | some pa => SMap.get false s.full (lineNo pa) == v

/-- A buffer bit that a task record is tested for: its place among the six of the record, its buffer, and what it must be (R249). -/
structure BitTest where
  j    : Nat
  num  : Nat
  want : Bool
  deriving DecidableEq, Repr

/-- The tests of a task record: in bits that must be 1, out bits that must be 0; 0 names no buffer (R242, R249). -/
def recTests (bytes : List Byte) : List BitTest :=
  ((upFrom 0 6).map fun j => (⟨j, bytesNat bytes (32 + 4 * j) 4, decide (j < 4)⟩ : BitTest)).filter fun x => x.num != 0

/-- How far the test of a record has come: it is eligible, it is not, or a bit is to be read. -/
inductive Look where
  | yes | no
  | read (x : BitTest)
  deriving DecidableEq, Repr

/-- The tests of the record at position `i` with what has been read of them: the bits lie at several homes, and each is read in a step of its own (R249;
log entry 86). -/
def lookAt (i : Nat) (got : List (Nat × Nat × Bool)) : List BitTest → Look
  | [] => .yes
  | x :: xs => match got.find? fun g => g.1 == i && g.2.1 == x.j with
    | some g => if g.2.2 then lookAt i got xs else .no
    | none => .read x

/-- The first of some records that is not refused: its hint fits and no bit of it has been found wrong. -/
def Queue.lookFor (q : Queue) (room : Nat) (got : List (Nat × Nat × Bool)) : List Nat → Option (Nat × Look)
  | [] => none
  | i :: is => match q.recs[i]? with
    | some r => match if bytesNat r.bytes 56 4 ≤ room then lookAt i got (recTests r.bytes) else .no with
      | .no => q.lookFor room got is
      | l => some (i, l)
    | none => q.lookFor room got is

/-- The record that QDEQ or QSTEAL comes to, among at most 16 from the head or from the tail (R245). A queue of launch service gives its records to the
distributor alone. -/
def Queue.findRecord (q : Queue) (steal : Bool) (room : Nat) (got : List (Nat × Nat × Bool)) : Option (Nat × Look) :=
  let n := q.recs.length
  if q.launch || q.broken then none else q.lookFor room got ((upFrom 0 (min 16 n)).map fun i => if steal then n - 1 - i else i)

/-- QDEQ and QSTEAL at the controller, when every bit that decides has been read (R245). -/
def State.takeRecord (s : State) (qk : Nat) (q : Queue) (steal : Bool) (room : Nat) (got : List (Nat × Nat × Bool)) : State × Reply :=
  let held := q.recs.length
  if q.broken then (s, { status := qStatus held QCode.qbroken })
  else if held = 0 then (s, { status := qStatus 0 QCode.empty })
  else match q.findRecord steal room got with
    | some (i, .yes) => (s.setQueue qk { q with recs := q.recs.eraseIdx i },
        { status := qStatus (held - 1) QCode.ok, record := (q.recs[i]?).map (·.bytes) })
    | _ => (s, { status := qStatus held QCode.notready })

/-- Whether an instruction takes a record, and from which end. -/
def takes : Instr → Option Bool
  | .qdeq .. => some false
  | .qsteal .. => some true
  | _ => none
/-- Whether another operation has a controller read bits for it: the queue serves it first. -/
def State.examines (s : State) (op : Nat) (o : Out) (ask : Ask) : Bool :=
  (takes o.ins).isSome && s.outs.any fun kv => kv.1 != op && (match kv.2.work with
    | .det .sent a _ => !a.bits.isEmpty && handleKey a.handle == handleKey ask.handle
    | _ => false)

/-- What is left of the per-core budget on the core that issued an operation (R245). -/
def State.roomOf (s : State) (o : Out) : Nat :=
  (s.ctx o.ctx).vxbnd - (s.ctxSlot (coreOf o.st) o.ctx).est (s.ctx o.ctx).rho

/-- A queue operation of a stand at the queue's controller (R245, R247, R358). Bits [63:32] of a STALE status are 0 (DESIGN CHOICE; log entry 107). -/
def State.queueAct (s : State) (op : Nat) (o : Out) (ask : Ask) : State :=
  let qk := handleKey ask.handle
  match s.queueOf ask.handle with
  | none => s.replyTo op { status := qStatus 0 QCode.stale }
  | some q => match o.ins with
    | .qenq .. =>
      let (s1, code, seq) := s.enqueue qk ask.bytes
      s1.replyTo op { status := qStatus seq code }
    | i =>
      let steal := (takes i).getD false
      match q.findRecord steal (s.roomOf o) ask.bits with
      | some (n, .read x) => s.setOut op { o with work := .det .sent { ask with bits := (n, x.j, s.bufferIs q.ctx x.num x.want) :: ask.bits } {} }
      | _ => let (s1, rep) := s.takeRecord qk q steal (s.roomOf o) ask.bits; s1.replyTo op rep

/-! ### Successor counters (R250, R251) -/

/-- Write `cstat` of a counter line; a completion counter keeps its provisional flag (R33, R269). -/
def State.setCstat (s : State) (pa code : Nat) (keep : Bool) : State :=
  s.putHome (pa + 4) (if keep then (s.homeByte (pa + 4) &&& 0x80#8) ||| BitVec.ofNat 8 (code % 128) else BitVec.ofNat 8 code)

/-- A successor enqueue reaches its controller; FULL waits for a retry (R247, R251). -/
def State.trySuccessor (s : State) (e : Enq) : State :=
  let rest := s.enqs.filter (·.id != e.id)
  let (s1, code) := match s.queueOf e.handle with
    | none => (s, QCode.stale)
    | some _ => let r := s.enqueue (handleKey e.handle) e.bytes; (r.1, r.2.1)
  if code = QCode.full then { s1 with enqs := rest ++ [{ e with retry := true }] }
  else
    let s2 := { s1 with enqs := rest }
    s2.setCstat e.line (if code = QCode.ok then 1 else code) e.keep

/-- Whether a handle in memory may enqueue: its MAC, kind and right E (R204, R205, R247). -/
def handleEnqueues (c : Ctx) (x : DWord) : Bool :=
  handleKind x == 2 && (handleRights x).testBit 0 && DWord.bits x 63 40 == handleMac c (x.toNat % 2 ^ 40)

/-- The counter of the line at `pa` has reached 0: its successor is read and enqueued. Where the record cannot be read or the handle is
none that may enqueue, nothing is enqueued and `cstat` is a free value: the spec names no code (log entry 37). -/
def State.startSuccessor (s : State) (c pa : Nat) (keep : Bool) : State :=
  let csucc := dw (s.homeNat (pa + 8) 8)
  let cqueue := dw (s.homeNat (pa + 16) 8)
  if csucc = 0 then s
  else match s.ctlBytes c csucc 64, handleEnqueues (s.ctx c) cqueue with
    | some bytes, true =>
      let e : Enq := { id := s.nextId, handle := cqueue, ctx := c, bytes := bytes, line := pa, retry := false, keep := keep }
      let s1 := { s.bump with enqs := s.enqs ++ [e] }
      if handleDie cqueue = dieOfHome ((homeOf pa).getD 0) then s1.trySuccessor e else s1
    | _, _ => s.bump.setCstat pa (Config.freeByte s.nextId).toNat keep

/-- The decrement at the line's home: the state and the code (R33, R251). -/
def State.decrement (s : State) (c pa : Nat) (keep : Bool) : State × Nat :=
  let n := s.homeNat pa 4
  if n = 0 then (if keep then s.setCstat pa QCode.underflow true else s, QCode.underflow)
  else
    let s1 := s.putHomes pa (natLe (n - 1) 4)
    (if n = 1 then s1.startSuccessor c pa keep else s1, QCode.ok)

/-- What a core and its copse hold of a line goes to its home before an operation there, and is dropped after it (R162, R174). -/
def State.lineHome (s : State) (k pa : Nat) : State := s.flushLine k pa
def State.lineDrop (s : State) (k pa : Nat) : State := (upFrom pa 64).foldl (fun u a => u.dropClean k 3 a) s

/-! ### Chains (R237–R241) -/

/-- Physical address of the ring slot of entry `n` (R237). -/
def Chain.slot (c : Chain) (n : Nat) : Nat := c.ring + 64 * ((n - 1) % c.cap)

/-- CHAPP and CHSEQ at the chain (R240). -/
def State.chainAct (s : State) (op : Nat) (o : Out) (ask : Ask) : State :=
  match o.ins, s.chainOf ask.handle with
  | .chapp .., none => s.replyTo op { status := dw QCode.stale }
  | .chapp .., some c =>
    if c.cap ≤ c.appended - c.completed then s.replyTo op { status := dw QCode.full }
    else
      let n := c.appended + 1
      ((s.putHomes (c.slot n) ask.bytes).setChain (handleKey ask.handle) { c with appended := n }).replyTo op { status := qStatus n QCode.ok }
  | _, none => s.replyTo op { status := ~~~0 }
  | _, some c => s.replyTo op { status := dw c.completed }

end Sys2Proof.Machine
end

