-- ==== Sys2Proof/Machine/Issue.lean ====
section
/-! DEFINITION. Issue: which path issues next (R19–R21, R61), the fetch of its word (R378), what the scheduler keeps after an
issue (R19, R38), and the single step (R273). -/

namespace Sys2Proof.Machine

/-- A path that may issue: its stand, its entry, and whether a replay record of the stand issues for it (R379). -/
structure Cand where
  key : Nat
  idx : Nat
  replay : Bool
  age : Nat
  deriving DecidableEq, Repr

/-- The quarter of the Pelfold on which a stand issues (R10). -/
def Cand.quarter (c : Cand) : Nat := coreOf c.key * 4 + idxOf c.key % 4

/-- Whether a path is ready, apart from the turn of others (R20). -/
def Stand.pathReady (st : Stand) (i : Nat) : Bool :=
  let p := st.path i
  p.state.runs && p.wait.isNone && p.parked.isNone && !p.held && !st.heldByTrap i && !st.restart

/-- The ready paths of a stand. Replay records issue in their order before any path of the stand resumes (R262, R263, R379). They issue too while
the handler serves the trap of an earlier one, whose path runs where the next record waits (log entry 23). -/
def Stand.ready (key : Nat) (st : Stand) : List Cand :=
  let paths := (pathIdx.filter st.pathReady).map fun i => (⟨key, i, false, (st.path i).age⟩ : Cand)
  match st.replays with
  | r :: _ =>
    if r.wait.isNone && r.parked.isNone && !st.restart then [⟨key, r.path, true, (st.path r.path).age⟩]
    else if st.deferred then paths else []
  | [] => paths

/-- Whether the context of a stand runs on its core (R21). -/
def State.ctxRuns (s : State) (key : Nat) (st : Stand) : Bool :=
  let c := s.core (coreOf key)
  (c.slot c.running).ctx == some st.ctx

/-- Whether a stand waits for the image that its PTLD reads: it has no path then (R305). -/
def State.loadsImage (s : State) (uid : Nat) : Bool := (s.outsOf uid).any fun kv => match kv.2.work with
  | .ptld _ => true
  | _ => false

/-- What quarter `q` of the Pelfold keeps. -/
def State.quarter (s : State) (q : Nat) : Quarter := SMap.get {} (s.core (q / 4)).quarters (q % 4)

/-- The path that a quarter in deterministic mode runs: the one that it has begun, until that has completed, then the lowest stand's lowest
(R61). -/
def State.detPath (s : State) (q : Nat) : Option (Nat × Nat) :=
  let goes := fun (st : Stand) (i : Nat) => (st.path i).state.runs && !st.heldByTrap i
  let begun := (s.quarter q).only.filter fun x => match SMap.get? s.stands x.1 with
    | some st => st.uid == x.2.2 && goes st x.2.1
    | none => false
  match begun with
  | some x => some (x.1, x.2.1)
  | none => s.stands.findSome? fun kv =>
    if coreOf kv.1 * 4 + idxOf kv.1 % 4 = q ∧ s.ctxRuns kv.1 kv.2 then (pathIdx.find? (goes kv.2)).map fun i => (kv.1, i) else none

/-- Whether what a path issued ahead is still to be squashed: it does not issue before that (R24). -/
def State.squashing (s : State) (c : Cand) : Bool := ((SMap.get? s.ahead (aheadKey c.key c.idx)).map (·.squash)).getD false

/-- Whether a quarter in deterministic mode has come to a path, or to a replay record of the stand whose path it runs (R61, R379). -/
def State.detTurn (s : State) (c : Cand) : Bool := match s.detPath c.quarter with
  | some (key, idx) => c.key == key && (c.replay || c.idx == idx)
  | none => false

/-- The bytes whose poison makes an outstanding operation trap (R131, R235, R251, R309). -/
def Out.perils (o : Out) : List Place :=
  match o.work with
  | .load .. | .sload .. => o.footprint.filter fun p => match p with
    | .mem pa => (SMap.get? o.seen pa).isNone
    | .scr _ _ => true
  | .tagget accs => accs.map (·.pl)
  | .cbld .. | .ald .. | .det .sent _ _ => o.footprint
  | .atomic .. => if o.cls = Cls.detach then o.footprint else []
  | .copy mv slot _ _ => mv.map (·.1) ++ ((slot.map fun x => x.2.scaleSrc.map Place.mem).getD [])
  | _ => []

/-- Whether an outstanding operation is to trap by what its reply, or its data, will be: the stand of an XCHG, or a round operation on a group in
replay mode, learns it when the operation has arrived (R218, R221). -/
def State.willTrap (s : State) (o : Out) : Bool :=
  (!s.poison.isEmpty && o.perils.any s.poisonedAt) || (match o.work with
    | .atomic _ _ _ _ _ _ poison _ => o.cls == Cls.detach && decide (poison ≠ 0)
    | .det .replied _ rep => rep.trap.isSome
    | .det .sent ask _ => (match o.ins with
      | .xchg .. => true
      | .gbar .. | .gvote .. | .gred .. => ((s.groupOf ask.handle).map (·.replay)).getD false
      | _ => false)
    | _ => false)

/-- Whether what a path has issued is to trap: the path issues nothing after it, so that the trap is precise, and takes it before it resumes
(R24, R254, R379; log entry 23). -/
def State.trapComing (s : State) (c : Cand) : Bool :=
  (s.outsOf (s.stand c.key).uid).any fun kv => kv.2.path == c.idx && s.willTrap kv.2

/-- Every path that may issue: the ready ones, but of a quarter in deterministic mode the one whose turn it is (R20, R24, R61). -/
def State.readyPaths (s : State) : List Cand :=
  (s.stands.flatMap fun kv => if s.ctxRuns kv.1 kv.2 && !s.loadsImage kv.2.uid then Stand.ready kv.1 kv.2 else []).filter fun c =>
    !s.squashing c && (c.replay || !s.trapComing c) && (!(s.core (coreOf c.key)).det || s.detTurn c)

/-- Whether `a` is older than `b`: the earlier age, then the lower core-local stand index, then the lower entry (R19). -/
def Cand.older (a b : Cand) : Bool :=
  decide (a.age < b.age ∨ (a.age = b.age ∧ (a.key < b.key ∨ (a.key = b.key ∧ a.idx < b.idx))))

/-- The best candidate under an order. -/
def bestOf (lt : Cand → Cand → Bool) : List Cand → Option Cand
  | [] => none
  | c :: cs => match bestOf lt cs with
    | none => some c
    | some d => if lt d c then some d else some c

/-- The path that a quarter issues: its greedy path while that is ready, else the oldest (R19). -/
def State.pickOn (s : State) (q : Nat) (cs : List Cand) : Option Cand :=
  match (s.quarter q).greedy.bind fun g => cs.find? fun c => c.key == g.1 && c.idx == g.2 with
    | some c => some c
    | none => bestOf Cand.older cs

/-- The quarters of the Pelfold, and how far the turn of one is, from the one after the last that issued. -/
def allQuarters : Nat := Config.dies * Config.physPerDie * 4
def State.untilTurn (s : State) (q : Nat) : Nat := (q + allQuarters - (s.turn + 1) % allQuarters) % allQuarters

/-- The quarters take turns, from the one after the last that issued: each quarter issues one instruction a cycle
(R62), and one step stands for one of them (DESIGN CHOICE: log entry 2). -/
def State.pickPath (s : State) : Option Cand :=
  let cs := s.readyPaths
  match bestOf (fun a b => decide (s.untilTurn a.quarter < s.untilTurn b.quarter)) cs with
  | none => none
  | some c => s.pickOn c.quarter (cs.filter fun d => d.quarter == c.quarter)

/-! ### Fetch (R36, R378) -/

/-- What a fetch gives. -/
inductive Fetched where
  | ok (i : Instr)
  /-- The word is no instruction: the value of `tval` (R58, R59). -/
  | bad (tval : DWord)
  | fault (va : DWord)
  | trap (cause : Nat) (va : DWord)
  deriving DecidableEq, Repr

/-- Fetch one word at a virtual address: the word, or how the fetch fails (R378). -/
def State.fetchWord (s : State) (k c : Nat) (va : Nat) : State × (Fetched ⊕ Word) :=
  let (s1, t) := s.translate k c va
  match t with
  | none => (s1, .inl (.fault (dw va)))
  | some t =>
    let pa := t.pa va
    if !t.x || !s1.populated c pa || ((s1.core k).det && (s1.core k).outside (some pa)) then (s1, .inl (.trap Cause.prot (dw va)))
    else if t.psn || s1.poisonedAt (.mem pa) then (s1, .inl (.trap Cause.poison (dw va)))
    else (s1, .inr (wd (leNat ((upFrom pa 4).map (s1.coreByte k)))))

/-- Fetch and decode the instruction at a PC; a K format's literal is fetched as well (R36, R378). -/
def State.fetch (s : State) (key : Nat) (pc : BitVec 17) : State × Fetched :=
  let st := s.stand key
  let va := (s.kernelOf st).addr.toNat + 4 * pc.toNat
  match s.fetchWord (coreOf key) st.ctx va with
  | (s1, .inl f) => (s1, f)
  | (s1, .inr w) =>
    if isKFormat (Raw.ofWord w).op then
      match s1.fetchWord (coreOf key) st.ctx (va + 4) with
      | (s2, .inl f) => (s2, f)
      | (s2, .inr lit) => match decodeWords w lit with
        | .ok i => (s2, .ok i)
        | .error _ => (s2, .bad (lit ++ w))
    else match decodeWords w 0 with
      | .ok i => (s1, .ok i)
      | .error _ => (s1, .bad (0#32 ++ w))

/-! ### Before and after an issue -/

/-- A cycle passes on every die. -/
def State.tick (s : State) : State := (upFrom 0 Config.dies).foldl (fun t d => t.modDie d fun x => { x with cyc := x.cyc + 1 }) s

/-- A quarter has its turn. In one cycle each quarter issues once, so a cycle passes when a turn comes again (R62, R293). -/
def State.turnTo (s : State) (q : Nat) : State := { (if q ≤ s.turn then s.tick else s) with turn := q }
/-- What the units do comes between two cycles: the next issue begins a new one (R152, R294). -/
def State.endCycle (s : State) : State := { s with turn := allQuarters - 1 }
/-- A path issues. -/
def State.beginIssue (s : State) (c : Cand) : State := { s.turnTo c.quarter with cur := ⟨c.key, c.idx, c.replay⟩ }

/-- YIELD, or VER 2 with SCH bit 1: the path yields after this word (R19, R38, R377). -/
def yieldsAfter (i : Instr) : Bool :=
  match i with
  | .yield _ => true
  | i => match encodeRaw i with
    | some (r, _) => r.ver == 2 && r.sch.getLsbD 1
    | none => false

/-- Give up the greedy position of a quarter; the path that held it counts its age from now (R19). -/
def State.giveUp (s : State) (k q : Nat) : State :=
  let x := SMap.get {} (s.core k).quarters q
  match x.greedy with
  | none => s
  | some (key, idx) =>
    let now := s.cycOf k
    (s.modCore k fun c => { c with quarters := SMap.insert c.quarters q { only := x.only } }).modStand? key fun st =>
      if (st.path idx).state = .free then st else st.modPath idx fun p => { p with age := now }

/-- The scheduler after an issue: the path that issued is greedy and has issued once more in a row; one that did not issue, or
yields, is not (R19). In deterministic mode it is the one that the quarter runs (R61). -/
def State.afterIssue (s : State) (c : Cand) (issued yields : Bool) : State :=
  let k := coreOf c.key
  let q := c.quarter % 4
  let x := SMap.get {} (s.core k).quarters q
  let me := some (c.key, c.idx)
  let s1 := if x.greedy = me then s else s.giveUp k q
  let run := if x.greedy = me then x.run else 0
  let only := if (s.core k).det then some (c.key, c.idx, (s.stand c.key).uid) else none
  let put := fun (s : State) (y : Quarter) => s.modCore k fun z => { z with quarters := SMap.insert z.quarters q y }
  if issued && !yields then put s1 ⟨me, run + 1, only⟩
  else if issued then (put s1 ⟨me, run + 1, only⟩).giveUp k q
  else if x.greedy = me then s1.giveUp k q
  else s1

/-- Why the path, or the replay record, at the issue position has not issued: it waits, or it is parked. -/
def State.whyNot (s : State) (c : Cand) : Option (Option Wait) :=
  let why := fun (w : Option Wait) (parked : Bool) => match w with
    | some w => some (some w)
    | none => if parked then some none else none
  match SMap.get? s.stands c.key with
  | none => none
  | some st =>
    if c.replay then st.replays.head?.bind fun r => why r.wait r.parked.isSome
    else why (st.path c.idx).wait (st.path c.idx).parked.isSome

/-- A path that has issued has been ready (R19). -/
def State.settleAge (s : State) (c : Cand) (issued : Bool) : State :=
  if c.replay || !issued then s
  else s.modStand? c.key fun st => if (st.path c.idx).fresh then st.modPath c.idx fun p => { p with fresh := false } else st

/-- After a single step of entry `i`, the entries that its instruction left for its lanes are HELD again, and entry `i` with whatever group runs
in it (R273). -/
def Stand.endSingle (before after : Stand) (i : Nat) : Stand :=
  let m := (before.path i).mask
  pathIdx.foldl (fun st j =>
    let p := st.path j
    if p.state.runs && (j == i || (decide (p.mask &&& m ≠ 0) && decide ((before.path j).state ≠ p.state))) then
      st.setPath j { p with held := true, single := false }
    else if j = i then st.setPath j { p with single := false } else st) after

/-- The breakpoint that a path about to issue at `pc` meets, with a debugger attached (R272). -/
def State.atBreakpoint (s : State) (c : Cand) (pc : BitVec 17) : Bool :=
  let st := s.stand c.key
  !c.replay && (s.ctx st.ctx).debugger && !(st.path c.idx).single && !(st.path c.idx).pass
    && (s.core (coreOf c.key)).breaks.any fun b => b.2.header == (s.kernelOf st).addr && b.2.pc == pc

end Sys2Proof.Machine
end

