-- ==== Sys2Proof/Machine/Restore.lean ====
section
/-! DEFINITION. What a reply writes into a stand (R213–R218, R240, R245, R248, R251, R262), and how a stand takes up an image: its
slots and scale stores, codebook tables, residual slots, replay records and reply slots (R96, R159, R220, R223, R262, R263,
R305). -/

namespace Sys2Proof.Machine

/-! ### Replies -/

/-- Write the eight scalars of a record, least register first (R245). -/
def Stand.setRecord (st : Stand) (r : Nat) (bytes : List Byte) : Stand :=
  (upFrom 0 8).foldl (fun t i => t.setS (r + i) (dw (leNat ((bytes.drop (8 * i)).take 8)))) st

/-- The destinations of a detached operation take its reply. A result that comes only with OK is absent from other replies
(R213). -/
def Stand.takeReply (st : Stand) (i : Instr) (r : Reply) : Stand :=
  let t := { st with flags := st.flags ||| r.flags }
  let extra := fun (t : Stand) (reg : Nat) => match r.extra with
    | some x => t.setS reg x
    | none => t
  match i with
  | .gcrt _ d _ b => (match r.extra with
      | some x => t.setH b.toNat x
      | none => t).setS d.toNat r.status
  | .ginfo _ d _ => if d.toNat = 63 then t else extra (t.setS d.toNat r.status) (d.toNat + 1)
  | .gvote _ _ p _ b => (match r.vote with
      | some m => t.setP 0 p.toNat m
      | none => t).setS b.toNat r.status
  | .gred _ d _ b _ => (extra t b.toNat).setS d.toNat r.status
  | .xchg _ d _ _ => t.setV d.toNat (Mask.toList r.lanes) (SMap.get 0 r.vals)
  | .aadd _ d _ _ | .amin _ d _ _ | .amax _ d _ _ | .aand _ d _ _ | .aor _ d _ _ | .axor _ d _ _ | .axch _ d _ _ | .acas _ d _ _ =>
    t.setV d.toNat (Mask.toList r.lanes) (SMap.get 0 r.vals)
  | .qdeq _ d _ b | .qsteal _ d _ b => (match r.record with
      | some bs => { t.setRecord b.toNat bs with taskrec := dw (leNat ((bs.drop 24).take 8)) }
      | none => t).setS d.toNat r.status
  | .gjoin _ d _ | .gleave _ d _ | .gbar _ d _ | .gdel _ d _ | .qenq _ d _ _ | .tdone _ d _ | .tfull _ d _ | .tempty _ d _
  | .tstat _ d _ | .chapp _ d _ _ | .chseq _ d _ => t.setS d.toNat r.status
  | _ => t

/-- Whether the body of a reply slot holds a result: the status that `slotBytesOf` wrote is OK. -/
def replyOk (i : Instr) (status : Nat) : Bool :=
  match i with
  | .gcrt .. | .ginfo .. | .gvote .. | .gred .. => status % 256 == 0
  | .qdeq .. | .qsteal .. => status % 256 == 0
  | _ => false

/-- The reply that a full slot of an image holds (R262; log entry 32). -/
def slotReply (i : Instr) (b : Nat → Byte) : Reply :=
  if laneReply i then
    { lanes := BitVec.ofNat 32 (imgNat b 8 4), vals := SMap.tabulate 0 (fun l => wd (imgNat b (16 + 4 * l) 4)) 0 32 }
  else
    let status := imgNat b 8 8
    let ok := replyOk i status
    let base : Reply := { status := dw status }
    if !ok then base
    else match i with
      | .gvote .. => { base with vote := some (BitVec.ofNat 32 (imgNat b 16 4)) }
      | .qdeq .. | .qsteal .. => { base with record := some ((upFrom 16 64).map b) }
      | .gcrt .. | .ginfo .. | .gred .. => { base with extra := some (dw (imgNat b 16 8)) }
      | _ => base

/-! ### Taking up an image -/

/-- Read bytes at system scope (R263, R305). -/
def State.sysBytes (s : State) (k pa n : Nat) : List Byte := (upFrom pa n).map (s.pocByte k 5)

/-- Every codebook table of a context's slot is loaded again from its source; the others are zero (R96). -/
def State.reloadTables (s : State) (k c : Nat) : State :=
  s.modSlot k c fun x => { x with tabs := x.sources.foldl (fun m kv =>
    (upFrom 0 256).foldl (fun m i => SMap.set 0 m (256 * kv.1 + i) (wd (leNat (s.sysBytes k (kv.2 + 4 * i) 4)))) m) [] }

/-- Bind the slots of an image to the lowest free physical slots, and fill their scale stores again (R223, R263). What leads here has seen that
the core has as many free. -/
def State.bindSlots (s : State) (k : Nat) : List (Nat × OpSlot) → State × SMap Nat
  | [] => (s, [])
  | (n, x) :: rest =>
    match SMap.lowestFree (s.core k).oslots 0 Config.slotsPerCore with
    | none => s.bindSlots k rest
    | some p =>
      let y := x.withScales (x.scaleSrc.map (s.pocByte k 5))
      let (s1, m) := (s.modCore k fun c => { c with oslots := SMap.insert c.oslots p y }).bindSlots k rest
      (s1, SMap.insert m n p)

/-- The slots and residual slots that an image marks (R261). -/
def imgSlots (k : Kernel) (img : Nat → Byte) : List (Nat × OpSlot) :=
  ((upFrom 0 k.nslot).filter (imgNat img 0x3E 2).testBit).map fun i => (i, imgSlot k img i)
def imgRes (k : Kernel) (img : Nat → Byte) : List Nat := (upFrom 0 k.nres).filter (imgNat img 0x26 2).testBit

/-- Bytes beyond the fixed ones that an image makes resident (R305). -/
def imgGrowth (k : Kernel) (img : Nat → Byte) : Nat := slotBytes * (imgSlots k img).length + residualBytes * (imgRes k img).length

/-- Translate the rows of a tile; a row that does not translate lies where the stride puts it in physical memory (log entry
31). -/
def State.tileRowsAt (s : State) (k c : Nat) (rva : Nat) (rpa stride : Nat) : State × List Nat :=
  (upFrom 0 32).foldl (fun (p : State × List Nat) r =>
    match p.1.translate k c (rva + r * stride) with
    | (u, some t) => (u, p.2 ++ [t.pa (rva + r * stride)])
    | (u, none) => (u, p.2 ++ [rpa + r * stride])) (s, [])

/-- The residual slots of an image, with their rows translated. -/
def State.imgResiduals (s : State) (key : Nat) (k : Kernel) (img : Nat → Byte) : State × SMap Residual :=
  (imgRes k img).foldl (fun (p : State × SMap Residual) i =>
    let b := k.offRes + 4160 * i
    let (u, rows) := p.1.tileRowsAt (coreOf key) (s.stand key).ctx (imgNat img b 8) (imgNat img (b + 8) 8) (imgNat img (b + 16) 4)
    (u, SMap.insert p.2 i (imgResidual k img i (s.cycOf (coreOf key)) rows))) (s, [])

/-- A round operation whose lodge record a restore finds lodges again for the restored stand (R220). -/
def State.reattach (s : State) (key slotPa : Nat) : State :=
  match s.outs.find? fun kv => kv.2.redirect == some slotPa && kv.2.orphan with
  | none => s
  | some (op, o) =>
    let st := s.stand key
    let ctr := match o.ins with
      | .xchg .. => Ctr.loads
      | _ => Ctr.detached
    let acq := (s.lodgedAt op).bind fun g => (SMap.get? s.groups g).map (·.scope)
    (s.setOut op { o with st := key, orphan := false, redirect := none, ctr := ctr, acq := acq }).setStand key
      (st.setCount ctr (st.count ctr + 1))

/-- Take up the reply slots of an image in order: a full one gives its destinations their values, a lodge record re-attaches
(R220, R262). The instruction is the one at the slot's PC. -/
def State.takeSlots (s : State) (key : Nat) (k : Kernel) (img : Nat → Byte) (pa : Nat → Nat) : State :=
  (upFrom 0 (min 64 (imgNat img 0x3B 1))).foldl (fun u i =>
    let b := k.offReplies + 144 * i
    if imgNat img (b + 6) 1 = 2 then u.reattach key (pa b)
    else match u.fetch key (BitVec.ofNat 17 (imgNat img b 4)) with
      | (v, .ok ins) => v.modStand key fun st => st.takeReply ins (slotReply ins fun j => img (b + j))
      | (v, _) => v) s

/-- The instruction at a PC of a stand, where its words can be read now. -/
def State.insAt (s : State) (key : Nat) (pc : BitVec 17) : Option Instr :=
  match (s.fetch key pc).2 with
  | .ok i => some i
  | _ => none

/-- What an image brings back unfinished holds its registers again: its parked lanes and its records name the instructions at their PCs (R20, R262). -/
def State.nameParked (s : State) (key : Nat) : State :=
  let ins := fun (pc : BitVec 17) => s.insAt key pc
  s.modStand key fun st => { st with
    paths := st.paths.map fun kv => (kv.1, { kv.2 with part := kv.2.part.map fun t => { t with ins := ins kv.2.pc } }),
    kept := st.kept.map fun t => { t with ins := ins (BitVec.ofNat 17 st.tepc.toNat) },
    replays := st.replays.map fun r => { r with ins := ins r.pc } }

/-- A stand takes up an image that has passed its checks: slots, residual slots, registers and paths, then records and reply slots
(R159, R263, R305). `pa` gives the physical address of an image byte. An AVAIL that lifts the estimate above the bound is loaded as it is (DESIGN
CHOICE; log entry 87). -/
def State.takeImage (s : State) (key : Nat) (k : Kernel) (img : Nat → Byte) (pa : Nat → Nat) : State :=
  let c := coreOf key
  let (s1, slots) := s.bindSlots c (imgSlots k img)
  let (s2, res) := s1.imgResiduals key k img
  let st := s2.stand key
  let st2 := st.loadImage k img (s2.cycOf c) slots res
  let s3 := s2.modSlot c st.ctx fun x => { x with q := x.q - st.avail + st2.avail }
  ((s3.setStand key st2).takeSlots key k img pa).nameParked key

end Sys2Proof.Machine
end

