-- ==== Sys2Proof/Machine/Distribute.lean ====
section
/-! DEFINITION. The distributors: which core a grove takes (R28, R29), what placing it does (R30, R77, R96, R115, R260), and the
placement of restored groves (R159, R263, R381). The events are in `EvLaunch.lean` and `EvCtx.lean`. -/

namespace Sys2Proof.Machine

/-! ### Where a grove fits -/

/-- What a grove asks of a core: units, stands, resident bytes, hint (R28), and the operand slots that its images bind (R222, R263). -/
structure Demand where
  units  : Nat
  stands : Nat
  bytes  : Nat
  hint   : Nat
  slots  : Nat

/-- Cores of a die on which a context holds a context slot. -/
def State.coresHeld (s : State) (c d : Nat) : Nat := ((coresOfDie d).filter fun k => (s.slotOf k c).isSome).length

/-- Whether a core has a context slot for a context: one it holds, or a free one within its core count; a core in deterministic mode holds
one context (R28, R61, R286). -/
def State.slotFor (s : State) (c k : Nat) : Bool :=
  let x := s.core k
  (s.slotOf k c).isSome ||
    ((if x.det then x.slot0.ctx.isNone && x.slot1.ctx.isNone else x.slot0.ctx.isNone || x.slot1.ctx.isNone)
      && decide (s.coresHeld c (dieOfCore k) < (s.ctx c).maxCores (dieOfCore k)))

/-- Whether the codebook tables of a kernel may be loaded on a core (R96). -/
def State.tablesFit (s : State) (c k : Nat) (ker : Kernel) : Bool :=
  ker.tables.all fun t => s.groves.all fun kv =>
    let l := s.launch kv.2.launch
    kv.2.core != k || l.ctx != c || l.kernel.tables.all fun u => u.1 != t.1 || u.2 == t.2

/-- The image of a saved stand: the resident bytes it needs (R117, R381). -/
def State.savedBytes (s : State) (ker : Kernel) (x : SavedStand) : Nat := ker.standBytes + imgGrowth ker (s.imageAt x.image)

/-- What a saved grove asks. Where the debugger halted one stand, the grove itself is still in place. -/
def State.savedDemand (s : State) (sg : SavedGrove) : Demand :=
  let l := s.launch sg.grove.launch
  let live := (SMap.get? s.groves sg.id).isSome
  { units := if live then 0 else sg.grove.units, stands := sg.stands.length,
    bytes := (sg.stands.map (s.savedBytes l.kernel)).sum + (if live then 0 else l.kernel.scratch), hint := l.hint,
    slots := (sg.stands.map fun x => (imgSlots l.kernel (s.imageAt x.image)).length).sum }

/-- Whether a core admits a grove (R28); what comes back to the core counts as there. A restored grove needs the operand slots of its images as
well (R222; log entry 91). -/
def State.coreAdmits (s : State) (c : Nat) (ker : Kernel) (d : Demand) (k : Nat) : Bool :=
  let x := s.core k
  let y := s.ctxSlot k c
  let cx := s.ctx c
  let back := (s.returning k).map fun g => (g.1, s.savedDemand g.2)
  let units := (back.map fun g => g.2.units).sum
  let slots := (back.map fun g => g.2.slots).sum
  let bytes := ((back.filter fun g => g.1 == c).map fun g => g.2.bytes).sum
  x.work.isSome && cx.dieMask.testBit (dieOfCore k) && decide (x.units + units + d.units ≤ Config.poolUnits ∧ d.stands ≤ (s.freeIdx k).length
      ∧ x.oslots.length + slots + d.slots ≤ Config.slotsPerCore)
    && s.slotFor c k && s.tablesFit c k ker
    && decide (5 + ceilDiv (y.s + y.p + bytes + d.bytes) cx.rho + y.c + y.q + d.hint ≤ cx.vxbnd)

/-- Resident bytes of a core, and its place in the order of R28. -/
def State.coreLoad (s : State) (k : Nat) : Nat := (s.core k).slot0.s + (s.core k).slot1.s
def State.coreLess (s : State) (a b : Nat) : Bool :=
  let num := fun (k : Nat) => dieOfCore k * 96 + s.workInDie k
  decide (s.coreLoad a < s.coreLoad b ∨ (s.coreLoad a = s.coreLoad b ∧ num a < num b))

/-- The core that a grove takes among some (R28). -/
def State.chooseCore (s : State) (c : Nat) (ker : Kernel) (d : Demand) (cores : List Nat) : Option Nat :=
  (cores.filter (s.coreAdmits c ker d)).foldl (fun best k => match best with
    | none => some k
    | some b => if s.coreLess k b then some k else some b) none

/-! ### Taking a place -/

/-- A core whose running context has no stand there runs the other one, if that has: the running context keeps the core
as long as it has work (R21; DESIGN CHOICE: log entry 56). -/
def State.yieldCore (s : State) (k : Nat) : State :=
  let x := s.core k
  let busy := fun (b : Bool) => match (x.slot b).ctx with
    | some c => (s.standsOfCore k).any fun key => (s.stand key).ctx == c
    | none => false
  if !busy x.running && busy (!x.running) then s.modCore k fun x => { x with running := !x.running, ranFrom := s.cycOf k, idleFrom := s.cycOf k } else s

/-- A context takes a context slot on a core: the tables there are zero (R96). Where that is the slot that runs, its time there begins
(R21). -/
def State.takeSlot (s : State) (c k : Nat) : State :=
  if (s.slotOf k c).isSome then s
  else
    let now := s.cycOf k
    s.modCore k fun x =>
      let b := x.slot0.ctx.isSome
      let y := x.setSlot b { ctx := some c }
      if x.running == b then { y with ranFrom := now, idleFrom := now } else y

/-- The lowest offset of a gap of `n` bytes among blocks in order of offset (R260). -/
def lowestGap (n : Nat) : Nat → SMap Nat → Nat
  | off, [] => off
  | off, (o, len) :: rest => if off + n ≤ o then off else lowestGap n (max off (o + len)) rest

/-- The blocks of a context in the save area of a core: offset and length. -/
def State.blocksOn (s : State) (c k : Nat) : SMap Nat :=
  let live := (s.groves.filter fun kv => kv.2.core == k && (s.launch kv.2.launch).ctx == c).map (·.2)
  let saved := ((s.ctx c).saved.filter fun g => g.grove.core == k).map (·.grove)
  (live ++ saved).foldl (fun m g => SMap.insert m g.block (max (SMap.get 0 m g.block) (s.launch g.launch).kernel.blockSize)) []
def State.freeBlock (s : State) (c k : Nat) (ker : Kernel) : Nat := lowestGap ker.blockSize 0 (s.blocksOn c k)

/-- The core loads tables into a context's from their sources, and records these (R77, R96). -/
def State.loadFrom (s : State) (c k : Nat) (tabs : List (Nat × Nat)) : State :=
  tabs.foldl (fun u t => u.modSlot k c fun x =>
    { x with tabs := (upFrom 0 256).foldl (fun m i => SMap.set 0 m (256 * t.1 + i) (wd (leNat (u.sysBytes k (t.2 + 4 * i) 4)))) x.tabs,
             sources := SMap.insert x.sources t.1 t.2 }) s

/-- The tables that a placement on a core loads: those that no resident grove of the context there carries already (R96). -/
def State.tablesNew (s : State) (c k : Nat) (ker : Kernel) : List (Nat × Nat) :=
  ker.tables.filter fun t => !s.groves.any fun kv =>
    let l := s.launch kv.2.launch
    kv.2.core == k && l.ctx == c && l.kernel.tables.contains t

/-- The poisoned byte of some codebook tables, by table and source, if any (R79). -/
def State.tablePoison (s : State) (tabs : List (Nat × Nat)) : Option Nat :=
  tabs.findSome? fun t => (upFrom t.2 1024).find? fun pa => s.poisonedAt (.mem pa)

/-- A placement of a grove of launch `l` on a core finds a poisoned codebook byte: the context receives a fatal machine check, and no further
grove of the launch is placed (R79). -/
def State.poisonedTable (s : State) (l c k pa : Nat) : State :=
  let d := dieOfCore k
  (s.modLaunch l fun y => { y with blocks := [] }).fatal d ⟨c, 0xFFFF, Cause.poison, 0, dw pa, (s.die d).cyc⟩

/-- `gang` of a launched stand (R76, R229). -/
def launchGang (ker : Kernel) (i : Nat) : Nat :=
  if ker.gangdef < 2 then ownGang i
  else
    let base := i / ker.gangdef * ker.gangdef
    let n := min ker.gangdef (ker.grovemax - base)
    (upFrom 0 n).foldl (fun x j => x + field (base + j) (8 * j)) (field n 48)

/-- The record of a launch leaves its queue when its first grove is placed (log entry 38). -/
def State.beginLaunch (s : State) (l : Nat) : State :=
  { s with queues := SMap.modify s.queues (s.launch l).queue fun q => { q with recs := q.recs.filter fun r => r.launch != some l } }

/-- Grove `g` of launch `l` starts on core `k` (R28, R30, R77, R115, R117, R260). A poisoned table instead halts the context (R79). -/
def State.startGrove (s : State) (l g k : Nat) : State :=
  let x := s.launch l
  let ker := x.kernel
  match s.tablePoison ker.tables with
  | some pa => s.poisonedTable l x.ctx k pa
  | none =>
    let block := s.freeBlock x.ctx k ker
    let s1 := ((s.beginLaunch l).takeSlot x.ctx k).loadFrom x.ctx k (s.tablesNew x.ctx k ker)
    let gid := s1.nextId
    let baton := fun (h : Nat) => if ker.ring = 0 ∨ h = 0xFF then none else some h
    let gv : Grove := { launch := l, g := g, core := k, units := ker.groveUnits, block := block, size := ker.grovemax, sbat := baton ker.sbat,
                        mbat := baton ker.mbat }
    let s2 := (s1.bump.setGrove gid gv).modCore k fun c => { c with units := c.units + ker.groveUnits }
    let s3 := s2.modSlot k x.ctx fun y => { y with s := y.s + ker.groveBytes }
    let idxs := (s3.freeIdx k).zip (upFrom 0 ker.grovemax)
    let s4 := s3.addStands k x.ctx gid ker 16 g (launchGang ker) idxs
    (s4.modLaunch l fun y => { y with cores := if y.cores.contains k then y.cores else y.cores ++ [k] }).yieldCore k

/-- Take grove `g` out of the blocks that wait. -/
def Launch.take (l : Launch) (g : Nat) : Launch :=
  let cut := l.blocks.map fun b => if b.left.contains g then { b with left := b.left.filter (· != g), touched := true } else b
  { l with blocks := cut.filter fun b => !b.left.isEmpty }

/-- What a new grove of a launch asks. -/
def Launch.demand (l : Launch) : Demand :=
  { units := l.kernel.groveUnits, stands := l.kernel.grovemax, bytes := l.kernel.groveBytes, hint := l.hint, slots := 0 }

/-! ### Launches in turn (R26, R28, R29, R382) -/

/-- Whether a launch still stands as a record in a broken queue, which gives no record out (R252). -/
def State.stuckRecord (s : State) (l q : Nat) : Bool :=
  match SMap.get? s.queues q with
  | some x => x.broken && x.recs.any fun r => r.launch == some l
  | none => false

/-- For each queue the first accepted launch that has a grove to place (R382). -/
def State.headLaunches (s : State) : SMap Nat :=
  (s.launches.filter fun kv => !kv.2.blocks.isEmpty && !s.stuckRecord kv.1 kv.2.queue).foldr (fun kv m => SMap.insert m kv.2.queue kv.1) []

/-- The heads in the order of service from queue `t` on. -/
def turnOrder (t : Nat) (m : SMap Nat) : SMap Nat := (m.filter fun kv => decide (t ≤ kv.1)) ++ m.filter fun kv => decide (kv.1 < t)

/-- The next grove that a die's distributor has of a launch (R26). -/
def Launch.nextOn (l : Launch) (die : Nat) : Option Nat := (l.blocks.find? fun b => b.die == die).bind (·.left.head?)

/-- Place the next grove of a launch without a level on a die, if a core admits it (R28). -/
def State.tryPlace (s : State) (die l : Nat) : Option State :=
  let x := s.launch l
  if x.level ≠ 0 ∨ (s.ctx x.ctx).state ≠ .admitted then none
  else (x.nextOn die).bind fun g => (s.chooseCore x.ctx x.kernel x.demand (coresOfDie die)).map fun k =>
    (s.modLaunch l fun y => y.take g).startGrove l g k

/-- Place every grove of a list on some cores, or none (R29); none after one that halts the context (R79). -/
def State.placeAll (s : State) (l : Nat) (cores : List Nat) : List Nat → Option State
  | [] => some s
  | g :: gs =>
    let x := s.launch l
    if (s.ctx x.ctx).state ≠ .admitted then some s
    else match s.chooseCore x.ctx x.kernel x.demand cores with
    | none => none
    | some k => ((s.modLaunch l fun y => y.take g).startGrove l g k).placeAll l cores gs

/-- The sets of cores, in order, on which a co-resident launch may lie (R29). -/
def levelCores (x : Ctx) (level : Nat) : List (List Nat) :=
  if level = 1 then x.dieList.flatMap fun d => (upFrom (d * Config.copses) Config.copses).map fun cp => upFrom (cp * Config.physPerCopse) Config.physPerCopse
  else if level = 2 then x.dieList.map coresOfDie
  else [x.dieList.flatMap coresOfDie]

/-- Place a co-resident launch whole (R29). -/
def State.tryColevel (s : State) (l : Nat) : Option State :=
  let x := s.launch l
  if x.level = 0 ∨ (s.ctx x.ctx).state ≠ .admitted then none
  else (levelCores (s.ctx x.ctx) x.level).findSome? fun cores => s.placeAll l cores (x.blocks.flatMap (·.left))

/-! ### Restored groves (R263, R381) -/

/-- Whether every redirected reply of a saved grove has been written, where lodge records may stay, and every tile of its stands has left its
drain path (R188, R262). -/
def State.slotsFilled (s : State) (sg : SavedGrove) : Bool :=
  s.outs.all fun kv => !(kv.2.orphan && sg.stands.any fun x => x.uid == kv.2.uid)
    || (match kv.2.work with
      | .det .lodged _ _ => true
      | .tile t => t.stage == .home
      | _ => kv.2.redirect.isNone)

/-- A stand whose image fails its checks starts at the handler; without one its context halts, and the stand stays saved (R263). -/
def State.failedRestore (s : State) (c key : Nat) (sg : SavedGrove) (x : SavedStand) (reason : Nat) : State :=
  let ker := (s.launch sg.grove.launch).kernel
  if ker.trapoff = 0 ∨ ker.trapen.getLsbD Cause.restore = false then
    s.fatal (dieOfCore (coreOf key)) ⟨c, s.gsi key, Cause.restore, 16, dw x.image, s.cycOf (coreOf key)⟩
  else
    let gang := if x.standid < ker.grovemax then launchGang ker x.standid else ownGang x.standid
    let st := newStand x.uid c sg.id x.standid ker 16 sg.grove.g gang (s.cycOf (coreOf key))
    let s1 := (s.modSlot (coreOf key) c fun y => { y with s := y.s + ker.standBytes }).setStand key st
    (s1.writeList key).enterHandler key 0 16 false { cause := Cause.restore, tval := dw x.image, tmask := 0, info := reason }

/-- The stand's local part at its new place (R122, R263). -/
def State.moveLocal (s : State) (c key : Nat) (x : SavedStand) : State :=
  match x.local_ with
  | some bs => s.putHomes ((s.ctx c).localPart key) bs
  | none => s

/-- A saved grove about to take core-local indices of core `k`: the local parts of its stands that move are read, all before any is written,
and those of other saved stands that it would write over are kept for them (R122, R263). -/
def State.takeLocals (s : State) (c k : Nat) (sg : SavedGrove) (idxs : List Nat) : State × SavedGrove :=
  let read := fun (x : SavedStand) (i : Nat) =>
    let old := sg.grove.core * 64 + x.idx
    if x.local_.isSome ∨ old = k * 64 + i then x
    else { x with local_ := some (s.homeBytes ((s.ctx c).localPart old) (32 * (s.ctx c).locsz)) }
  (idxs.foldl (fun u i => u.stashLocal c k i) s, { sg with stands := (sg.stands.zip idxs).map fun p => read p.1 p.2 })

/-- One stand of a saved grove resumes at a core-local index, or fails its checks (R159, R263, R379). Its `accref` starts again at 0: the image holds
none (DESIGN CHOICE; log entry 100). -/
def State.restoreStand (s : State) (c key : Nat) (sg : SavedGrove) (x : SavedStand) : State :=
  let k := coreOf key
  let ker := (s.launch sg.grove.launch).kernel
  let img := s.imageAt x.image
  match imageCheck ker (s.ctx c) img with
  | reason + 1 => s.failedRestore c key sg x (reason + 1)
  | 0 =>
    let s1 := s.modSlot k c fun y => { y with s := y.s + s.savedBytes ker x }
    let base := newStand x.uid c sg.id x.standid ker 16 0 0 (s.cycOf k)
    let s2 := ((s1.setStand key base).moveLocal c key x).takeImage key ker img fun i => x.image + i
    let s3 := s2.modStand key fun st => { st with armed := x.armed, replays := st.replays ++ x.again.map fun r => { r with ins := s2.insAt key r.pc } }
    if s.imagePlace k (s.grove sg.id) x.standid = x.image then s3 else s3.writeList key

/-- The stands of a saved grove resume in turn. Where one halts the context, it and those after it stay saved, as stands of the grove where
that now lies (R263). -/
def State.restoreStands (s : State) (c k : Nat) (sg : SavedGrove) : List (SavedStand × Nat) → State
  | [] => s
  | (x, i) :: rest =>
    let t := s.restoreStand c (k * 64 + i) sg x
    if (t.ctx c).state = .halted then
      let left := ((x, i) :: rest).map fun p => { p.1 with idx := p.2 }
      let g := s.grove sg.id
      t.modCtx c fun y => { y with saved := y.saved ++ [{ sg with grove := { g with scratch := [] }, stands := left, scr := s.scratchPlace k g }] }
    else t.restoreStands c k sg rest

/-- The stands of a saved grove that have resumed take the traps that their redirected replies were (R218; log entry 32); where the first of these halts the
context, the others keep theirs. -/
def State.raiseOwed (s : State) (c : Nat) (l : List SavedStand) : State :=
  l.foldl (fun u x => x.owed.foldl (fun u t => match u.keyOfUid x.uid with
    | some key =>
      let m := (u.stand key).em t.path
      (((u.stand key).pathFor t.path m).map fun i => u.takeTrap key i t.pc false { cause := t.cause, tval := t.tval, tmask := m }).getD u
    | none => u.modCtx c fun y => { y with saved := y.saved.map fun g => { g with stands := g.stands.map fun z =>
        if z.uid = x.uid then { z with owed := z.owed ++ [t] } else z } }) u) s

/-- The tables that a restored grove loads again on a core: those with a source recorded at the halt, and none recorded there since (R96; log
entry 88). -/
def State.tablesBack (s : State) (c k : Nat) (sg : SavedGrove) : List (Nat × Nat) :=
  sg.sources.filter fun t => (SMap.get? (s.ctxSlot k c).sources t.1).isNone

/-- Put a saved grove on a core (R263, R381): its tables, its scratchpad, and its stands at the indices given. A poisoned byte of a table
instead halts the context (R79). -/
def State.restoreGrove (s : State) (c k : Nat) (sg0 : SavedGrove) (idxs : List Nat) : State :=
  match s.tablePoison (s.tablesBack c k sg0) with
  | some pa => s.poisonedTable sg0.grove.launch c k pa
  | none =>
    let (s0, sg) := (s.modCtx c fun x => { x with saved := x.saved.filter fun g => !(g == sg0) }).takeLocals c k sg0 idxs
    let ker := (s.launch sg.grove.launch).kernel
    let s1 := ((s0.acquireCore k 5).takeSlot c k).loadFrom c k (s.tablesBack c k sg)
    let block := if sg.grove.core = k then sg.grove.block else s.freeBlock c k ker
    let scratch := SMap.setMany 0 [] 0 (s1.homeBytes sg.scr ker.scratch)
    let s2 := if (SMap.get? s.groves sg.id).isSome then s1
      else ((s1.setGrove sg.id { sg.grove with core := k, block := block, scratch := scratch }).modCore k fun x => { x with units := x.units + sg.grove.units }).modSlot k c
        fun y => { y with s := y.s + ker.scratch }
    let s3 := s2.modLaunch sg.grove.launch fun y => { y with cores := if y.cores.contains k then y.cores else y.cores ++ [k] }
    ((s3.restoreStands c k sg (sg.stands.zip idxs)).raiseOwed c (sg.stands.filter fun x => imageCheck ker (s.ctx c) (s.imageAt x.image) == 0)).yieldCore k

/-- The saved groves of a context that a restore still has to place: those of a restore command, and those of a core that left service
while no other took its place (R267, R286). -/
def Ctx.waiting (x : Ctx) : List SavedGrove :=
  if x.state = .restoring ∨ x.state = .admitted then x.saved.filter fun g => g.onto.isNone else []

/-- Place a saved grove on the cores given, as a new grove of its launch (R381). -/
def State.seatGrove (s : State) (c : Nat) (cores : List Nat) (sg : SavedGrove) : Option State :=
  let cores := match SMap.get? s.groves sg.id with
    | some g => [g.core]
    | none => cores
  if !s.slotsFilled sg then none
  else (s.chooseCore c (s.launch sg.grove.launch).kernel (s.savedDemand sg) cores).map fun k => s.restoreGrove c k sg (s.freeIdx k)

/-- Place saved groves together (R29, R381); none after one that halts the context (R79). -/
def State.seatAll (s : State) (c : Nat) (cores : List Nat) : List SavedGrove → Option State
  | [] => some s
  | g :: gs => (s.seatGrove c cores g).bind fun t => if (t.ctx c).state = .halted then some t else t.seatAll c cores gs

/-- A restoring context whose last grove is placed is admitted (R381). -/
def State.settleRestore (s : State) (c : Nat) : State :=
  if (s.ctx c).state = .restoring ∧ (s.ctx c).saved = [] then s.modCtx c fun x => { x with state := .admitted } else s

/-- Whether a core has as many operand slots free as the images of a saved grove bind (R222). -/
def State.slotsBack (s : State) (k : Nat) (g : SavedGrove) : Bool :=
  decide ((s.core k).oslots.length + (s.savedDemand g).slots ≤ Config.slotsPerCore)

/-- The next saved grove that returns to its core on a die and is ready to, with its operand slots free there: a coppice drain's, or, if `debug` is set,
one that the debugger halted. -/
def State.returnOne (s : State) (die : Nat) (debug : Bool) : Option State :=
  s.ctxs.findSome? fun kv => if kv.2.state ≠ .admitted ∧ kv.2.state ≠ .restoring then none
    else kv.2.saved.findSome? fun g => match g.onto with
      | some k =>
        if dieOfCore k = die ∧ s.slotsFilled g = true ∧ s.slotsBack k g = true ∧ (g.stands.all fun x => s.homeNat (x.image + 6) 2 != 1) = !debug then
          some (s.restoreGrove kv.1 k g (g.stands.map (·.idx)))
        else none
      | none => none

/-- The next saved grove that a die's distributor can place: one that returns to its core, else the first waiting one that some core of
the die admits; those of a co-resident launch come together (R381). What the debugger restores comes last (R272). -/
def State.restoreOne (s : State) (die : Nat) (debug : Bool) : Option State :=
  let placed := match s.returnOne die false with
  | some t => some t
  | none => s.ctxs.findSome? fun kv => kv.2.waiting.findSome? fun g =>
    let l := s.launch g.grove.launch
    (if l.level = 0 then s.seatGrove kv.1 (coresOfDie die) g
     else
       let all := kv.2.waiting.filter fun x => x.grove.launch == g.grove.launch
       (levelCores kv.2 l.level).findSome? fun cores => s.seatAll kv.1 cores all).map fun t => t.settleRestore kv.1
  match placed with
  | some t => some t
  | none => if debug then s.returnOne die true else none

end Sys2Proof.Machine
end

