-- ==== Sys2Proof/Machine/Sys.lean ====
section
/-! DEFINITION. The system instructions: TMARK (R375), VRES and VREL (R155–R157), PTST and PTLD (R304, R305). -/

namespace Sys2Proof.Machine

/-- TMARK (R275, R375). -/
def execTmark (h : Hdr) (a : SReg) (s : State) : Out? :=
  gate (.tmark h a) s fun e s =>
    e.commit (s.traceRec e.key e.idx Tr.mark (natLe e.pc.toNat 4 ++ natLe 0 2 ++ natLe (e.s a).toNat 8))

/-- VRES (R157): the check of R151 and R152 with nothing drawn. -/
def execVres (h : Hdr) (a : SReg) (s : State) : Out? :=
  gate (.vres h a) s fun e s =>
    let k := (e.s a).toNat
    match checkCharge s e.key e.idx Cls.grow k 0 with
    | .exceed tval _ => e.raise s Cause.vxexceed tval
    | .stall => e.wait ((s.modSlot e.core e.st.ctx (enstall e.key e.idx k)).modStand e.key fun st => { st with stalled := true }) .vacate
    | .ok _ =>
      let s1 := s.modSlot e.core e.st.ctx fun x => { unstall e.key e.idx x with q := x.q + k }
      e.commit (s1.modStand e.key fun st => { st with avail := st.avail + k })

/-- VREL (R155, R157): what is drawn of the stand's reservation, by whichever operation of its gang, is no longer returned. -/
def execVrel (h : Hdr) (s : State) : Out? :=
  gate (.vrel h) s fun e s =>
    let s1 := s.modSlot e.core e.st.ctx fun x => { x with q := x.q - e.st.avail }
    let s2 := s1.modStand e.key fun st => { st with avail := 0, lent := 0 }
    e.commit { s2 with outs := s2.outs.map fun kv => if kv.2.payer.getD kv.2.uid == e.st.uid then (kv.1, { kv.2 with drawn := 0 }) else kv }

/-! ### PTST and PTLD -/

/-- The 16-byte pieces of an image at `va`. -/
def imagePieces (k : Kernel) (va : DWord) : List (Nat × DWord) := (upFrom 0 (k.imageSize / 16)).map fun i => (0, va + dw (16 * i))

/-- What PTST and PTLD ask of an image (R304, R305). -/
def imageNeed (load : Bool) : Need :=
  { width := fun _ => 16, load := load, store := !load, needP := true, home := true, fmtOk := fun f _ => f == ET.b32, win := fun _ => false }

/-- Physical address of byte `i` of an image whose pieces lie at `pas`. -/
def pieceAddr (pas : List Nat) (i : Nat) : Nat := pas.getD (i / 16) 0 + i % 16

/-- Whether the stand's counters are zero, no token is pending and no tile of it is in the drain path (R304). -/
def State.drained (s : State) (st : Stand) : Bool :=
  decide (st.loads = 0 ∧ st.stores = 0 ∧ st.copies = 0 ∧ st.tiles = 0 ∧ st.tokmask = 0)
    && !(s.outsOf st.uid).any fun kv => match kv.2.work with
      | .tile t => t.stage != .home
      | _ => false

/-- The bytes of some parts of an image, by offset. -/
def partBytes (parts : List (Nat × List Byte)) : List (Nat × Byte) := parts.flatMap fun p => (upFrom p.1 p.2.length).zip p.2

/-- The stand as PTST's image holds it: it resumes at the next word with 1 in the status scalar, and a region that PTST lies outside of has
ended (R258, R304). -/
def Env.sealed (e : Env) (d : SReg) : Stand :=
  { (e.st.modPath e.idx fun p => { p with pc := e.pc + 1, pub := none, part := none, parked := none }).setS d.toNat 1 with
    region := regionAt e.pc e.st.region }

/-- The parts of PTST's image that come from the stand's state, the header first (R260, R261, R304). -/
def Env.imageParts (e : Env) (s : State) (d : SReg) : List (Nat × List Byte) :=
  let st := e.sealed d
  (0, s.imageHeader e.key st 3 0 0) :: s.commonParts e.key st e.ker ++ [(e.ker.offTail + 16, st.listBytes)]

/-- The absent parts of an image, which PTST writes as zero: unbound slot names, unused residual slots, and the record places (R261, R304). -/
def Stand.absentParts (st : Stand) (k : Kernel) : List (Nat × List Byte) :=
  (((upFrom 0 k.nslot).filter fun i => (SMap.get? st.oslots i).isNone).map fun i => (k.offSlots + 4128 * i, List.replicate 4128 0))
    ++ (((upFrom 0 k.nres).filter fun i => (SMap.get? st.residuals i).isNone).map fun i => (k.offRes + 4160 * i, List.replicate 4160 0))
    ++ [(k.offRecords, List.replicate (k.imageSize - k.offRecords) 0)]

/-- The byte at an offset of an image that some part gives. -/
def partAt (i : Nat) : List (Nat × List Byte) → Option Byte
  | [] => none
  | p :: ps => if p.1 ≤ i then match p.2[i - p.1]? with
      | some b => some b
      | none => partAt i ps
    else partAt i ps

/-- PTST's image: the parts it writes, with `icrc` last, beside what the homes hold of the parts that the stand has spilled (R304). -/
def Env.imageWrites (e : Env) (s : State) (d : SReg) (pas : List Nat) : List (Nat × Byte) :=
  let parts := e.imageParts s d ++ (e.sealed d).absentParts e.ker
  let img := fun (i : Nat) => match partAt i parts with
    | some b => b
    | none => s.homeByte (pieceAddr pas i)
  partBytes parts ++ (upFrom 0xFC 4).zip (natLe (imageCrc e.ker img) 4)

/-- PTST (R304). The image is written as one store at system scope. -/
def execPtst (h : Hdr) (d a : SReg) (s : State) : Out? :=
  gate (.ptst h d a) s fun e s =>
    let va := e.s a
    if DWord.bits va 63 60 ≠ 0 then e.raise s Cause.prot va
    else if va.toNat % 64 ≠ 0 then e.raise s Cause.misalign va
    else if !e.st.alone e.idx then e.illegal s
    else if !s.drained e.st then e.wait s .counter
    else match s.access e.key true (imageNeed false) (imagePieces e.ker va) with
      | (s1, .trap c v _) => e.trapFor s1 c (e.flatTval c v) e.em
      | (s1, .go accs rest low) =>
        if rest ≠ 0 then e.park s1 e.em low none
        else match e.path.pub with
          | none =>
            let s2 := s1.startRelease e.key 5 false
            e.wait (s2.modStand e.key fun st => st.modPath e.idx fun p => { p with pub := some (s2.nextId - 1) }) .publication
          | some id =>
            if s1.pubs.any (·.id == id) then e.wait s1 .publication
            else
              let pas := rowPas accs
              let spilled := (e.st.spillParts e.ker).flatMap fun p => upFrom p.1 p.2.length
              match spilled.find? fun i => s1.poisonedAt (.mem (pieceAddr pas i)) with
              | some i => e.raise s1 Cause.poison (va + dw i)
              | none =>
                let wr := (e.imageWrites s1 d pas).map fun b => (⟨.mem (pieceAddr pas b.1), va + dw b.1, b.2, 0xFF⟩ : Wr)
                let o := { e.op s1 Cls.pipe 0 0 0 .stores e.em (.store wr (some 5)) with mode := 0, remote := s1.remoteOf (accs.map (·.pl)) }
                e.commit ((s1.issue o).modStand e.key fun st =>
                  (st.modPath e.idx fun p => { p with pub := none }).setS d.toNat 0)

/-- PTLD (R305): the charge is that of the header that the image shows now. The path stays at the PTLD until the image is loaded: the word
after it runs only if the loaded path table names it. -/
def execPtld (h : Hdr) (a : SReg) (s : State) : Out? :=
  gate (.ptld h a) s fun e s =>
    let va := e.s a
    if DWord.bits va 63 60 ≠ 0 then e.raise s Cause.prot va
    else if va.toNat % 64 ≠ 0 then e.raise s Cause.misalign va
    else if s.tagsHeld e.st.uid then e.wait s .counter
    else match s.access e.key true (imageNeed true) (imagePieces e.ker va) with
      | (s1, .trap c v _) => e.trapFor s1 c (e.flatTval c v) e.em
      | (s1, .go accs rest low) =>
        if rest ≠ 0 then e.park s1 e.whole low none
        else if !e.st.alone e.idx || !e.st.oslots.isEmpty || !e.st.residuals.isEmpty || !e.st.members.isEmpty || e.st.inHandler.isSome then
          e.illegal s1
        else if !s1.drained e.st || s1.acqHeld e.st.uid || s1.readHeld e.st.uid then e.wait s1 .counter
        else
          let pas := rowPas accs
          let img := fun (i : Nat) => s1.pocByte e.core 5 (pieceAddr pas i)
          let b := imgGrowth e.ker img
          e.charge s1 Cls.replay Config.chargeReplay b fun s2 drawn =>
            let o := { e.op s2 Cls.replay Config.chargeReplay drawn b .loads e.whole (.ptld pas) with
              mode := 0, remote := s2.remoteOf (accs.map (·.pl)) }
            .next (if e.replay then e.done (s2.issue o) else e.leave (s2.issue o))

end Sys2Proof.Machine
end

