-- ==== Sys2Proof/Machine/Task.lean ====
section
/-! DEFINITION. The queue, task and chain instructions at issue (R240, R245, R248, R251). -/

namespace Sys2Proof.Machine

/-- The 64 bytes of the eight scalars from `r` up, least register first (R245). -/
def Env.record (e : Env) (r : SReg) : List Byte := (upFrom 0 8).flatMap fun i => natLe (e.s (BitVec.ofNat 6 (r.toNat + i))).toNat 8

/-- A queue operation: the checks of R205, then the register range (R245). -/
def Env.queueOp (e : Env) (s : State) (a : HReg) (right : Nat) (b : SReg) (enq : Bool) : Out? :=
  let x := e.h a
  match e.handleTrap a 2 right with
  | some c => e.raise s c x
  | none =>
    if 55 < b.toNat then e.illegal s
    else
      let sc := (s.queueOf x).map (·.scope)
      e.afterAcq s <| e.detach s .detached (if enq then sc else none) (if enq then none else sc) { handle := x, bytes := if enq then e.record b else [] }

/-- QENQ (R245): a release at the queue's scope. -/
def execQenq (h : Hdr) (d : SReg) (a : HReg) (b : SReg) (s : State) : Out? :=
  gate (.qenq h d a b) s fun e s => e.queueOp s a 0 b true
/-- QDEQ (R245): an acquire at the queue's scope after its reply. -/
def execQdeq (h : Hdr) (d : SReg) (a : HReg) (b : SReg) (s : State) : Out? :=
  gate (.qdeq h d a b) s fun e s => e.queueOp s a 1 b false
/-- QSTEAL (R245). -/
def execQsteal (h : Hdr) (d : SReg) (a : HReg) (b : SReg) (s : State) : Out? :=
  gate (.qsteal h d a b) s fun e s => e.queueOp s a 2 b false

/-- An operation on a line at its home: the alignment, the waits before an access (R172, R173, R374), the checks of R131, then the operation
(R248, R251). -/
def Env.lineOp (e : Env) (s : State) (va : DWord) (align : Nat) (nd : Need) (rel acq : Option Nat) : Out? :=
  if va.toNat % align ≠ 0 then e.raise s Cause.misalign va
  else match e.accessWait s nd.load false with
  | some w => e.wait s w
  | none => match s.access e.key true nd [(0, va)] with
    | (s1, .trap c v _) => e.trapFor s1 c (e.flatTval c v) e.em
    | (s1, .go accs rest low) =>
      if rest ≠ 0 then e.park s1 e.em low none
      else e.detach s1 .detached rel acq { val := va, pa := (rowPas accs).headD 0 } (s1.remoteOf (accs.map (·.pl)))

/-- What TDONE asks of a counter line (R250, R251). -/
def tdoneNeed : Need :=
  { width := fun _ => 64, load := true, store := true, home := true, fmtOk := fun f _ => f == ET.b32, win := fun _ => false }
/-- What the buffer instructions ask of a buffer's first line (R248). -/
def bufferNeed (load : Bool) : Need :=
  { width := fun _ => 64, load := load, store := !load, home := true, fmtOk := fun _ _ => true, win := fun _ => false }

/-- TDONE (R251): a release at `mode.SCOPE`. -/
def execTdone (h : Hdr) (d a : SReg) (s : State) : Out? :=
  gate (.tdone h d a) s fun e s =>
    let va := if a = 63 then e.st.taskrec else e.s a
    if va = 0 then e.commit (s.modStand e.key fun st => st.setS d.toNat 0)
    else e.lineOp s va 64 tdoneNeed (some (modeScope e.st.mode)) none

/-- TFULL (R248): a release at `mode.SCOPE`. -/
def execTfull (h : Hdr) (d a : SReg) (s : State) : Out? :=
  gate (.tfull h d a) s fun e s => e.lineOp s (e.s a) 65536 (bufferNeed false) (some (modeScope e.st.mode)) none
/-- TEMPTY (R248). -/
def execTempty (h : Hdr) (d a : SReg) (s : State) : Out? :=
  gate (.tempty h d a) s fun e s => e.lineOp s (e.s a) 65536 (bufferNeed false) (some (modeScope e.st.mode)) none
/-- TSTAT (R248): with ORD acquire, an acquire at `mode.SCOPE`. -/
def execTstat (h : Hdr) (d a : SReg) (s : State) : Out? :=
  gate (.tstat h d a) s fun e s =>
    e.lineOp s (e.s a) 65536 (bufferNeed true) none (if modeAcq e.st.mode then some (modeScope e.st.mode) else none)

/-! ### Chains -/

/-- CHAPP (R240). -/
def execChapp (h : Hdr) (d : SReg) (a : HReg) (b : SReg) (s : State) : Out? :=
  gate (.chapp h d a b) s fun e s =>
    match e.handleTrap a 3 0 with
    | some c => e.raise s c (e.h a)
    | none =>
      if 55 < b.toNat then e.illegal s
      else e.afterAcq s <| e.detach s .detached none none { handle := e.h a, bytes := e.record b }

/-- CHADV (R240): a release at the chain's scope; the tail moves when its publication is complete. -/
def execChadv (h : Hdr) (a : HReg) (s : State) : Out? :=
  gate (.chadv h a) s fun e s =>
    match e.handleTrap a 3 0 with
    | some c => e.raise s c (e.h a)
    | none => match s.chainOf (e.h a) with
      | none => e.commit s
      | some c =>
        if !s.accessesDone e.st.uid then e.wait s .counter
        else
          let s1 := s.startRelease e.key c.scope false
          e.commit { s1 with pubs := s1.pubs.map fun p => if p.id = s1.nextId - 1 then { p with chain := some (handleKey (e.h a), handleGen (e.h a)) } else p }

/-- CHSEQ (R187, R240): `mode.ORD` at `mode.SCOPE`. -/
def execChseq (h : Hdr) (d : SReg) (a : HReg) (s : State) : Out? :=
  gate (.chseq h d a) s fun e s =>
    match e.handleTrap a 3 1 with
    | some c => e.raise s c (e.h a)
    | none =>
      let sc := some (modeScope e.st.mode)
      e.afterAcq s <| e.detach s .detached (if modeRel e.st.mode then sc else none) (if modeAcq e.st.mode then sc else none) { handle := e.h a }

end Sys2Proof.Machine
end

