-- ==== Sys2Proof/Machine/Channel.lean ====
section
/-! DEFINITION. The channels between copses and homes: which homes an operation asks, when its requests may leave, the order in which a home
serves them, and what comes of an operation that a home has served (R178, R276–R280). -/

namespace Sys2Proof.Machine

/-- Go on only if `c` holds. -/
@[inline] def due (c : Bool) (f : Option State) : Option State := if c then f else none

/-- Whether a non-returning atomic may rest in the combining buffer (R175). -/
def Out.rests (o : Out) : Bool :=
  o.ctr == .stores && modeOrd o.mode == 0 && !o.orphan && (match o.ins with
    | .acas .. => false
    | _ => true)

/-! ### The homes that an operation asks (R276) -/

/-- The home of a place; a tag has its granule's. -/
def Place.home : Place → Option Nat
  | .mem pa => homeOf (dataLine pa)
  | .scr _ _ => none
/-- The homes of some places, each once, in their order. -/
def homesOf (ps : List Place) : List Nat := (ps.filterMap Place.home).eraseDups
/-- The home slice of a word of an atomic; none for a scratchpad. -/
def AWord.home (w : AWord) : Option Nat :=
  match w.pl with
  | .mem pa => homeOf pa
  | .scr _ _ => none

/-- Whether core `k` reads a place at the point of coherence of scope `sc` without asking its home (R168, R173). -/
def State.near (s : State) (k sc : Nat) : Place → Bool
  | .scr _ _ => true
  | .mem pa =>
    let l := (s.core k).line pa
    let m := (s.copse (copseOfCore k)).line pa
    (decide (sc ≤ 1) && (l.has (lineOff pa) || m.has (lineOff pa))) || (decide (sc = 2) && (l.isDirty (lineOff pa) || m.has (lineOff pa)))

/-- The home at which an operation on an object or a line performs: the line's; for an object without a line, a slice of its die that its
index names (R208; log entry 68). -/
def State.objectHome (s : State) (o : Out) (ask : Ask) : Nat :=
  let slice := s.devid * 128 + handleDie ask.handle * Config.homesPerDie + handleIndex ask.handle % Config.homesPerDie
  match o.ins with
  | .tdone .. | .tfull .. | .tempty .. | .tstat .. | .gcrt .. => (homeOf ask.pa).getD slice
  | i => if (groupRegOf i).isSome then ((s.groupOf ask.handle).bind fun g => homeOf g.pa).getD slice else slice

/-- The homes that an operation's accesses reach. -/
def State.homesAsked (s : State) (o : Out) : List Nat :=
  let far := fun (sc : Nat) (ps : List Place) => homesOf (ps.filter fun p => !s.near (coreOf o.st) sc p)
  match o.work with
  | .load .. | .sload _ | .tagget _ | .cbld .. =>
    far ((orderedScope o.mode).getD 0) (o.footprint.filter fun p => match p with
      | .mem pa => (SMap.get? o.seen pa).isNone
      | .scr _ _ => false)
  | .store wr sc => if o.orphan || decide (3 ≤ sc.getD 0) then homesOf (wr.map (·.pl)) else []
  | .discard _ ts => homesOf ((ts.take 1).map Place.mem)
  | .copy mv slot _ out =>
    far (modeScope o.mode) (mv.map (·.1) ++ (slot.map fun x => x.2.scaleSrc.map Place.mem).getD [])
      ++ (if out && decide (3 ≤ modeScope o.mode) then homesOf (mv.map (·.2)) else [])
  | .ald rows => homesOf (rows.map Place.mem)
  | .ptld pas => homesOf (pas.map Place.mem)
  | .tile t => if t.ast then homesOf (t.rows.map Place.mem) else [t.home]
  | .det _ ask _ => [s.objectHome o ask]
  | .atomic ws .. => if o.rests then [] else (ws.filterMap AWord.home).eraseDups
  | _ => []
/-- Those that have not served it yet. -/
def State.needs (s : State) (o : Out) : List Nat := (s.homesAsked o).filter fun h => !o.gone.contains h

/-- Whether a home keeps a tile's place as a flush-class one (R196). -/
def State.asFlush (s : State) (op : Nat) (t : Tile) : Bool := (s.home t.home).tiles.any fun x => x.op == op && x.flush

/-- The requests of an operation on the data parts of its homes that no home has served: the home, and which of its packets. A word of an
atomic, a tile's header and its payload are packets of their own (log entry 68). Flush-class requests go by the reserved part (R276). -/
def State.asks (s : State) (op : Nat) (o : Out) : List (Nat × Nat) :=
  let whole := (s.needs o).map (·, 0)
  match o.work with
  | .atomic ws .. => if o.rests then [] else ((upFrom 0 ws.length).zip ws).filterMap fun p => if p.2.done then none else p.2.home.map (·, p.1)
  | .tile t =>
    match t.ast, t.stage with
    | true, .home => whole
    | false, .offered => [(t.home, 0)]
    | false, .granted => if s.asFlush op t then [] else [(t.home, 1)]
    | _, _ => []
  | .det .sent _ _ => whole
  | .det .. => []
  | _ => whole

/-- Whether what an operation does next crosses the understory or the fibres. -/
def State.onFabric (s : State) (o : Out) : Bool :=
  match o.work with
  | .det .. | .tile _ => true
  | .atomic .. => !o.rests
  | _ => !(s.homesAsked o).isEmpty
/-- Whether traffic of an operation is carried: by a partition that is up, and over some path to its Pelfold (R280, R281). -/
def State.carried (s : State) (o : Out) : Bool := !s.onFabric o || s.links o.remote

/-! ### When a request may leave -/

/-- The first operation of the instruction that an operation belongs to; itself where that has gone. -/
def State.leadOf (s : State) (o : Out) : Out := (o.lead.bind (SMap.get? s.outs)).getD o
/-- Whether what an operation carries in its charge may be released now (R293). -/
def State.ripe (s : State) (o : Out) : Bool := s.mature (s.leadOf o)
/-- Whether a later operation carries lanes of an operation's instruction. -/
def State.followed (s : State) (op : Nat) : Bool := s.outs.any fun kv => kv.2.lead == some op
/-- Whether something of an operation is still to do: an idle one waits for other lanes, but where it had none at all. -/
def State.toDo (s : State) (op : Nat) (o : Out) : Bool := !o.work.idle || (o.lead.isNone && !o.more && !s.followed op)
/-- Whether every lane of an instruction's earlier issue is written, before one of a later issue is (log entry 23). -/
def State.leadDone (s : State) (o : Out) : Bool := match o.lead.bind (SMap.get? s.outs) with
  | some x => x.work.idle
  | none => true

/-- Whether an earlier copy or OLD of the same streamer queue has not completed (R181). -/
def State.streamBefore (s : State) (uid op : Nat) : Bool :=
  (s.outsOf uid).any fun kv => decide (kv.1 < op) && (match kv.2.work with
    | .copy .. | .old .. => true
    | _ => false)
/-- The bytes of a copy: those it reads, with the scales of a slot fill, and those it writes. -/
def copyPlaces (mv : List (Place × Place)) : Option (Nat × OpSlot) → List Place
  | some x => mv.map (·.1) ++ x.2.scaleSrc.map Place.mem
  | none => mv.map (·.1) ++ mv.map (·.2)
/-- Whether an earlier MMA or ALD of the stand that names accumulator `d` has not written it (R227, R311). -/
def State.accBefore (s : State) (uid op d : Nat) : Bool :=
  (s.outsOf uid).any fun kv => decide (kv.1 < op) && (match kv.2.ins with
    | .mma _ x _ _ => x.toNat == d
    | .ald _ x _ _ => x.toNat == d
    | _ => false)

/-- Whether a QENQ of a stand goes to the controller of another die, as a message (R247). -/
def Out.isRemoteQenq (o : Out) (ask : Ask) : Bool :=
  match o.ins with
  | .qenq .. => handleDie ask.handle != dieOfCore (coreOf o.st)
  | _ => false

/-- Whether a detached operation may perform at its home: after its release; on an object after the stand's earlier operations on it; on a
line after its earlier accesses; and where it can lodge, 16 cycles after its issue (R162, R172, R293). -/
def State.detReady (s : State) (op : Nat) (o : Out) (ask : Ask) : Bool :=
  !s.pubBefore o.uid op && (match o.ins with
    | .tdone .. | .tfull .. | .tempty .. | .tstat .. => !s.earlierAccess o.uid op ((Place.mem ask.pa).span 64)
    | .qenq .. | .qdeq .. | .qsteal .. | .chapp .. | .chseq .. => !s.objBefore o.uid op (handleKey ask.handle)
    | _ => s.mature o && !s.objBefore o.uid op (handleKey ask.handle))

/-- Whether everything that an operation waits for in its core and its stand has come, so that its requests may leave. -/
def State.canGo (s : State) (op : Nat) (o : Out) : Bool :=
  match o.work with
  | .load .. | .sload _ | .tagget _ | .pref | .ptld _ => s.mayPerform op o false && !o.spec && s.ripe o && s.leadDone o && s.toDo op o
  | .store .. => s.mayPerform op o true && !o.spec && s.toDo op o
  | .discard _ ts => !s.pubBefore o.uid op && !s.earlier o.uid op Out.storesMem && !(ts.head?.map (s.earlierInTile o.uid op)).getD false
  | .cbld .. => s.ripe o && s.mayPerform op o false
  | .ald _ => s.ripe o && s.mayPerform op o false && (match o.ins with
    | .ald _ d _ _ => !s.accBefore o.uid op d.toNat
    | _ => false)
  | .copy mv slot _ _ =>
    !o.spec && s.ripe o && !s.streamBefore o.uid op && !s.pubBefore o.uid op && !s.earlierAccess o.uid op (copyPlaces mv slot)
      && !s.earlier o.uid op Out.anyScratch && (match slot with
        | some (p, _) => !s.mmaBefore (coreOf o.st) p op
        | none => true)
  | .tile t => t.ast && t.stage == .home && s.mayPerform op o true
  | .det .sent ask _ => s.detReady op o ask
  | _ => false
/-- Whether one packet of an operation may leave. -/
def State.mayAsk (s : State) (op : Nat) (o : Out) (sub : Nat) : Bool :=
  match o.work with
  | .atomic ws .. => match ws[sub]? with
    | some w => !s.earlierAccess o.uid op (w.pl.span 4) && !s.pubBefore o.uid op
    | none => false
  | .tile t => if t.ast then s.canGo op o else sub == 0 || s.mature o
  | _ => s.canGo op o

/-- Flits of a packet: a payload has 32 of data beside its header, another packet is one (R277, R281; log entry 68). -/
def packetFlits (o : Out) (sub : Nat) : Nat :=
  match o.work with
  | .tile _ => if sub = 1 then 33 else 1
  | _ => 1

/-! ### The order at a home (R178, R277, R278) -/

/-- The requests of a home's queue that it still has to serve, by arrival. -/
def State.queued (s : State) (home : Nat) : List Arrived :=
  (s.home home).arrived.filter fun a => match SMap.get? s.outs a.op with
    | none => false
    | some o => (s.asks a.op o).contains (home, a.sub)

/-- The request that a home serves next: one that 64 later arrivals have passed, else the lowest slack among those with no earlier request
of their core before them, then the earliest (R278). -/
def nextServed (l : List Arrived) : Option Arrived :=
  match l.find? fun a => decide (64 ≤ a.passed) with
  | some a => some a
  | none =>
    let firsts := l.foldl (fun acc a => if acc.any fun (b : Arrived) => b.core == a.core then acc else acc ++ [a]) []
    firsts.foldl (fun best a => match best with
      | none => some a
      | some b => if a.slack < b.slack then some a else some b) none

/-- Whether a request may perform at its home: it has captured the channel's token, or for a home of another Pelfold crossed the fibres
in the order in which its core sent it, and is next in the queue (R178, R277, R278). -/
def State.homeTurn (s : State) (home op sub : Nat) : Bool := (nextServed (s.queued home)).any fun a => a.op == op && a.sub == sub

/-- A request is served: those that arrived before it have been passed once more. -/
def State.serve (s : State) (home op sub : Nat) : State :=
  let l := s.queued home
  let before := l.takeWhile fun a => !(a.op == op && a.sub == sub)
  let rest := (l.drop before.length).drop 1
  s.modHome home fun h => { h with arrived := (before.map fun a => { a with passed := a.passed + 1 }) ++ rest }

/-- Those of an operation's homes where its request is next. -/
def State.turns (s : State) (op : Nat) (o : Out) : List Nat := (s.needs o).filter fun h => s.homeTurn h op 0
/-- Some homes serve an operation. -/
def State.serveAll (s : State) (op : Nat) (hs : List Nat) : State := hs.foldl (fun u h => u.serve h op 0) s

/-- What an operation does when its homes have served it: it performs with the last of them; what each serves earlier is only marked, and
nothing of it is seen before (log entry 68). While `hold` stands it does not perform, and yet leaves its homes free for others. -/
def State.through (s : State) (op : Nat) (o : Out) (hold : Bool) (f : State → Option State) : Option State :=
  let hs := s.turns op o
  if hs = s.needs o ∧ hold = false then f (s.serveAll op hs)
  else due (!hs.isEmpty) (some ((s.serveAll op hs).setOut op { o with gone := o.gone ++ hs }))

end Sys2Proof.Machine
end

