-- ==== Sys2Proof/Machine/EvMem.lean ====
section
/-! DEFINITION. What memory operations do after issue: data returns, stores perform, atomics reach their homes, the combining
buffer, publications (R48, R131, R172, R175, R179, R200, R208, R308, R309, R346, R366, R371, R373). An event that is not due
changes nothing. -/

namespace Sys2Proof.Machine

/-- An event: what it does if it is due. -/
def event (s : State) (f : Option State) : Out? := .next (f.getD s)

/-- Whether a place lies in memory. -/
def Place.inMem : Place → Bool
  | .mem _ => true
  | .scr _ _ => false

/-- A trap that an operation raises when its data or reply returns (R131, R309, R379). It goes to the path that now holds its
lanes (log entry 23); an operation whose lanes have all exited traps no one. One that a replay record issued traps as that record, on the path that the record
names while that runs, and the record is the first of the stand's again (R379). -/
def State.lateTrap (s : State) (op : Nat) (o : Out) (t : TrapRec) : State :=
  match if o.orphan then none else SMap.get? s.stands o.st with
  | none => s
  | some st => match st.pathFor o.path (if o.rpl then 0 else t.tmask) with
    | none => s
    | some i =>
      let there := (st.replays.head?.bind (·.op)) == some (o.lead.getD op)
      let r : Replay := { pc := o.pc, path := i, lanes := t.tmask, part := t.part, counts := o.counted, ins := some o.ins }
      let s1 := if o.rpl then s.setStand o.st { st with replays := r :: (if there then st.replays.drop 1 else st.replays) } else s
      s1.takeTrap o.st i o.pc o.rpl t

/-- The instruction of an operation has not committed: it no longer counts (R221, R254). -/
def State.uncommit (s : State) (op : Nat) (o : Out) : State :=
  let n := o.lead.getD op
  match SMap.get? s.outs n with
  | some x =>
    if x.counted && !x.more then (s.modOwner o fun st => { st with retcnt := st.retcnt - 1 }).setOut n { x with counted := false } else s
  | none => s

/-- Nothing of an operation's instruction is outstanding any more, and it has not committed (R131, R254). -/
def State.abandon (s : State) (op : Nat) (o : Out) : State :=
  let lead := o.lead.getD op
  let s1 := s.uncommit op o
  let s2 := { s1 with outs := s1.outs.filter fun kv => kv.2.lead != some lead }
  match SMap.get? s2.outs lead with
  | some x => s2.complete lead x
  | none => s2

/-- A trap of an operation without lanes of its own when its data returns (R131, R311). -/
def State.flatPoison (s : State) (op : Nat) (o : Out) (va : DWord) : State :=
  s.lateTrap op o { cause := Cause.poison, tval := va, tmask := (s.stand o.st).em o.path }

/-- A write that its home dropped because the line is live: its path takes GROUPLINE, once for an instruction (R208). -/
def State.dropLive (s : State) (op : Nat) (o : Out) (va : DWord) : State :=
  let check := s.grouplineCheck o.ctx (dieOfCore (coreOf o.st)) va.toNat
  let lead := o.lead.getD op
  if o.orphan then check
  else match SMap.get? s.stands o.st with
    | none => check
    | some st =>
      let p := st.path o.path
      if p.state = .free then check
      else if p.glines.any fun x => x.1 == lead then s
      else (s.disownOp lead).setStand o.st (st.setPath o.path { p with glines := p.glines ++ [(lead, va, o.lanes)] })

/-- The line that a write touches; a tag belongs to its granule's line. -/
def Wr.line (w : Wr) : Option Nat :=
  match w.pl with
  | .mem pa => some (if Config.tagBase ≤ pa then lineNo ((pa - Config.tagBase) * Config.granuleBytes) else lineNo pa)
  | .scr _ _ => none
def State.wrLive (s : State) (w : Wr) : Bool := !s.live.isEmpty && (match w.line with
  | some n => (SMap.get? s.live n).isSome
  | none => false)

/-- Write one byte, or the bits of it that a store names. -/
def State.doWrite (s : State) (k : Nat) (sc : Option Nat) (w : Wr) : State :=
  let b := if w.msk = 0xFF then w.b else (s.readPlace k sc w.pl &&& ~~~w.msk) ||| (w.b &&& w.msk)
  s.writePlace k sc b w.pl

/-- The addresses of the whole bytes that a store writes in memory. -/
def wholeBytes (wr : List Wr) : List Nat :=
  wr.filterMap fun w => match w.pl with
    | .mem pa => if w.msk = 0xFF then some pa else none
    | .scr _ _ => none

/-! ### Loads -/

/-- A byte that a load reads: what it found while it was speculative, else what is there now (R23, R345, R347). -/
def State.readFor (s : State) (o : Out) (p : Place) : Byte :=
  match p with
  | .mem pa => (SMap.get? o.seen pa).getD (s.readPlace (coreOf o.st) (orderedScope o.mode) p)
  | .scr _ _ => s.readPlace (coreOf o.st) (orderedScope o.mode) p

/-- The element a lane of an LD reads and what it becomes (R345), with `scloff` of the issue. -/
def State.loadRes (s : State) (o : Out) (scloff : Nat) (a : Acc) : Res :=
  let k := coreOf o.st
  let et := modeEt o.mode
  let rm := modeRm o.mode
  let raw := leNat ((a.pl.span (elemBytes et a.fmt)).map (s.readFor o))
  let off := match a.pl with
    | .mem pa => pa - a.page
    | .scr _ _ => 0
  let scale : Scale := if scaledPage a.fmt a.geom then
      Scale.ofCode (s.readFor o (.mem (a.page + scloff + scaleIndex a.fmt a.geom a.lane off))).toNat
    else .none
  if a.fmt = ET.b32 then
    ⟨if etBits et = 4 then raw / 2 ^ (4 * (a.lane % 2)) % 16 else raw, 0⟩
  else if a.fmt = ET.cb2 then
    let row := (SMap.get 0 (s.ctxSlot k o.ctx).tabs (256 * modeCb o.mode + raw / 256)).toNat
    encodeVal et rm true (((cb2Values raw row).getD (a.lane % 8) (.fin false 0 0)).scaled scale)
  else
    let c := if etBits a.fmt = 4 then raw / 2 ^ (4 * (a.lane % 2)) % 16 else raw
    convert a.fmt et rm scale c

/-- What a register holds after a load of `mode.ET`: `mode.SX` chooses the fill of a narrow integer (R345). -/
def ldFill (mode : Word) (c : Nat) : Word :=
  let et := modeEt mode
  let n := etBits et
  if modeSx mode && etInt et && decide (n < 32) then BitVec.ofInt 32 (signed n c) else wd (c % 2 ^ n)

/-- The lowest address of some lanes. -/
def lowestVa : List (Nat × DWord) → DWord
  | [] => 0
  | [x] => x.2
  | x :: xs => if x.2.toNat < (lowestVa xs).toNat then x.2 else lowestVa xs
/-- The trap of an operation that read poison: the lowest such address, and the lanes (R131, R309). -/
def poisonTrap (bad : List (Nat × DWord)) (part : Bool) (m : Mask) : TrapRec :=
  { cause := Cause.poison, tval := lowestVa bad, tmask := m, part := part }

/-- A load that read poison: no lane of it is written. Where earlier lanes of the instruction are, all the others are left (R131, R132). -/
def State.failLoad (s : State) (op : Nat) (o : Out) (bad : List (Nat × DWord)) : State :=
  let rest := leftLanes (s.outsOf o.uid) (o.lead.getD op) ||| s.parkedOf op o
  let before := o.lead.isSome && (s.leadOf o).lanes != 0
  (s.abandon op o).lateTrap op o (poisonTrap bad before (if before || o.rpl then rest else maskOf (bad.map (·.1))))

/-- Read places into the caches, as an access does before it takes their bytes. -/
def State.readAll (s : State) (k : Nat) (sc : Option Nat) (ps : List Place) : State := ps.foldl (fun u p => u.readFill k sc p) s

/-- A stand when an LD's lanes are written (R345). -/
def State.loadLanes (s : State) (o : Out) (accs : List Acc) (scloff : Nat) (st : Stand) : Stand :=
  let rs := accs.map fun a => (a.lane, s.loadRes o scloff a)
  let val := fun (l : Nat) => match rs.find? fun r => r.1 == l with
    | some r => ldFill o.mode r.2.code
    | none => 0
  st.setV (match o.ins with
    | .ld _ d _ _ => d.toNat
    | _ => 127) (accs.map (·.lane)) val
/-- A stand when an SLD's scalar is written (R366). -/
def State.loadScalar (s : State) (o : Out) (a : Acc) (st : Stand) : Stand :=
  st.setS (match o.ins with
    | .sld _ d _ => d.toNat
    | _ => 63) (dw (leNat ((a.pl.span 8).map (s.readFor o))))

/-- An LD's data returns: poison writes no lane, else every lane is written (R346, R347). -/
def State.finishLoad (s : State) (op : Nat) (o : Out) (accs : List Acc) (scloff : Nat) : State :=
  let k := coreOf o.st
  let ps := accs.flatMap (loadPlaces o.mode scloff)
  let s1 := (s.combineFor k ps).readAll k (orderedScope o.mode) ps
  let bad := (accs.filter fun a => (loadPlaces o.mode scloff a).any s1.poisonedAt).map fun a => (a.lane, a.va)
  if !bad.isEmpty then s1.failLoad op o bad
  else
    (s1.modOwner o (s1.loadLanes o accs scloff)).finish op { o with fl := o.fl ||| orFlags (accs.map fun a => s1.loadRes o scloff a) }

/-- SLD's data returns (R366). -/
def State.finishSload (s : State) (op : Nat) (o : Out) (a : Acc) : State :=
  let k := coreOf o.st
  let ps := a.pl.span 8
  let s1 := (s.combineFor k ps).readAll k (orderedScope o.mode) ps
  if ps.any s1.poisonedAt then (s1.abandon op o).flatPoison op o a.va
  else (s1.modOwner o (s1.loadScalar o a)).complete op o

/-- TAGGET's tags return (R373). -/
def State.finishTagget (s : State) (op : Nat) (o : Out) (accs : List Acc) : State :=
  let k := coreOf o.st
  let bad := (accs.filter fun a => s.poisonedAt a.pl).map fun a => (a.lane, a.va)
  let s1 := s.readAll k none (accs.map (·.pl.tag))
  if !bad.isEmpty then s1.failLoad op o bad
  else
    let val := fun (l : Nat) => match accs.find? fun a => a.lane == l with
      | some a => wd ((s1.readPlace k none a.pl.tag).toNat % 16)
      | none => 0
    (s1.modOwner o fun st => st.setV (match o.ins with
      | .tagget _ d _ => d.toNat
      | _ => 127) (accs.map (·.lane)) val).finish op o

/-- PTLD's image has been read: it is refused with RESTORE, or the stand takes it up, with the list and the overflow area in its own place (R261, R263,
R305). It waits for as many free
physical slots as the image binds. -/
def State.finishPtld (s0 : State) (op : Nat) (o : Out) (pas : List Nat) : Option State :=
  let key := o.st
  let s := s0.combineDrain (coreOf key) fun e => pas.any fun pa => decide (e.pa / 16 = pa / 16)
  let core := coreOf key
  let st := s.stand key
  let k := s.kernelOf st
  let img := fun (i : Nat) => s.pocByte core 5 (pieceAddr pas i)
  let va : DWord := match o.ins with
    | .ptld _ a => if a = 63 then 0 else SMap.get 0 st.sregs a.toNat
    | _ => 0
  let bad := (upFrom 0 k.imageSize).find? fun i => s.poisonedAt (.mem (pieceAddr pas i))
  let undo := (s.growRefund o).complete op { o with drawn := o.drawnFixed }
  match bad, imageCheck k (s.ctx st.ctx) img with
  | some i, _ => some (undo.flatPoison op o (va + dw i))
  | none, reason + 1 => some (undo.lateTrap op o { cause := Cause.restore, tval := va, tmask := 0, info := reason + 1 })
  | none, 0 =>
    if Config.slotsPerCore < (s.core core).oslots.length + (imgSlots k img).length then none
    else
      let s1 := (s.growResident o).complete op { o with drawn := o.drawnFixed }
      some ((((s1.acquireCore core 5).reloadTables core st.ctx).takeImage key k img (pieceAddr pas)).writeList key)

/-! ### Stores -/

/-- A store is the last to write the bytes at some physical addresses, each with the address that names it: on the core, or in the copse at copse
scope; on each line it is known by the first of these (R208). -/
def State.ownLines (s : State) (k : Nat) (sc : Option Nat) (w : Owner) (at_ : List (Nat × DWord)) : State :=
  ((at_.map (lineNo ·.1)).eraseDups).foldl (fun u n =>
    let here := at_.filter fun x => lineNo x.1 == n
    let m := here.foldl (fun (m : BitVec 64) x => m ||| bit64 (lineOff x.1)) 0
    let own := fun (l : Line) => if m &&& l.dirty = 0 then l else
      { l with owners := l.owners ++ [(m &&& l.dirty, { w with va := (here.head?.map (·.2)).getD 0 })] }
    match sc.getD 0 with
    | 0 | 1 => u.modLine k (n * 64) own
    | 2 => u.modCopseLine (copseOfCore k) (n * 64) own
    | _ => u) s

/-- The store of operation `op`. -/
def Out.owner (o : Out) (op : Nat) (va : DWord) : Owner := ⟨o.ctx, o.uid, o.path, o.lead.getD op, va, o.lanes⟩

/-- The memory bytes that some writes name. -/
def wrPas (wr : List Wr) : List (Nat × DWord) :=
  wr.filterMap fun w => match w.pl with
    | .mem pa => some (pa, w.va)
    | .scr _ _ => none

/-- The bytes of a store are written: on the core, or at the point of coherence of an ordered one; a halted stand's go straight
to their homes (R164, R173, R145). Writes to a live line are dropped (R208). -/
def State.finishStore (s : State) (op : Nat) (o : Out) (wr : List Wr) (sc : Option Nat) : State :=
  let k := coreOf o.st
  let s1 := s.combineFor k (wr.map (·.pl))
  let ok := wr.filter fun w => !s1.wrLive w
  let depth := if o.orphan then some 4 else sc
  let s2 := (ok.foldl (fun u w => u.doWrite k depth w) s1).clearPoison (wholeBytes ok)
  let s3 := s2.ownLines k depth (o.owner op 0) (wrPas ok)
  let s4 := match wr.find? s1.wrLive with
    | some w => s3.dropLive op o w.va
    | none => s3
  s4.finish op o

/-- The home of a tile that DISCARD zeroes writes its base into its die's log: here for a tile of this Pelfold. A full log starts again at its
first record (R137, R287; DESIGN CHOICE: log entry 97). -/
def State.logDiscard (s : State) (t : Nat) : State :=
  let d := dieOfHome ((homeOf t).getD 0)
  let l := (s.die d).dlog
  if l.cap = 0 ∨ pelfoldOf t ≠ s.devid then s
  else (s.putHomes (l.base + 8 * (l.next % l.cap)) (natLe t 8)).modDie d fun x => { x with dlog := { l with next := l.next + 1 } }

/-- A tile of a DISCARD is dropped at every level: zero, tags zero, no poison, not full (R135, R248). -/
def State.dropTile (s : State) (t : Nat) : State :=
  let s1 := (s.dropCopies t 4096).dropCopies (Config.tagBase + t / 32) 128
  let s2 := (s1.putHomes t (List.replicate 4096 0)).putHomes (Config.tagBase + t / 32) (List.replicate 128 0)
  { s2 with poison := s2.poison.filter fun kv => decide (kv.1 < t / 32 ∨ t / 32 + 128 ≤ kv.1),
            full := s2.full.filter fun kv => decide (kv.1 < t / 64 ∨ t / 64 + 64 ≤ kv.1) }.logDiscard t

/-- DISCARD drops its next tile; what rests in the combining buffer for it, issued before, performs first (R136, R175). -/
def State.discardNext (s : State) (op : Nat) (o : Out) (va : DWord) : List Nat → State
  | [] => s.complete op o
  | t :: rest =>
    let s1 := (s.combineDrain (coreOf o.st) fun e => decide (e.pa / 4096 = t / 4096)).dropTile t
    if rest.isEmpty then s1.complete op o else s1.setOut op { o with work := .discard va rest }

/-! ### Atomics -/

/-- Read and write a word at its place of performance: the home, or the owning scratchpad (R174). -/
def State.wordAt (s : State) : Place → Word
  | .mem pa => s.homeWord pa
  | .scr g off => wd (leNat ((upFrom off 4).map (s.scrByte g)))
def State.putWordAt (s : State) (w : Word) : Place → State
  | .mem pa => s.putWord pa w
  | .scr g off => ((upFrom 0 4).zip (natLe w.toNat 4)).foldl (fun u x => u.putScr g (off + x.1) x.2) s

/-- The lanes of a word in ascending order: the word after them, what each got, the flags (R308). -/
def atomicLanes (i : Instr) (et rm : Nat) (x y : SMap Word) : Word → List Nat → Word × List (Nat × Word) × BitVec 4
  | w, [] => (w, [], 0)
  | w, l :: ls =>
    let (w2, f) := atomicNew i et rm w (SMap.get 0 x l) (SMap.get 0 y l)
    let (w3, got, f2) := atomicLanes i et rm x y w2 ls
    (w3, (l, w) :: got, f ||| f2)

/-- What the words of an atomic have come to. -/
structure AtomicSt where
  ws     : List AWord
  et     : Nat
  rm     : Nat
  x      : SMap Word
  y      : SMap Word
  ret    : SMap Word
  poison : Mask
  fl     : BitVec 4

def AtomicSt.work (a : AtomicSt) : Work := .atomic a.ws a.et a.rm a.x a.y a.ret a.poison a.fl
def Out.atomicSt (o : Out) : Option AtomicSt :=
  match o.work with
  | .atomic ws et rm x y ret poison fl => some ⟨ws, et, rm, x, y, ret, poison, fl⟩
  | _ => none

/-- One word of an atomic performs, as one step (R308, R309): a live line drops the write, a poisoned word is left. -/
def State.doWord (s : State) (op : Nat) (o : Out) (a : AtomicSt) (n : Nat) (w : AWord) : State × AtomicSt :=
  let k := coreOf o.st
  let ws := a.ws.set n { w with done := true }
  let bytes := w.pl.span 4
  let s1 := s.combineFor k bytes
  let s2 := match w.pl with
    | .mem pa => s1.wordHome k pa
    | .scr _ _ => s1
  let old := s2.wordAt w.pl
  let live := match w.pl with
    | .mem pa => (SMap.get? s2.live (lineNo pa)).isSome
    | .scr _ _ => false
  if live then
    (s2.dropLive op o w.va, { a with ws := ws, ret := w.lanes.foldl (fun m l => SMap.set 0 m l old) a.ret })
  else if s2.poisonedAt w.pl then (s2, { a with ws := ws, poison := a.poison ||| maskOf w.lanes })
  else
    let (new, got, f) := atomicLanes o.ins a.et a.rm a.x a.y old w.lanes
    let s3 := s2.putWordAt new w.pl
    let s4 := match w.pl with
      | .mem pa => s3.wordDrop k pa
      | .scr _ _ => s3
    (s4, { a with ws := ws, ret := SMap.setAll 0 a.ret got, fl := a.fl ||| f })

/-- Whether an entry of the combining buffer takes an atomic of the same word (R175). -/
def Comb.takes (c : Comb) (pa : Nat) (o : Out) (et rm : Nat) : Bool :=
  c.pa == pa && opField c.ins == opField o.ins && c.et == et && (et != ET.fp32 || c.rm == rm)

/-- One more operation has its operand in an entry. -/
def Comb.own (e : Comb) (w : Owner) : List Owner := if e.owners.any fun x => x.op == w.op then e.owners else e.owners ++ [w]

/-- One lane's operand enters the combining buffer: it merges, or makes a new entry; a full buffer sends its oldest out (R175). -/
def State.combineIn (s : State) (k : Nat) (op : Nat) (o : Out) (et rm pa : Nat) (va : DWord) (x : Word) : State :=
  let c := s.core k
  if c.combine.any (·.takes pa o et rm) then
    let merge := fun (e : Comb) =>
      if e.takes pa o et rm then { e with value := (atomicNew o.ins et rm e.value x 0).1, owners := e.own (o.owner op va) } else e
    s.setCore k { c with combine := c.combine.map merge }
  else
    let s1 := s.combineDrain k fun e => e.pa == pa
    let s2 := if Config.combineDepth ≤ (s1.core k).combine.length then
        (match (s1.core k).combine with
         | e :: _ => (s1.combineOut k e).modCore k fun y => { y with combine := y.combine.drop 1 }
         | [] => s1)
      else s1
    s2.modCore k fun y => { y with combine := y.combine ++ [⟨pa, o.ins, et, rm, x, [o.owner op va], s2.cycOf k⟩] }

/-- A word of an atomic that rests: a live line drops it (R175, R208). A window's word performs at the scratchpad. -/
def State.restWord (s : State) (op : Nat) (o : Out) (a : AtomicSt) (n : Nat) (w : AWord) : State × AtomicSt :=
  match w.pl with
  | .scr _ _ => s.doWord op o a n w
  | .mem pa =>
    let ws := a.ws.set n { w with done := true }
    if (SMap.get? s.live (lineNo pa)).isSome then (s.dropLive op o w.va, { a with ws := ws })
    else (w.lanes.foldl (fun u l => u.combineIn (coreOf o.st) op o a.et a.rm pa w.va (SMap.get 0 a.x l)) s, { a with ws := ws })

/-- Every word that is still to do, in order. -/
def State.doWords (s : State) (f : State → AtomicSt → Nat → AWord → State × AtomicSt) : AtomicSt → List (Nat × AWord) → State × AtomicSt
  | a, [] => (s, a)
  | a, (n, w) :: rest =>
    let (s1, a1) := if w.done then (s, a) else f s a n w
    s1.doWords f a1 rest

/-- Where a word of the operation met a live line, its others are not told of again (R208). -/
def State.settleLines (s : State) (op : Nat) (o : Out) : State :=
  let lead := o.lead.getD op
  if ((s.stand o.st).path o.path).glines.any fun x => x.1 == lead then s.disownOp lead else s

/-- A resting atomic is done for its stand when its words have entered the buffer or performed at a scratchpad (R48, R175). -/
def State.restAll (s : State) (op : Nat) (o : Out) (a : AtomicSt) : State :=
  ((s.doWords (fun u b n w => u.restWord op o b n w) a ((upFrom 0 a.ws.length).zip a.ws)).1.settleLines op o).finish op o

/-! ### The events -/

/-- Whether a copy in flight on the core of a peer scratchpad holds one of these bytes when an access through window 1 reaches it (R166; DEDUCED:
log entry 108). -/
def State.peerHeld (s : State) (m : Meet) (ps : List (DWord × Place)) : Bool := ps.any fun x => inWindow1 x.1 && s.rangeHeld m x.2
/-- What an operation still reads and writes, with the address that names it. -/
def Out.named (o : Out) : List (DWord × Place) :=
  match o.work with
  | .load accs c => accs.flatMap fun a => (loadPlaces o.mode c a).map (a.va, ·)
  | .sload a => (a.pl.span 8).map (a.va, ·)
  | .store wr _ => wr.map fun w => (w.va, w.pl)
  | .atomic ws .. => (ws.filter fun w => !w.done).flatMap fun w => (w.pl.span 4).map (w.va, ·)
  | _ => []

/-- LOAD_DATA_RETURN: the data of an LD, SLD or TAGGET, the lines of a PREF, or the image of a PTLD (R48, R305, R346, R355, R366,
R373). -/
def evLoadDataReturn (op : Nat) (s : State) : Option State :=
  match SMap.get? s.outs op with
  | none => none
  | some o => due (s.canGo op o && s.carried o) <| s.through op o (s.peerHeld .load o.named) fun u => match o.work with
    | .load accs scloff => some (u.finishLoad op o accs scloff)
    | .sload a => some (u.finishSload op o a)
    | .tagget accs => some (u.finishTagget op o accs)
    | .pref => some (u.complete op o)
    | .ptld pas => u.finishPtld op o pas
    | _ => none
def execLoadDataReturn (op : Nat) (s : State) : Out? := event s (evLoadDataReturn op s)

/-- STORE_PERFORMED: a store performs; a DISCARD drops its next tile; a non-returning atomic enters the combining buffer, or
leaves its core (R48, R136, R175, R371). -/
def evStorePerformed (op : Nat) (s : State) : Option State :=
  match SMap.get? s.outs op with
  | none => none
  | some o => due (s.carried o) (match o.work with
    | .store wr sc => due (s.canGo op o) <| s.through op o (s.peerHeld .store o.named) fun u => some (u.finishStore op o wr sc)
    | .discard va ts => due (s.canGo op o) <| s.through op o false fun u => some (u.discardNext op o va ts)
    | .atomic ws .. => match o.atomicSt with
      | none => none
      | some a =>
        if o.rests then due (s.toDo op o && !s.peerHeld .store o.named && s.mayPerform op o true) (some (s.restAll op o a))
        else due (o.ctr == .stores && o.lead.isNone && !o.more && !s.followed op && s.mayPerform op o true && ws.all fun w => w.done || w.pl.inMem)
          (some (((s.combineFor (coreOf o.st) o.footprint).uncount o).setOut op { o with ctr := .none }))
    | _ => none)
def execStorePerformed (op : Nat) (s : State) : Out? := event s (evStorePerformed op s)

/-- ATOMIC_AT_HOME: word `k` of an atomic performs at its place (R308). A non-returning one is complete with its last word. -/
def evAtomicAtHome (op k : Nat) (s : State) : Option State :=
  match SMap.get? s.outs op with
  | none => none
  | some o => match o.atomicSt with
    | none => none
    | some a => match a.ws[k]? with
      | none => none
      | some w =>
        due (!w.done && !o.rests && s.carried o && !s.earlierAccess o.uid op (w.pl.span 4) && !s.pubBefore o.uid op
            && !(inWindow0 w.va && s.earlier o.uid op Out.ownScratch) && !s.peerHeld .store ((w.pl.span 4).map (w.va, ·))
            && (match w.home with
              | some h => s.homeTurn h op k
              | none => true))
          (let s0 := match w.home with
             | some h => s.serve h op k
             | none => s
           let (s1, a1) := s0.doWord op o a k w
           if o.cls != Cls.detach && a1.ws.all (·.done) then some (s1.finish op o)
           else some (s1.setOut op { o with work := a1.work }))
def execAtomicAtHome (op k : Nat) (s : State) : Out? := event s (evAtomicAtHome op k s)

/-- The destination register of an atomic. -/
def atomicDst : Instr → Nat
  | .aadd _ d _ _ | .amin _ d _ _ | .amax _ d _ _ | .aand _ d _ _ | .aor _ d _ _ | .axor _ d _ _ | .axch _ d _ _ | .acas _ d _ _ => d.toNat
  | _ => 127

/-- The trap of the poisoned lanes of a returning atomic (R309). -/
def AtomicSt.trap (a : AtomicSt) (rest : Mask) : TrapRec :=
  poisonTrap ((Mask.toList a.poison).map fun l => (l, ((a.ws.find? fun w => w.lanes.contains l).map (·.va)).getD 0)) true (a.poison ||| rest)

/-- The old values of a returning atomic arrive: lanes that performed are written; poisoned ones, and what is parked of the instruction, are
left (R308, R309). -/
def State.finishAtomic (s : State) (op : Nat) (o : Out) (a : AtomicSt) : State :=
  let s1 := s.modOwner o fun st => st.setV (atomicDst o.ins) (Mask.toList (o.lanes &&& ~~~a.poison)) (SMap.get 0 a.ret)
  let o1 := { o with fl := o.fl ||| a.fl }
  if a.poison = 0 then s1.finish op o1
  else ((s1.uncommit op o).finish op { o1 with counted := false }).lateTrap op o (a.trap (s.parkedOf op o))

/-- ATOMIC_REPLY: the old values arrive (R308, R309). -/
def evAtomicReply (op : Nat) (s : State) : Option State :=
  match SMap.get? s.outs op with
  | none => none
  | some o => match o.atomicSt with
    | none => none
    | some a =>
      due (o.cls == Cls.detach && o.redirect.isNone && s.carried o && s.ripe o && s.toDo op o && a.ws.all (·.done)) (some (s.finishAtomic op o a))
def execAtomicReply (op : Nat) (s : State) : Out? := event s (evAtomicReply op s)

/-- COMBINE_ENTRY_TIMEOUT: entry `k` leaves the core, at the latest 4,096 cycles after it was made (R175). -/
def evCombineEntryTimeout (core k : Nat) (s : State) : Option State :=
  match (s.core core).combine[k]? with
  | none => none
  | some e => due s.fab.up <|
    let s1 := s.reachCyc (dieOfCore core) (e.created + 4096)
    some ((s1.combineOut core e).modCore core fun c => { c with combine := c.combine.eraseIdx k })
def execCombineEntryTimeout (core k : Nat) (s : State) : Out? := event s (evCombineEntryTimeout core k s)

/-- The tail that a CHADV publishes: every entry appended so far (R240). -/
def State.advanceChain (s : State) (c : Option (Nat × Nat)) : State :=
  match c with
  | none => s
  | some (k, gen) => if s.gen k = gen then { s with chains := SMap.modify s.chains k fun x => { x with published := x.appended } } else s

/-- PUBLICATION_COMPLETE: the oldest publication of its core, once the tiles it flushes have been applied (R172, R179, R199). -/
def evPublicationComplete (pub : Nat) (s : State) : Option State :=
  match s.pubs.find? (·.id == pub) with
  | none => none
  | some p =>
    due (s.fab.up && ((s.pubs.find? fun q => q.core == p.core).map (·.id)) == some pub && p.chain.all (fun c => !s.objBefore p.uid p.id c.1)
        && p.tiles.all fun op => (SMap.get? s.outs op).isNone)
      (let s1 := (s.publishCore p.core p.scope).combineDrain p.core fun _ => true
       some ({ s1 with pubs := s1.pubs.filter (·.id != pub) }.advanceChain p.chain))
def execPublicationComplete (pub : Nat) (s : State) : Out? := event s (evPublicationComplete pub s)

end Sys2Proof.Machine
end

