-- ==== Sys2Proof/Machine/EvLaunch.lean ====
section
/-! DEFINITION. Launches from the queue window to completion: enqueue, placement, stealing, retirement, the completion counter (R25–R35,
R253, R382). An event that is not due changes nothing. -/

namespace Sys2Proof.Machine

/-! ### Host queue windows (R253) -/

/-- Count a record dropped at a window (R253). -/
def State.countDrop (s : State) (q : Nat) : State :=
  { s with qdrop := SMap.set 0 s.qdrop q (dw (((SMap.get 0 s.qdrop q).toNat + 1) % 2 ^ 32)) }

/-- A 64-byte write to the enqueue port of queue `q`: the state and the code (R245, R253). -/
def State.windowEnqueue (s : State) (q : Nat) (bytes : List Byte) : State × Nat :=
  let (s1, code, _) := s.enqueue (queueKey q) bytes
  (if code = QCode.ok ∨ code = QCode.stale then s1 else s1.countDrop q, code)

/-- LAUNCH_RECORD_ENQUEUE (R253). -/
def evLaunchRecordEnqueue (q : Nat) (bytes : List Byte) (s : State) : Option State :=
  if bytes.length ≠ 64 then some (s.countDrop q)
  else if !s.queueOpen q then some s
  else some (s.windowEnqueue q bytes).1
def execLaunchRecordEnqueue (q : Nat) (bytes : List Byte) (s : State) : Out? := event s (evLaunchRecordEnqueue q bytes s)

/-! ### The rack scheduler (R34, R35) -/

/-- The smallest rest of the budget over the cores of a die that hold a context (R35). -/
def State.smallestRest (s : State) (c d : Nat) : Nat :=
  (coresOfDie d).foldl (fun m k => match s.slotOf k c with
    | some _ => min m ((s.ctx c).vxbnd - (s.ctxSlot k c).est (s.ctx c).rho)
    | none => m) 0xFFFF

/-- The fields of a residency report for one die. -/
def State.dieReport (s : State) (c d : Nat) : List Byte :=
  let ks := s.workingCores d
  let free := fun (k : Nat) => let x := s.core k; b2n x.slot0.ctx.isNone + b2n x.slot1.ctx.isNone
  let blocks := ((s.launches.filter fun kv => kv.2.ctx == c).map fun kv => (kv.2.blocks.filter (·.die == d)).length).sum
  natLe (ks.map fun k => Config.poolUnits - (s.core k).units).sum 2 ++ natLe (ks.map fun k => (s.freeIdx k).length).sum 2
    ++ natLe (ks.map free).sum 1 ++ natLe 0 1 ++ natLe (s.smallestRest c d) 2 ++ natLe blocks 4 ++ natLe 0 2

/-- A residency report with its header (R35). -/
def State.residency (s : State) (seq c code : Nat) : List Byte :=
  natLe 3 2 ++ natLe 0 2 ++ natLe seq 4 ++ natLe c 4 ++ natLe 0 4
    ++ natLe s.devid 1 ++ natLe 15 1 ++ natLe code 2 ++ natLe 0 4 ++ (upFrom 0 Config.dies).flatMap (s.dieReport c)

/-- FORWARDED_RECORD: a message of type 1 (R34, R35). The spec names no code for a launch queue of a tenant interface that does not run: BADREC
(DESIGN CHOICE; log entry 90). -/
def evForwardedRecord (msg : List Byte) (s : State) : Option State :=
  let f := bytesNat msg
  due (decide (msg.length = 80 ∧ f 0 2 = 1))
    (let q := f 2 2
     let c := f 8 4
     let named := match SMap.get? s.queues (queueKey q) with
       | some x => x.launch && x.ctx == c && decide (q < 4096)
       | none => false
     let (s1, code) := if named && s.queueOpen q then s.windowEnqueue q (msg.drop 16) else (s, QCode.badrec)
     some (s1.tell (.report (s1.residency (f 4 4) c code))))
def execForwardedRecord (msg : List Byte) (s : State) : Out? := event s (evForwardedRecord msg s)

/-- SCHEDULER_QUERY: a message of type 2 (R34, R35). -/
def evSchedulerQuery (msg : List Byte) (s : State) : Option State :=
  let f := bytesNat msg
  due (decide (msg.length = 80 ∧ f 0 2 = 2)) (some (s.tell (.report (s.residency (f 4 4) (f 8 4) 0xFFFF))))
def execSchedulerQuery (msg : List Byte) (s : State) : Out? := event s (evSchedulerQuery msg s)

/-- SCHEDULER_MESSAGE_DROPPED (R35): nothing happens. -/
def execSchedulerMessageDropped (_msg : List Byte) (s : State) : Out? := event s (some s)

/-! ### Placement -/

/-- GROVE_PLACEMENT: the next grove in the turn of a die's distributor, restored groves first (R26, R28, R382). -/
def evGrovePlacement (die : Nat) (s : State) : Option State :=
  due (s.restoreOne die false).isNone
    ((turnOrder (s.die die).turn s.headLaunches).findSome? fun h => (s.tryPlace die h.2).map fun t =>
      t.modDie die fun d => { d with turn := if ((t.launch h.2).nextOn die).isSome then h.1 else h.1 + 1 })
def execGrovePlacement (die : Nat) (s : State) : Out? := event s (evGrovePlacement die s)

/-- COLEVEL_LAUNCH_PLACEMENT: by the distributor of the queue's die (R29, R382). -/
def evColevelLaunchPlacement (die : Nat) (s : State) : Option State :=
  due (s.restoreOne die false).isNone
    ((turnOrder (s.die die).turn (s.headLaunches.filter fun h => h.1 % 65536 / 16384 == die)).findSome? fun h => (s.tryColevel h.2).map fun t =>
      t.modDie die fun d => { d with turn := h.1 + 1 })
def execColevelLaunchPlacement (die : Nat) (s : State) : Out? := event s (evColevelLaunchPlacement die s)

/-- The highest-numbered block of a launch that a die holds and none of whose groves has been placed (R27). -/
def Launch.toGive (l : Launch) (die : Nat) : Option Block :=
  (l.blocks.filter fun b => b.die == die && !b.touched).foldl (fun best b => match best with
    | none => some b
    | some x => if x.num < b.num then some b else some x) none

/-- The block that a die's distributor steals of a launch: from die d+1, d+2 or d+3 (R27). -/
def Launch.stolen (l : Launch) (die : Nat) : Option Nat :=
  if l.level ≠ 0 ∨ (l.blocks.any fun b => b.die == die) = true then none
  else (upFrom 1 3).findSome? fun i => (l.toGive ((die + i) % 4)).map (·.num)

/-- STEAL_MESSAGE (R27, R140). -/
def evStealMessage (die : Nat) (s : State) : Option State :=
  s.launches.findSome? fun kv =>
    let x := s.ctx kv.2.ctx
    if x.dieList.length ≤ 1 ∨ x.dieMask.testBit die = false then none
    else (kv.2.stolen die).map fun n =>
      s.modLaunch kv.1 fun l => { l with blocks := l.blocks.map fun b => if b.num = n then { b with die := die } else b }
def execStealMessage (die : Nat) (s : State) : Out? := event s (evStealMessage die s)

/-! ### Retirement and completion -/

/-- The operations of a stand that wait at a round and that the load counter counts: XCHG (R219). -/
def State.lodgedLoads (s : State) (uid : Nat) : Nat :=
  ((s.outsOf uid).filter fun kv => kv.2.ctr == .loads && match kv.2.work with
    | .det .lodged _ _ => true
    | _ => false).length

/-- Whether everything that R32 waits for has settled; a lodged round operation is withdrawn instead (R32, R212). -/
def State.settled (s : State) (st : Stand) : Bool :=
  decide (st.loads = s.lodgedLoads st.uid ∧ st.stores = 0 ∧ st.copies = 0 ∧ st.tiles = 0 ∧ st.tokmask = 0) && st.residuals.isEmpty && st.replays.isEmpty
    && !(s.outsOf st.uid).any fun kv => match kv.2.work with
      | .tile _ => true
      | .det .lodged _ _ => false
      | .det .. => true
      | _ => false

/-- The operations of a stand that go on without it. -/
def State.orphanOuts (s : State) (uid : Nat) : State :=
  { s with outs := s.outs.map fun kv => if kv.2.uid == uid then
      (kv.1, { kv.2 with orphan := true, ctr := .none, vu := 0, drawn := 0, grow := 0, acq := none }) else kv }

/-- A stand has left its grove: its batons pass on, and with the last stand the grove completes (R32, R33, R232). -/
def State.leaveGrove (s : State) (gid standid : Nat) : State :=
  let g := s.grove gid
  let ring := (s.launch g.launch).kernel.ring
  let pass := fun (h : Option Nat) => if h = some standid then s.nextInRing gid ring standid else h
  if g.size ≤ 1 then
    (s.removeGrove gid).modLaunch g.launch fun l => { l with done := l.done + 1, left := l.left - 1 }
  else s.setGrove gid { g with size := g.size - 1, sbat := pass g.sbat, mbat := pass g.mbat }

/-- A stand retires (R32). -/
def State.retire (s : State) (key : Nat) : State :=
  let st := s.stand key
  let s1 := (s.orphanLines key).leaveAll st.uid false
  let s2 := (s1.removeStand key).orphanOuts st.uid
  (s2.leaveGrove st.grove st.standid).yieldCore (coreOf key)

/-- STAND_RETIRE: a stand without lanes first sends its residual slots, then retires when all has settled (R32). -/
def evStandRetire (key : Nat) (s : State) : Option State :=
  match SMap.get? s.stands key with
  | none => none
  | some st =>
    if st.hasLanes then none
    else if st.residuals.any fun kv => kv.2.offer.isNone then some (s.flushAll key)
    else due (s.settled st) (some (s.retire key))
def execStandRetire (st : Nat) (s : State) : Out? := event s (evStandRetire st s)

/-- A launch is done with: no grove, no decrement and no scan is left (R33, R269). -/
def State.dropLaunch (s : State) (l : Nat) : State :=
  let x := s.launch l
  if x.left = 0 ∧ x.done = 0 ∧ x.cores = [] then { s with launches := SMap.erase s.launches l } else s

/-- The last grove of a launch is counted: the host is told (R284, R286). -/
def State.tellDone (s : State) (l : Nat) : State :=
  let x := s.launch l
  if x.left = 0 ∧ x.done = 0 then (s.tell (.completion x.ctx l)).tell (.irq ((s.ctx x.ctx).cirq.toNat % 65536)) else s

/-- The decrement of a completion counter, with the provisional flag where a core of the launch has not passed a scan (R33, R269). -/
def State.countGrove (s : State) (l pa : Nat) : State :=
  let x := s.launch l
  if ((Place.mem pa).span 64).any s.poisonedAt then s
  else
    let s1 := if s.homeNat pa 4 = 1 ∧ x.cores ≠ [] then s.putHome (pa + 4) (s.homeByte (pa + 4) ||| 0x80#8) else s
    (s1.decrement x.ctx pa true).1

/-- COMPLETION_COUNTER_DECREMENT: one completed grove of launch `l` is counted, with release at system scope (R33). -/
def evCompletionCounterDecrement (l : Nat) (s : State) : Option State :=
  match SMap.get? s.launches l with
  | none => none
  | some x =>
    due (decide (0 < x.done) && s.fab.up && !s.outs.any fun kv => kv.2.orphan && kv.2.ctx == x.ctx && x.cores.contains (coreOf kv.2.st) && (match kv.2.work with
        | .atomic .. => true
        | _ => false))
      (let s1 := x.cores.foldl (fun u k => (u.publishCore k 5).combineDrain k fun _ => true) s
       let s2 := s1.modLaunch l fun y => { y with done := y.done - 1 }
       let s3 := match x.succ with
         | some pa => s2.countGrove l pa
         | none => s2
       some ((s3.tellDone l).dropLaunch l))
def execCompletionCounterDecrement (l : Nat) (s : State) : Out? := event s (evCompletionCounterDecrement l s)

end Sys2Proof.Machine
end

