-- ==== Sys2Proof/Machine/EvCtx.lean ====
section
/-! DEFINITION. Contexts: admission, vacate, restore, end, the debugger's attachment, reply slots of a halted stand, switching on a core,
and the invalidation of translations (R21, R130, R138, R140–R144, R176, R220, R262, R286, R287, R381). An event that is not due changes
nothing. -/

namespace Sys2Proof.Machine

/-! ### Switching between resident contexts (R21) -/

/-- Whether a context has a ready path on a core, its turn to run apart (R20, R21). -/
def State.hasReady (s : State) (k : Nat) (c : Option Nat) : Bool :=
  match c with
  | none => false
  | some c => (s.standsOfCore k).any fun key =>
    (s.stand key).ctx == c && !(s.stand key).blocked && !s.loadsImage (s.stand key).uid && !(Stand.ready key (s.stand key)).isEmpty

def State.switchCore (s : State) (k : Nat) : State :=
  s.modCore k fun x => { x with running := !x.running, ranFrom := s.cycOf k, idleFrom := s.cycOf k }

/-- CONTEXT_SWITCH_TIMESLICE: the running context has run for the slice, whose unit is a µs (R21, R287). -/
def evContextSwitchTimeslice (k : Nat) (s : State) : Option State :=
  let x := s.core k
  due (decide (x.slice ≠ 0 ∧ x.ranFrom + x.slice * (s.die (dieOfCore k)).mhz ≤ s.cycOf k) && s.hasReady k (x.slot (!x.running)).ctx) (some (s.switchCore k))
def execContextSwitchTimeslice (core : Nat) (s : State) : Out? := event s (evContextSwitchTimeslice core s)

/-- CONTEXT_SWITCH_IDLE: no path of the running context has been ready for 256 cycles (R21). -/
def evContextSwitchIdle (k : Nat) (s : State) : Option State :=
  let x := s.core k
  due (x.idleSw && decide (x.idleFrom + 256 ≤ s.cycOf k) && !s.hasReady k (x.slot x.running).ctx && s.hasReady k (x.slot (!x.running)).ctx) (some (s.switchCore k))
def execContextSwitchIdle (core : Nat) (s : State) : Out? := event s (evContextSwitchIdle core s)

/-- SWITCH_COMMAND: a value for SWPOL with bit 17 set (R287). -/
def evSwitchCommand (k : Nat) (v : DWord) (s : State) : Option State :=
  let s1 := s.modCore k fun x => { x with slice := DWord.bits v 15 0, idleSw := v.getLsbD 16 }
  due (v.getLsbD 17) (some (if ((s1.core k).slot (!(s1.core k).running)).ctx.isSome then s1.switchCore k else s1))
def execSwitchCommand (core : Nat) (v : DWord) (s : State) : Out? := event s (evSwitchCommand core v s)

/-! ### Context commands (R286) -/

/-- Results of a command. -/
abbrev CRes.done : Nat := 0
abbrev CRes.bound : Nat := 1
abbrev CRes.reserve : Nat := 2
abbrev CRes.key : Nat := 3
abbrev CRes.state : Nat := 4
abbrev CRes.place : Nat := 5

def State.cresult (s : State) (c r : Nat) : State := s.modCtx c fun x => { x with result := r }

/-- Whether an address lies in the main memory of die `d` (R125). -/
def State.inMainMemory (s : State) (d : Nat) (pa : Nat) : Bool :=
  decide (pa < 2 ^ 52) && pelfoldOf pa == s.devid && decide (d * 0x8000000000 ≤ pa % 2 ^ 46 ∧ pa % 2 ^ 46 < d * 0x8000000000 + 384000000000)

/-- The share of a die's vacate reserve that a context takes (R141). -/
def Ctx.share (x : Ctx) (d : Nat) : Nat := if x.dieMask.testBit d then x.rho * x.maxCores d else 0

/-- The result of an admit command: the checks in the order of their codes (R140, R141, R286). -/
def State.admitResult (s : State) (c : Nat) : Nat :=
  let x := s.ctx c
  let used := fun (d : Nat) => ((s.ctxs.filter fun kv => kv.2.state != .free && kv.1 != c).map fun kv => kv.2.share d).sum
  if x.state ≠ .free then CRes.state
  else if x.vxcbnd < x.vxctx + 6 ∨ ([64, 128, 256, 512, 1024, 2048].contains x.rho) = false then CRes.bound
  else if x.dieList.any fun d => decide (Config.vacateReserve < used d + x.share d) then CRes.reserve
  else if !x.keyed then CRes.key
  else if x.dieList = [] ∨ (x.dieList.all fun d => s.inMainMemory d (SMap.get 0 x.csave d).toNat && s.inMainMemory d (SMap.get 0 x.clocb d).toNat) = false then
    CRes.place
  else CRes.done

/-- CCMD_ADMIT (R286). -/
def evCcmdAdmit (c : Nat) (s : State) : Option State :=
  let r := s.admitResult c
  some ((if r = 0 then s.modCtx c fun x => { x with state := .admitted, logUsed := 0 } else s).cresult c r)
def execCcmdAdmit (c : Nat) (s : State) : Out? := event s (evCcmdAdmit c s)

/-- An ended context's operation goes on or is gone. -/
def State.endOuts (s : State) (c : Nat) : State :=
  { s with outs := s.outs.filterMap fun kv =>
      if kv.2.ctx != c then some kv
      else if kv.2.fate kv.1 = .goesOn ∧ kv.2.redirect.isNone then
        some (kv.1, { kv.2.bare with work := match kv.2.work with
          | .tile t => .tile t.atHalt
          | w => w })
      else none }

/-- End a context: its groups, stands, images, residuals and queued records are gone, its descriptor is free (R286, R212). -/
def State.endContext (s : State) (c : Nat) : State :=
  let groups := (s.groups.filter fun kv => kv.2.ctx == c).map (·.1)
  let cores := allCores.filter fun k => (s.slotOf k c).isSome
  let s1 := groups.foldl (fun u g => u.deleteGroup g) s
  let s2 := (s1.standsOfCtx c).foldl (fun u key => (u.withdrawOffers (u.stand key).uid).removeStand key) s1
  let gs := (s2.groves.filter fun kv => (s2.launch kv.2.launch).ctx == c).map (·.1)
  let s3 := (gs.foldl (fun u g => u.removeGrove g) s2).endOuts c
  let s4 := cores.foldl (fun u k => (u.publishFor k c).freeSlot k c) s3
  let launches := s4.launches.filter fun kv => kv.2.ctx != c
  let queues := s4.queues.map fun kv => if kv.2.ctx == c then (kv.1, { kv.2 with recs := [] }) else kv
  let enqs := s4.enqs.filter fun e => e.ctx != c
  ({ s4 with launches := launches, queues := queues, enqs := enqs }).modCtx c fun x =>
      { x with state := .free, saved := [], keyed := false, debugger := false, result := CRes.done, logUsed := 0 }

/-- CCMD_END (R286). -/
def evCcmdEnd (c : Nat) (s : State) : Option State :=
  if (s.ctx c).state = .free then some (s.cresult c CRes.state) else some (s.endContext c)
def execCcmdEnd (c : Nat) (s : State) : Out? := event s (evCcmdEnd c s)

/-- Saved groves no longer go back to a core of their own: a restore places them (R381). -/
def Ctx.loosen (x : Ctx) : Ctx := { x with saved := x.saved.map fun g => { g with onto := none } }

/-- CCMD_VACATE: an admitted context, or the placed groves of a restoring one (R286, R381). -/
def evCcmdVacate (c : Nat) (s : State) : Option State :=
  if (s.ctx c).state = .admitted ∨ (s.ctx c).state = .restoring then
    some ((s.haltContext c 0).modCtx c fun x => { x.loosen with state := .vacating, result := CRes.done })
  else some (s.cresult c CRes.state)
def execCcmdVacate (c : Nat) (s : State) : Out? := event s (evCcmdVacate c s)

/-- VACATE_COMPLETE: every operation of the context has settled but those lodged, and every reply slot is filled (R138, R144, R176,
R262). -/
def evVacateComplete (c : Nat) (s : State) : Option State :=
  due ((s.ctx c).state == .vacating && s.fab.up && s.outs.all fun kv => kv.2.ctx != c || (match kv.2.work with
      | .det .lodged _ _ => true
      | _ => false))
    (let quiet := fun (k : Nat) => (s.core k).snap.isEmpty && (s.core k).combine.isEmpty
     let s1 := (allCores.filter fun k => !quiet k).foldl (fun u k => u.publishFor k c) s
     some (s1.modCtx c fun x => { x with state := .vacated }))
def execVacateComplete (c : Nat) (s : State) : Out? := event s (evVacateComplete c s)

/-- CCMD_RESTORE: a vacated or halted context (R286, R381). -/
def evCcmdRestore (c : Nat) (s : State) : Option State :=
  if (s.ctx c).state = .vacated ∨ (s.ctx c).state = .halted then
    some ((s.modCtx c fun x => { x.loosen with state := .restoring, result := CRes.done }).settleRestore c)
  else some (s.cresult c CRes.state)
def execCcmdRestore (c : Nat) (s : State) : Out? := event s (evCcmdRestore c s)

/-- RESTORE_GROVE_PLACEMENT (R263, R381). -/
def evRestoreGrovePlacement (die : Nat) (s : State) : Option State := s.restoreOne die true
def execRestoreGrovePlacement (die : Nat) (s : State) : Out? := event s (evRestoreGrovePlacement die s)

/-- CCMD_ATTACH_DEBUGGER and CCMD_DETACH_DEBUGGER (R286); a free context has none. -/
def evDebugger (c : Nat) (on : Bool) (s : State) : Option State :=
  if (s.ctx c).state = .free then some (s.cresult c CRes.state) else some (s.modCtx c fun x => { x with debugger := on, result := CRes.done })
def execCcmdAttachDebugger (c : Nat) (s : State) : Out? := event s (evDebugger c true s)
def execCcmdDetachDebugger (c : Nat) (s : State) : Out? := event s (evDebugger c false s)

/-! ### Reply slots (R262) -/

/-- The reply of a redirected operation, once it has one. -/
def Out.redirected (o : Out) : Option Reply :=
  match o.work with
  | .det .replied _ rep => some rep
  | .atomic ws _ _ _ _ ret poison fl =>
    let trap := if poison = 0 then none else some (Cause.poison, 0)
    if ws.all (·.done) then some { lanes := o.lanes &&& ~~~poison, vals := ret, flags := fl, trap := trap } else none
  | _ => none

/-- The slot of a reply that is a trap: its lanes, or for a scalar result a PC at which no instruction stands (log entry 32). -/
def trapSlot (o : Out) (rep : Reply) : List Byte :=
  if laneReply o.ins then slotBytesOf o rep else natLe 0 4 ++ (slotBytesOf o {}).drop 4

/-- A redirected operation whose reply is a trap issues again after the restore, for the lanes it has not performed, and raises it then; but an XCHG never
issues twice: its stand takes the trap when it resumes (R218, R219; log entry 32). -/
def State.issueAgain (s : State) (o : Out) (rep : Reply) : State :=
  match rep.trap with
  | none => s
  | some (cause, tval) =>
    let r : Replay := { pc := o.pc, path := o.path, lanes := o.lanes &&& ~~~rep.lanes, part := rep.lanes != 0, counts := o.counted }
    let note := fun (y : SavedStand) => match o.ins with
      | .xchg .. => { y with owed := y.owed ++ [⟨o.pc, o.path, cause, tval⟩] }
      | _ => { y with again := y.again ++ [r] }
    s.modCtx o.ctx fun x => { x with saved := x.saved.map fun g => { g with stands := g.stands.map fun y => if y.uid == o.uid then note y else y } }

/-- The instruction of a redirected operation whose reply is a trap has not committed: the image counts one less (R221). -/
def State.uncountImage (s : State) (o : Out) (rep : Reply) (k : Kernel) (x : SavedStand) : State :=
  if rep.trap.isSome && o.counted then s.putHomes (x.image + k.offTail) (natLe (s.homeNat (x.image + k.offTail) 8 - 1) 8) else s

/-- REPLY_SLOT_WRITE: the reply of a redirected operation fills its slot (R220, R262); flags that it raises join the image's. -/
def evReplySlotWrite (c op : Nat) (s : State) : Option State :=
  match SMap.get? s.outs op with
  | none => none
  | some o => match o.redirect, o.redirected, s.savedStand o.uid with
    | some pa, some rep, some (g, x) =>
      let ker := s.savedKernel g
      let fl := s.homeNat (x.image + 0x24) 2
      let s1 := s.putHomes pa (if rep.trap.isSome then trapSlot o rep else slotBytesOf o rep)
      let s2 := ((s1.putHomes (x.image + 0x24) (natLe ((BitVec.ofNat 16 fl ||| rep.flags.setWidth 16).toNat) 2)).uncountImage o rep ker x).sealImage ker x.image
      due (o.ctx == c && s.carried o) (some ((s2.issueAgain o rep).dropOut op))
    | _, _, _ => none
def execReplySlotWrite (c op : Nat) (s : State) : Out? := event s (evReplySlotWrite c op s)

/-! ### Translations (R130, R287) -/

/-- Take entries out of every TLB of a die. -/
def State.dropTlb (s : State) (die : Nat) (f : TlbEntry → Bool) : State :=
  let keep := fun (l : List TlbEntry) => l.filter fun t => !f t
  { s with
    cores := s.cores.map fun kv => if dieOfCore kv.1 == die then (kv.1, { kv.2 with tlb := keep kv.2.tlb }) else kv
    copses := s.copses.map fun kv => if kv.1 / Config.copses == die then (kv.1, { kv.2 with tlb := keep kv.2.tlb }) else kv }

/-- Those whose operands rest in the combining buffers of a die: they have not performed (R175). -/
def State.restingOn (s : State) (die : Nat) : List Owner :=
  (s.cores.filter fun kv => dieOfCore kv.1 == die).flatMap fun kv => kv.2.combine.flatMap (·.owners)
def State.resting (s : State) (die : Nat) (f : Owner → Bool) : Bool := (s.restingOn die).any f

/-- Start an invalidation: it runs until what used the entries has performed. -/
def State.invalidate (s : State) (die c : Nat) (f : TlbEntry → Bool) : State :=
  let users := (s.outs.filter fun kv => dieOfCore (coreOf kv.2.st) == die && kv.2.ctx == c).map (·.1)
    ++ ((s.restingOn die).filter fun w => w.ctx == c).map (·.op)
  (s.dropTlb die fun t => t.ctx == c && f t).modDie die fun d => { d with tlbBusy := true, tlbOps := d.tlbOps ++ users }

/-- TLB_INVALIDATE_CONTEXT: a value for TLBCTL with bit 10 set. -/
def evTlbInvalidateContext (die : Nat) (v : DWord) (s : State) : Option State :=
  due (v.getLsbD 10) (some (s.invalidate die (DWord.bits v 9 0) fun _ => true))
def execTlbInvalidateContext (die : Nat) (v : DWord) (s : State) : Out? := event s (evTlbInvalidateContext die v s)

/-- TLB_INVALIDATE_RANGE: the pages that TLBVA names. -/
def evTlbInvalidateRange (die : Nat) (v : DWord) (s : State) : Option State :=
  let r := (s.die die).tlbva
  let lo := field (DWord.bits r 55 16) 16
  let n := field (max 1 (DWord.bits r 15 0)) 16
  due (!v.getLsbD 10) (some (s.invalidate die (DWord.bits v 9 0) fun t => decide (t.va < lo + n ∧ lo < t.va + t.size)))
def execTlbInvalidateRange (die : Nat) (v : DWord) (s : State) : Out? := event s (evTlbInvalidateRange die v s)

/-- TLB_INVALIDATION_COMPLETE (R130). -/
def evTlbInvalidationComplete (die : Nat) (s : State) : Option State :=
  let d := s.die die
  due (d.tlbBusy && d.tlbOps.all fun op => (SMap.get? s.outs op).isNone && !(s.resting die fun w => w.op == op)) (some (s.modDie die fun d => { d with tlbBusy := false, tlbOps := [] }))
def execTlbInvalidationComplete (die : Nat) (s : State) : Out? := event s (evTlbInvalidationComplete die s)

/-- DDIR_WRITE (R287). -/
def evDdirWrite (die : Nat) (v : DWord) (s : State) : Option State :=
  some (if (s.die die).gcrt then s else s.modDie die fun d => { d with ddir := field (DWord.bits v 51 18) 18 })
def execDdirWrite (die : Nat) (v : DWord) (s : State) : Out? := event s (evDdirWrite die v s)

end Sys2Proof.Machine
end

