-- ==== Sys2Proof/Machine/EvEng.lean ====
section
/-! DEFINITION. What the streamer and the matrix engine do after issue: copies and OLD in streamer order, MMAs in the array, ALD and
CBLD (R98, R99, R114, R181–R184, R224, R225, R227, R228, R235, R311, R312). An event that is not due changes nothing. -/

namespace Sys2Proof.Machine

/-! ### Copies and OLD -/

/-- The token that a copy names (R51). -/
def copyToken : Instr → Option Nat
  | .cpin _ _ k _ _ _ _ => some k.toNat
  | .cpout _ k _ _ _ _ => some k.toNat
  | _ => none

/-- A copy's token completes when no other copy that names it is outstanding (R51). -/
def State.clearToken (s : State) (o : Out) : State :=
  match copyToken o.ins with
  | none => s
  | some k =>
    if (s.outsOf o.uid).any fun kv => copyToken kv.2.ins == some k then s
    else s.modOwner o fun st => { st with tokmask := st.tokmask &&& ~~~(BitVec.ofNat 8 (2 ^ k)) }

/-- A fill leaves rows, descriptor and scale store in a slot (R224). -/
def State.fillSlot (s : State) (k p : Nat) (desc : OpSlot) (data scales : List Byte) : State :=
  s.modCore k fun c =>
    let x := SMap.get {} c.oslots p
    { c with oslots := SMap.insert c.oslots p ({ desc with data := SMap.setMany 0 x.data 0 data }.withScales scales) }

/-- Address of byte `i` of a CPIN's source, from the registers that name it (R235, R262). -/
def cpinAddr (st : Stand) (ins : Instr) (i : Nat) : DWord :=
  match ins with
  | .cpin _ _ _ a _ _ n =>
    let reg := fun (r : Nat) => if r = 63 then (0 : DWord) else SMap.get 0 st.sregs r
    reg a.toNat + dw (i / max 1 n.toNat * (reg (a.toNat + 1)).toNat + i % max 1 n.toNat)
  | _ => 0

/-- Write one byte of a CPOUT; a live line takes nothing (R208). -/
def State.copyOutByte (s : State) (k : Nat) (sc : Option Nat) (x : Byte × Place) : State :=
  match x.2 with
  | .mem pa => if (SMap.get? s.live (lineNo pa)).isSome then s else s.writePlace k sc x.1 x.2
  | .scr _ _ => s.writePlace k sc x.1 x.2

/-- The live lines that a CPOUT meets (R208). -/
def State.liveLines (s : State) (ps : List Place) : List Nat :=
  if s.live.isEmpty then []
  else ((ps.filterMap fun p => match p with
    | .mem pa => if (SMap.get? s.live (lineNo pa)).isSome then some (lineNo pa) else none
    | .scr _ _ => none)).eraseDups

/-- A copy moves its bytes and completes: as one step (R182–R184, R224, R235; log entry 34). A poisoned source moves nothing. -/
def State.finishCopy (s : State) (op : Nat) (o : Out) (mv : List (Place × Place)) (slot : Option (Nat × OpSlot)) (out : Bool) : State :=
  let k := coreOf o.st
  let sc := some (modeScope o.mode)
  let scales := (slot.map fun x => x.2.scaleSrc.map Place.mem).getD []
  let src := mv.map (·.1)
  let dst := mv.map (·.2)
  let s1 := (s.combineFor k (src ++ dst ++ scales)).readAll k sc (src ++ scales)
  let vals := src.map (s1.readPlace k sc)
  let sv := scales.map (s1.readPlace k sc)
  let s2 := (s1.complete op o).clearToken o
  match (src ++ scales).findIdx? s1.poisonedAt with
  | some i => ((s1.abandon op o).clearToken o).flatPoison op o (cpinAddr (s.stand o.st) o.ins (if i < src.length then i else 0))
  | none =>
    match slot with
    | some (p, desc) => s2.fillSlot k p desc vals sv
    | none =>
      let s3 := (vals.zip dst).foldl (fun u x => u.copyOutByte k sc x) s2
      let whole := dst.filterMap fun p => match p with
        | .mem pa => if (SMap.get? s2.live (lineNo pa)).isSome then none else some pa
        | .scr _ _ => none
      let s4 := if out then (s3.clearPoison whole).ownLines k sc ⟨o.ctx, 0, 0, op, 0, 0⟩ (whole.map fun pa => (pa, dw pa)) else s3
      (s2.liveLines dst).foldl (fun u n => u.grouplineCheck o.ctx (dieOfCore k) (64 * n)) s4

/-- COPY_COMPLETE: in streamer order, after the stand's earlier accesses to the same bytes and to any scratchpad, its publications, and the
MMAs that still read the slot (R162, R167, R172, R181, R182, R228). -/
def evCopyComplete (op : Nat) (s : State) : Option State :=
  match SMap.get? s.outs op with
  | none => none
  | some o => match o.work with
    | .copy mv slot _ out => due (s.canGo op o && s.carried o) <| s.through op o false fun u => some (u.finishCopy op o mv slot out)
    | _ => none
def execCopyComplete (op : Nat) (s : State) : Out? := event s (evCopyComplete op s)

/-- OLD_FILL_COMPLETE (R224, R225, R228). -/
def evOldFillComplete (op : Nat) (s : State) : Option State :=
  match SMap.get? s.outs op with
  | none => none
  | some o => match o.work with
    | .old p desc src =>
      let k := coreOf o.st
      due (s.ripe o && !s.streamBefore o.uid op && s.mayPerform op o false && !s.mmaBefore k p op)
        (some ((s.complete op o).fillSlot k p desc (src.map (s.readPlace k none)) []))
    | _ => none
def execOldFillComplete (op : Nat) (s : State) : Out? := event s (evOldFillComplete op s)

/-! ### The array -/

/-- MMA_ARRAY_START: the array reads both slots, their tables and the accumulator (R99, R227, R228). The fills of a gang leader's B before its MMA completed
before the rendezvous. -/
def evMmaArrayStart (op : Nat) (s : State) : Option State :=
  match SMap.get? s.outs op with
  | none => none
  | some o => match o.work with
    | .mma a b .queued _ _ _ =>
      let k := coreOf o.st
      let d := (mmaRegs o.ins).1
      due (!s.accBefore o.uid op d && !s.fillBefore k a op && (decide (1 < gangN (s.stand o.st).gang) || !s.fillBefore k b op))
        (let sa := SMap.get {} (s.core k).oslots a
         let sb := SMap.get {} (s.core k).oslots b
         (mmaPair sa.sfmt sb.sfmt).map fun p =>
           let r := mmaValues p sa sb (s.ctxSlot k o.ctx).tabs (modeKs o.mode) ((s.stand o.st).accVals d)
           let tabs := (if sa.sfmt = ET.cb2 then [sa.table] else []) ++ (if sb.sfmt = ET.cb2 then [sb.table] else [])
           s.setOut op { o with work := .mma a b .started tabs r.1 r.2 })
    | _ => none
def execMmaArrayStart (op : Nat) (s : State) : Out? := event s (evMmaArrayStart op s)

/-- MMA_FINISH: the array writes the accumulator (R110, R114, R227). -/
def evMmaFinish (op : Nat) (s : State) : Option State :=
  match SMap.get? s.outs op with
  | none => none
  | some o => match o.work with
    | .mma _ _ .started _ _ _ => due (s.ripe o) (some ((s.finishMma o).complete op o))
    | _ => none
def execMmaFinish (op : Nat) (s : State) : Out? := event s (evMmaFinish op s)

/-! ### ALD and CBLD -/

/-- Address of row `r` of an ALD, from the register that names it (R262, R311). -/
def aldAddr (st : Stand) (ins : Instr) (r : Nat) : DWord :=
  match ins with
  | .ald _ _ a lit => (if a = 63 then 0 else SMap.get 0 st.sregs a.toNat) + dw (r * lit.toNat)
  | _ => 0

/-- ALD's rows have returned (R311, R312). -/
def State.finishAld (s : State) (op : Nat) (o : Out) (rows : List Nat) : State :=
  let k := coreOf o.st
  let sc := some (modeScope o.mode)
  let ps := rows.flatMap fun r => (Place.mem r).span 128
  let s1 := (s.combineFor k ps).readAll k sc ps
  let vals := SMap.tabulate 0 (fun i => wd (leNat (((Place.mem (elemPa rows i)).span 4).map (s1.readPlace k sc)))) 0 1024
  match ps.findIdx? s1.poisonedAt with
  | some i => (s1.abandon op o).flatPoison op o (aldAddr (s.stand o.st) o.ins (i / 128) + dw (i % 128 / 32 * 32))
  | none => (s1.modOwner o fun st => st.putAcc (match o.ins with
      | .ald _ d _ _ => d.toNat
      | _ => 0) vals).complete op o

/-- ALD_COMPLETE (R162, R182, R311). -/
def evAldComplete (op : Nat) (s : State) : Option State :=
  match SMap.get? s.outs op with
  | none => none
  | some o => match o.work, o.ins with
    | .ald rows, .ald .. => due (s.canGo op o && s.carried o) <| s.through op o false fun u => some (u.finishAld op o rows)
    | _, _ => none
def execAldComplete (op : Nat) (s : State) : Out? := event s (evAldComplete op s)

/-- Whether an MMA in the array uses a table of a context on a core (R98). -/
def State.tableInUse (s : State) (k c tab : Nat) : Bool :=
  s.outs.any fun kv => coreOf kv.2.st == k && kv.2.ctx == c && (match kv.2.work with
    | .mma _ _ .started tabs _ _ => tabs.contains tab
    | _ => false)

/-- The rows of a table from its 1,024 bytes (R98). -/
def putTable (tabs : SMap Word) (tab : Nat) (bs : List Byte) : SMap Word :=
  (upFrom 0 256).foldl (fun m i => SMap.set 0 m (256 * tab + i) (wd (leNat ((bs.drop (4 * i)).take 4)))) tabs

/-- CBLD_TABLE_WRITE: the table changes in one step, unless a byte is poisoned (R98, R99). -/
def evCbldTableWrite (op : Nat) (s : State) : Option State :=
  match SMap.get? s.outs op with
  | none => none
  | some o => match o.work, o.ins with
    | .cbld pa va, .cbld _ tab _ =>
      let k := coreOf o.st
      let ps := (Place.mem pa).span 1024
      due (s.canGo op o && s.carried o) <| s.through op o (!ps.any s.poisonedAt && s.tableInUse k o.ctx tab.toNat) fun u =>
        let s1 := (u.combineFor k ps).readAll k none ps
        if ps.any s1.poisonedAt then some ((s1.abandon op o).flatPoison op o va)
        else some ((s1.complete op o).modSlot k o.ctx fun x =>
          { x with tabs := putTable x.tabs tab.toNat (ps.map (s1.readPlace k none)), sources := SMap.insert x.sources tab.toNat pa })
    | _, _ => none
def execCbldTableWrite (op : Nat) (s : State) : Out? := event s (evCbldTableWrite op s)

end Sys2Proof.Machine
end

