-- ==== Sys2Proof/Machine/EvQueue.lean ====
section
/-! DEFINITION. Queues, counters, buffers and I/O chains after issue: the controller's turn, messages between dies, retries, and
the I/O engine (R181, R185–R187, R237–R253). An event that is not due changes nothing. -/

namespace Sys2Proof.Machine

/-- QUEUE_OP_AT_CONTROLLER: after the release that stands before it (R240, R245, R358). For QDEQ and QSTEAL it comes again until the bits that decide have
been read (R249). -/
def evQueueOpAtController (op : Nat) (s : State) : Option State :=
  match s.detOp op with
  | some (o, .sent, ask, _) =>
    due (s.canGo op o && s.carried o && !o.isRemoteQenq ask) (match o.ins with
      | .qenq .. | .qdeq .. | .qsteal .. => s.through op o (s.examines op o ask) fun u => some (u.queueAct op { o with gone := o.gone ++ s.needs o } ask)
      | .chapp .. | .chseq .. => s.through op o false fun u => some (u.chainAct op o ask)
      | _ => none)
  | _ => none
def execQueueOpAtController (op : Nat) (s : State) : Out? := event s (evQueueOpAtController op s)

/-- REMOTE_QENQ_MESSAGE: operation `m`, or a successor enqueue with number `m`, arrives at the controller of another die (R247). -/
def evRemoteQenqMessage (m : Nat) (s : State) : Option State :=
  match s.detOp m with
  | some (o, .sent, ask, _) => due (s.canGo m o && s.carried o && o.isRemoteQenq ask) <| s.through m o false fun u => some (u.queueAct m o ask)
  | some _ => none
  | none => match s.enqs.find? fun e => e.id == m && !e.retry with
    | some e => due s.fab.up (some (s.trySuccessor e))
    | none => none
def execRemoteQenqMessage (m : Nat) (s : State) : Out? := event s (evRemoteQenqMessage m s)

/-- SUCCESSOR_ENQUEUE_RETRY (R251). -/
def evSuccessorEnqueueRetry (m : Nat) (s : State) : Option State :=
  match s.enqs.find? fun e => e.id == m && e.retry with
  | some e => due s.fab.up (some (s.trySuccessor e))
  | none => none
def execSuccessorEnqueueRetry (m : Nat) (s : State) : Out? := event s (evSuccessorEnqueueRetry m s)

/-- COUNTER_DECREMENT_AT_HOME: what rests in the combining buffer for the line performs first (R162, R175, R251, R252). -/
def evCounterDecrementAtHome (op : Nat) (s : State) : Option State :=
  match s.detOp op with
  | some (o, .sent, ask, _) => match o.ins with
    | .tdone .. => due (s.canGo op o && s.carried o) <| s.through op o false fun u =>
        if ((Place.mem ask.pa).span 64).any u.poisonedAt then some (u.replyTo op { trap := some (Cause.poison, ask.val) })
        else
          let (s1, code) := ((u.combineFor (coreOf o.st) ((Place.mem ask.pa).span 64)).lineHome (coreOf o.st) ask.pa).decrement o.ctx ask.pa false
          some ((s1.lineDrop (coreOf o.st) ask.pa).replyTo op { status := dw code })
    | _ => none
  | _ => none
def execCounterDecrementAtHome (op : Nat) (s : State) : Out? := event s (evCounterDecrementAtHome op s)

/-- Set the full bit of a buffer, or find it so (R248). -/
def State.setFull (s : State) (op pa : Nat) (v : Bool) : State :=
  if SMap.get false s.full (lineNo pa) = v then s.replyTo op { status := dw QCode.state }
  else ({ s with full := SMap.set false s.full (lineNo pa) v }).replyTo op { status := dw QCode.ok }

/-- BUFFER_BIT_AT_HOME (R248). -/
def evBufferBitAtHome (op : Nat) (s : State) : Option State :=
  match s.detOp op with
  | some (o, .sent, ask, _) => due (s.canGo op o && s.carried o) (match o.ins with
    | .tfull .. => s.through op o false fun u => some (u.setFull op ask.pa true)
    | .tempty .. => s.through op o false fun u => some (u.setFull op ask.pa false)
    | .tstat .. => s.through op o false fun u => some (u.replyTo op { status := dw (field (b2n (SMap.get false u.full (lineNo ask.pa))) 32) })
    | _ => none)
  | _ => none
def execBufferBitAtHome (op : Nat) (s : State) : Out? := event s (evBufferBitAtHome op s)

/-! ### The I/O engine -/

/-- Fields of an entry (R238). -/
def IoEntry.op (x : IoEntry) : Nat := bytesNat x.bytes 0 1
def IoEntry.len (x : IoEntry) : Nat := bytesNat x.bytes 4 4
def IoEntry.handle (x : IoEntry) (i : Nat) : DWord := dw (bytesNat x.bytes (8 + 8 * i) 8)
def IoEntry.threshold (x : IoEntry) (i : Nat) : Nat := bytesNat x.bytes (0x20 + 8 * i) 8

/-- Whether the reserved bytes of an entry are zero for its op (R238). -/
def IoEntry.reservedOk (x : IoEntry) : Bool :=
  let zero := fun (off n : Nat) => bytesNat x.bytes off n == 0
  zero 1 1 && zero 0x38 8 && (match x.op with
    | 1 => zero 0x20 24
    | 2 => zero 0x28 16
    | 3 => zero 0x28 16
    | 4 => zero 4 4
    | _ => true)

/-- Codes of `estat` (R239). -/
abbrev EStat.badop : Nat := 1
abbrev EStat.stale : Nat := 2
abbrev EStat.handle : Nat := 3
abbrev EStat.rights : Nat := 4
abbrev EStat.self : Nat := 5
abbrev EStat.length : Nat := 6
abbrev EStat.fault : Nat := 7
abbrev EStat.media : Nat := 8
abbrev EStat.remote : Nat := 9
abbrev EStat.poison : Nat := 10

/-- What is wrong with a handle in an entry: MAC or kind, then the right, then the generation (R205, R239). -/
def State.entryHandle (s : State) (c : Nat) (x : DWord) (kind right : Nat) : Option Nat :=
  if handleKind x ≠ kind ∨ DWord.bits x 63 40 ≠ handleMac (s.ctx c) (x.toNat % 2 ^ 40) then some EStat.handle
  else if !(handleRights x).testBit right then some EStat.rights
  else if s.gen (handleKey x) ≠ handleGen x then some EStat.stale
  else none

/-- The chains that a fence names, with their thresholds (R185). -/
def IoEntry.names (x : IoEntry) : List (DWord × Nat) :=
  ((upFrom 0 3).filter fun i => x.handle i != 0).map fun i => (x.handle i, x.threshold i)

/-- Why a fence completes at once with an error (R185, R239). -/
def State.fenceError (s : State) (c ck : Nat) (x : IoEntry) : Option Nat :=
  x.names.findSome? fun h => match s.entryHandle c h.1 3 1 with
    | some code => some code
    | none => if handleKey h.1 = ck then some EStat.self else none

/-- Whether every chain that a fence names has reached its threshold (R185). -/
def State.fenceMet (s : State) (x : IoEntry) : Bool :=
  x.names.all fun h => match s.chainOf h.1 with
    | some y => decide (h.2 ≤ y.completed)
    | none => true

/-- IO_ENTRY_START: the next published entry, with at most 32 in flight and no fence among them (R181, R241). -/
def evIoEntryStart (chain : Nat) (s : State) : Option State :=
  match SMap.get? s.chains chain with
  | none => none
  | some c =>
    due (decide (c.started < c.published ∧ c.flight.length < Config.prefetch) && !c.flight.any fun x => x.op == 4)
      (let n := c.started + 1
       some (s.setChain chain { c with started := n, flight := c.flight ++ [{ n := n, bytes := s.homeBytes (c.slot n) 64 }] }))
def execIoEntryStart (chain : Nat) (s : State) : Out? := event s (evIoEntryStart chain s)

/-- Write raw bytes at a context's address, page by page, as far as it translates with W (R238, R239); a byte of a live line is dropped
(R208). Whether all went. -/
def State.dmaWrite (s : State) (c : Nat) : DWord → List Byte → State × List Nat × Bool
  | _, [] => (s, [], true)
  | va, b :: bs => match s.ctlAddr c (fun t => t.w) va with
    | none => (s, [], false)
    | some pa =>
      let live := (SMap.get? s.live (lineNo pa)).isSome
      let (s1, pas, ok) := (if live then s else s.putHome pa b).dmaWrite c (va + 1) bs
      (s1, pa :: pas, ok)

/-- The writes of an entry, with the poison that whole sectors clear and the check for each live line (R208, R239, R372). -/
def State.ioWrite (s : State) (c ck : Nat) (va : DWord) (bs : List Byte) : State × Bool :=
  let (s1, pas, ok) := s.dmaWrite c va bs
  let lines := if s.live.isEmpty then [] else ((pas.map lineNo).filter fun n => (SMap.get? s.live n).isSome).eraseDups
  (lines.foldl (fun u n => u.grouplineCheck c (ck % 65536 / 16384) (64 * n)) (s1.clearPoison pas), ok)

/-- What a data entry finds wrong before any byte moves (R238, R239). -/
def State.entryError (s : State) (c : Nat) (x : IoEntry) : Option Nat :=
  let ep := SMap.get? s.endpoints (handleKey (x.handle 0))
  let nvme := x.op == 1
  match s.entryHandle c (x.handle 0) 4 (if x.op = 3 then 1 else 0), ep with
  | some code, _ => some code
  | none, none => some EStat.stale
  | none, some e =>
    if e.nvme != nvme then some EStat.handle
    else if x.len = 0 ∨ 2097152 < x.len ∨ (nvme = true ∧ x.len % 2 ^ e.blk ≠ 0) then some EStat.length
    else if 2 ^ 60 ≤ (x.handle 1).toNat ∨ (nvme = true ∧ (x.handle 1).toNat % 4 ≠ 0) then some EStat.fault
    else none

/-- Whether an entry waits for its device: it is of a kind that moves data, and nothing about it is wrong. -/
def State.needsDevice (s : State) (c : Nat) (x : IoEntry) : Bool :=
  decide (1 ≤ x.op ∧ x.op ≤ 3) && x.reservedOk && (s.entryError c x).isNone

/-- The packets of an RDMA entry, and how many bytes each carries (R290). -/
def IoEntry.packets (x : IoEntry) : List Nat := upFrom 0 ((x.len + Config.packetBytes - 1) / Config.packetBytes)
def IoEntry.packetLen (x : IoEntry) (i : Nat) : Nat := min Config.packetBytes (x.len - Config.packetBytes * i)

/-- Packet `i` of an RDMA entry: the bytes of a read that it brings are written, or those of a write leave with it (R238, R239, R290). What is wrong, as a
code. -/
def State.movePacket (s : State) (c ck : Nat) (x : IoEntry) (i : Nat) (bs : List Byte) : State × Nat :=
  let off := dw (Config.packetBytes * i)
  if x.op = 2 then
    let (s1, ok) := s.ioWrite c ck (x.handle 1 + off) bs
    (s1, if ok then 0 else EStat.fault)
  else
    let peer := ((SMap.get? s.endpoints (handleKey (x.handle 0))).map (·.unit)).getD 0
    let pas := (upFrom 0 (x.packetLen i)).map fun j => s.ctlAddr c (fun t => t.p) (x.handle 1 + off + dw j)
    if pas.any Option.isNone then (s, EStat.fault)
    else if (pas.filterMap id).any fun pa => s.poisonedAt (.mem pa) then (s, EStat.poison)
    else (s.tell (.rdmaWrite peer (x.handle 2 + off) (x.handle 3) ((pas.filterMap id).map s.homeByte)), 0)

/-- Packets of an RDMA entry in turn, until something is wrong; `bs` are the bytes of the whole entry. -/
def State.movePackets (s : State) (c ck : Nat) (x : IoEntry) (bs : List Byte) : List Nat → State × Nat
  | [] => (s, 0)
  | i :: is => match s.movePacket c ck x i ((bs.drop (Config.packetBytes * i)).take (x.packetLen i)) with
    | (s1, 0) => s1.movePackets c ck x bs is
    | r => r

/-- The data of an entry that is still to move moves: what the device answered, or the local bytes of an RDMA write (R238, R239, R241, R290). The code,
with the device's status. -/
def State.moveEntry (s : State) (c ck : Nat) (x : IoEntry) (bs : List Byte) (fails : Option Byte) : State × Nat :=
  let n := if fails.isSome then min x.len bs.length else x.len
  let bad := match fails with
    | some st => (if x.op = 1 then EStat.media else EStat.remote) + field st.toNat 8
    | none => 0
  let (s1, code) :=
    if x.op = 1 then (let (s1, ok) := s.ioWrite c ck (x.handle 1) (fit n bs); (s1, if ok then 0 else EStat.fault))
    else s.movePackets c ck x (fit n bs) ((x.packets.filter fun i => !x.moved.contains i && decide (Config.packetBytes * i < n)))
  (s1, if code = 0 then bad else code)

/-- An entry has moved a packet, or has failed at it. -/
def State.afterPacket (s : State) (ck : Nat) (x : IoEntry) (i : Nat) : State :=
  { s with chains := SMap.modify s.chains ck fun c => { c with flight := c.flight.map fun y => if y.n = x.n then { y with moved := i :: y.moved } else y } }

/-- Publish the numbers of finished entries in order (R186, R187). -/
def Chain.publish (c : Chain) : Nat → Chain
  | 0 => c
  | fuel + 1 => if c.finished.contains (c.completed + 1) then
      { c with completed := c.completed + 1, finished := c.finished.filter (· != c.completed + 1) }.publish fuel
    else c

/-- An entry is done: `estat` first, then its number (R187, R238). -/
def State.finishEntry (s : State) (ck n code : Nat) : State :=
  match SMap.get? s.chains ck with
  | none => s
  | some c =>
    let c1 := { c with flight := c.flight.filter (·.n != n), finished := c.finished ++ [n] }
    (s.putHomes (c.slot n + 2) (natLe code 2)).setChain ck (c1.publish c1.finished.length)

/-- IO_ENTRY_COMPLETE: entry `n` of a chain, with what its device answered (R185, R187, R238, R239). An entry of op 0 completes with OK whatever its
reserved bytes hold (DESIGN CHOICE; log entry 105). -/
def evIoEntryComplete (chain n : Nat) (dev : DevResult) (s : State) : Option State :=
  match SMap.get? s.chains chain with
  | none => none
  | some c => match c.flight.find? (·.n == n) with
    | none => none
    | some x => due s.fab.up <|
      if x.op = 0 then some (s.finishEntry chain n 0)
      else if 4 < x.op ∨ x.reservedOk = false then some (s.finishEntry chain n EStat.badop)
      else if x.op = 4 then match s.fenceError c.ctx chain x with
        | some code => some (s.finishEntry chain n code)
        | none => due (s.fenceMet x) (some (s.finishEntry chain n 0))
      else match s.entryError c.ctx x with
        | some code => some (s.finishEntry chain n code)
        | none => match dev with
          | .packet i bs =>
            let (s1, code) := s.movePacket c.ctx chain x i (fit (x.packetLen i) bs)
            due (decide (x.op ≠ 1) && x.packets.contains i && !x.moved.contains i)
              (some (if code = 0 then s1.afterPacket chain x i else s1.finishEntry chain n code))
          | .done bs => let (s1, code) := s.moveEntry c.ctx chain x bs none; some (s1.finishEntry chain n code)
          | .failed bs st => let (s1, code) := s.moveEntry c.ctx chain x bs (some st); some (s1.finishEntry chain n code)
def execIoEntryComplete (chain n : Nat) (dev : DevResult) (s : State) : Out? := event s (evIoEntryComplete chain n dev s)

end Sys2Proof.Machine
end

