-- ==== Sys2Proof/Machine/EvErr.lean ====
section
/-! DEFINITION. Errors and what watches for them: uncorrectable errors, region restarts and killed groves, self-tests and the coppice
rotation, page faults that system software settles, remote operations that fail, the watchdog (R132, R133, R179, R200, R252,
R264–R271). An event that is not due changes nothing. -/

namespace Sys2Proof.Machine

/-! ### Region restart (R265) -/

/-- Whether a stand that restarts its region has settled: its wait counters are zero and its tokens complete. -/
def Stand.restartDue (st : Stand) : Bool :=
  st.restart && decide (st.loads = 0 ∧ st.stores = 0 ∧ st.copies = 0 ∧ st.tiles = 0 ∧ st.tokmask = 0)

/-- The path table of a stand that restarts its region: one ACTIVE entry at the region's start. -/
def Stand.atRegion (st : Stand) (r : Region) (now : Nat) : Stand :=
  { st with restart := false, inHandler := none, deferred := false, kept := none, recount := false, paths := [(0, Path.start 0 (BitVec.ofNat 17 r.ientry) r.mask now)], ovf := [],
            dis := r.mask &&& ~~~r.em }

/-- A stand stops issue for a region restart: what it has parked does not issue again, and no path waits for the vacate check. -/
def State.stopIssue (s : State) (key : Nat) : State :=
  let st := s.stand key
  let s1 := st.paths.foldl (fun u kv => u.closeLead false kv.2.lead) s
  (s1.modSlot (coreOf key) st.ctx fun x => { x with stalled := x.stalled.filter (·.st != key) }).modStand key fun t =>
    { t with restart := true, paths := t.paths.map fun kv => (kv.1, { kv.2 with parked := none, part := none, filling := false }) }

/-- A stand whose restart is due resumes at its region, with every slot of its overflow area FREE (R14, R265). -/
def State.resumeRegion (s : State) (key : Nat) : State :=
  let st := s.stand key
  if st.restartDue then match st.region with
    | some r => ((s.orphanLines key).setStand key (st.atRegion r (s.cycOf (coreOf key)))).keepOver key st.ovf
    | none => (s.orphanLines key).setStand key { st with restart := false }
  else s

/-- Every stand whose restart is due resumes at its region (R265). It follows each step. -/
def State.settleRestarts (s : State) : State := (s.standsWhere fun _ st => st.restart).foldl State.resumeRegion s

/-! ### A killed grove (R266) -/

/-- Operations of a killed stand: what has left goes on without it, what waits in the drain path, in the streamer's fill of a slot or
for the array is gone. -/
def State.killOuts (s : State) (uid : Nat) : State :=
  let keep := fun (o : Out) => match o.work with
    | .tile t => t.stage == .home
    | .copy _ none _ _ | .det .. | .store .. | .atomic .. | .discard .. => true
    | _ => false
  { s with outs := (s.outs.filter fun kv => kv.2.uid != uid || keep kv.2).map fun kv => if kv.2.uid == uid then (kv.1, { kv.2.bare with redirect := none }) else kv }

/-- Take a stand away by a fault (R212, R266). -/
def State.killStand (s : State) (key : Nat) : State :=
  let uid := (s.stand key).uid
  let tiles := ((s.outsOf uid).filter fun kv => match kv.2.work with
    | .tile t => t.stage != .home
    | _ => false).map (·.1)
  let s1 := (((s.squashStand key).orphanLines key).leaveAll uid true).withdrawOffers uid
  let s2 := s1.modCore (coreOf key) fun c => { c with drain := c.drain.filter fun op => !tiles.contains op }
  let cut := fun (h : Home) => { h with tiles := h.tiles.filter fun x => !tiles.contains x.op }
  let homes : SMap Home := s2.homes.map fun kv => (kv.1, cut kv.2)
  let s3 := { s2 with homes := homes }
  (s3.removeStand key).killOuts uid

/-- The stands of a killed grove that the debugger has halted are gone with it (R266, R272). -/
def State.killSaved (s : State) (c gid : Nat) : State :=
  let gone := ((s.ctx c).saved.filter fun g => g.id == gid).flatMap fun g => g.stands.map (·.uid)
  (gone.foldl (fun u uid => (u.leaveAll uid true).killOuts uid) s).modCtx c fun x => { x with saved := x.saved.filter fun g => g.id != gid }

/-- Kill a grove: it is placed again where its kernel is idempotent, else its context halts (R266). -/
def State.killGrove (s : State) (gid : Nat) : State :=
  let g := s.grove gid
  let l := s.launch g.launch
  let d := dieOfCore g.core
  let s1 := (((s.standsOfGrove gid).foldl (fun u key => u.killStand key) s).killSaved l.ctx gid).removeGrove gid
  if l.kernel.idemk then
    (s1.modLaunch g.launch fun x => { x with blocks := ⟨g.g / 8, d, [g.g], true⟩ :: x.blocks }).yieldCore g.core
  else s1.fatal d ⟨l.ctx, 0xFFFF, 0x21, 0, 0, (s1.die d).cyc⟩

/-! ### Uncorrectable errors (R264) -/

/-- Numbers of the structures in the error log (log entry 39). -/
def partCode : StandPart → Nat
  | .registers => 0 | .predicates => 1 | .scalars => 2 | .handles => 3 | .accumulators => 4 | .operandSlots => 5 | .pathTable => 6 | .overflow => 7
abbrev Struct.line : Nat := 8
abbrev Struct.memory : Nat := 9
abbrev Struct.scratchpad : Nat := 10
abbrev Struct.residual : Nat := 11
abbrev Struct.drain : Nat := 12
abbrev Struct.queue : Nat := 13
abbrev Struct.counter : Nat := 14

/-- Every error is logged with its structure, in the place of `tepc`, and its location (R267; log entry 39). -/
def State.noteError (s : State) (d structure_ : Nat) (ctx gsi loc : Nat) : State :=
  s.logError d ⟨ctx, gsi, 0x21, structure_, dw loc, (s.die d).cyc⟩

/-- The die of a physical address. -/
def dieOfPa (pa : Nat) : Nat := dieOfHome ((homeOf pa).getD 0)

/-- Where a stand stands, for a record that names no instruction: its lowest running path, as `tepc` gives one (log entry 39). -/
def Stand.firstPc (st : Stand) : Nat :=
  let i := (pathIdx.find? fun i => (st.path i).state.runs).getD 0
  field i 17 + (st.path i).pc.toNat

/-- An error in a stand's own structures. -/
def State.standError (s : State) (key : Nat) (st : Stand) (part : StandPart) : State :=
  let d := dieOfCore (coreOf key)
  let s1 := s.noteError d (partCode part) st.ctx (s.gsi key) key
  if st.region.isSome then (s1.stopIssue key).settleRestarts
  else s1.fatal d (s1.mcheckOf key 0x21 st.firstPc (dw key))

/-- An error in a clean line of a core or a copse. -/
def State.lineError (s : State) (copse : Bool) (n line : Nat) : Option State :=
  let clean := fun (m : SMap Line) => match SMap.get? m line with
    | some l => l.dirty == 0
    | none => false
  if copse then
    let c := s.copse n
    due (clean c.cache) (some ((s.setCopse n { c with cache := SMap.erase c.cache line }).noteError (n / Config.copses) Struct.line 0 0xFFFF (64 * line)))
  else
    let c := s.core n
    due (clean c.snap) (some ((s.setCore n { c with snap := SMap.erase c.snap line }).noteError (dieOfCore n) Struct.line 0 0xFFFF (64 * line)))

/-- An error in a queued record: the record is poisoned, the queue is broken, and its context is told once (R252). -/
def State.queueError (s : State) (q k : Nat) : Option State :=
  match SMap.get? s.queues (queueKey q) with
  | none => none
  | some x =>
    let d := q / 1024
    let recs := ((upFrom 0 x.recs.length).zip x.recs).map fun p => if p.1 = k then { p.2 with poisoned := true } else p.2
    let s1 := s.setQueue (queueKey q) { x with broken := true, recs := recs }
    let s2 := s1.noteError d Struct.queue x.ctx 0xFFFF q
    due (decide (k < x.recs.length)) (some (if x.broken then s2
      else s2.report d ⟨x.ctx, 0xFFFF, 0x22, 0, dw q, (s.die d).cyc⟩))

/-- Whether an outstanding operation is to read the sector of an address: an error in it strikes before that has issued or after it has read (log entry
23). -/
def State.sectorRead (s : State) (pa : Nat) : Bool :=
  s.outs.any fun kv => !kv.2.orphan && !kv.2.spec && kv.2.perils.any fun p => match p with
    | .mem x => decide (x / 32 = pa / 32)
    | .scr _ _ => false

/-- UNCORRECTABLE_ERROR (R264). -/
def evUncorrectableError (loc : ErrLoc) (s : State) : Option State :=
  match loc with
  | .standSide part key => (SMap.get? s.stands key).map fun st => s.standError key st part
  | .cleanLine copse n line => s.lineError copse n line
  | .memory pa => due (decide (pa < 2 ^ 52) && !s.sectorRead pa) (some ((s.setPoison pa true).noteError (dieOfPa pa) Struct.memory 0 0xFFFF pa))
  | .scratchpad gid => (SMap.get? s.groves gid).map fun g =>
      (s.noteError (dieOfCore g.core) Struct.scratchpad (s.launch g.launch).ctx 0xFFFF g.core).killGrove gid
  | .residual key n => match SMap.get? s.stands key with
    | none => none
    | some st => due (SMap.get? st.residuals n).isSome
        (some ((s.noteError (dieOfCore (coreOf key)) Struct.residual st.ctx (s.gsi key) n).setStand key
          { st with residuals := SMap.modify st.residuals n fun r => { r with poisoned := true } }))
  | .drainEntry op => match s.tileOp op with
    | none => none
    | some (o, t) =>
      due ((s.core (coreOf o.st)).drain.contains op)
        (some ((s.noteError (dieOfCore (coreOf o.st)) Struct.drain o.ctx 0xFFFF t.rpa).setTile op o { t with poisoned := true }))
  | .queueEntry q k => s.queueError q k
  | .counterLine pa => due (decide (pa < 2 ^ 52) && !s.sectorRead pa) (some ((s.setPoison pa true).noteError (dieOfPa pa) Struct.counter 0 0xFFFF pa))
def execUncorrectableError (loc : ErrLoc) (s : State) : Out? := event s (evUncorrectableError loc s)

/-! ### Self-tests and the coppice rotation (R267–R269) -/

/-- Drain a core by a vacate with image reason 2; its contexts move to the core on which they come back, or leave their slots (R268). -/
def State.drainCore (s : State) (k : Nat) (onto : Option Nat) : State :=
  let gs := (s.groves.filter fun kv => kv.2.core == k).map (·.1)
  let cs := (s.core k).slot0.ctx.toList ++ (s.core k).slot1.ctx.toList
  let s1 := gs.foldl (fun u g => u.haltGrove g 2 onto) s
  let s2 := cs.foldl (fun u c => u.freeSlot k c) ((s1.publishCore k 4).combineDrain k fun _ => true)
  match onto with
  | some j => cs.foldl (fun u c => u.takeSlot c j) s2
  | none => s2

/-- Physical cores of a copse. -/
def coresOfCopse (cp : Nat) : List Nat := upFrom (cp * Config.physPerCopse) Config.physPerCopse
/-- The core of a copse that is withdrawn (R268). -/
def State.withdrawn (s : State) (cp : Nat) : Option Nat := (coresOfCopse cp).find? fun k => (s.core k).work.isNone && !(s.core k).retired
/-- The core next in copse-local order after `k` that is in service (R268). -/
def State.nextInCopse (s : State) (cp k : Nat) : Option Nat :=
  ((upFrom (k + 1) (cp * Config.physPerCopse + Config.physPerCopse - k - 1)) ++ upFrom (cp * Config.physPerCopse) (k - cp * Config.physPerCopse)).find? fun j =>
    (s.core j).work.isSome

/-- Clear the provisional flag of a launch, with release at system scope, once no core of it waits for a scan (R269). -/
def State.clearProvisional (s : State) (k l : Nat) : State :=
  let x := s.launch l
  if x.left = 0 ∧ x.done = 0 ∧ x.cores = [] then
    match x.succ with
    | none => s.dropLaunch l
    | some pa => ((s.publishCore k 5).putHome (pa + 4) (s.homeByte (pa + 4) &&& 0x7F#8)).dropLaunch l
  else s

/-- A core has passed its scan: no launch that it ran waits for it any more (R269). -/
def State.passScan (s : State) (k : Nat) : State :=
  let ls := (s.launches.filter fun kv => kv.2.cores.contains k).map (·.1)
  ls.foldl (fun u l => (u.modLaunch l fun x => { x with cores := x.cores.filter (· != k) }).clearProvisional k l) s

/-- A core leaves service for good: every launch that it ran since its last scan is reported for re-execution (R267, R269). -/
def State.retireCore (s : State) (k : Nat) : State :=
  let ls := (s.launches.filter fun kv => kv.2.cores.contains k).map (·.1)
  ls.foldl (fun u l => u.tell (.reexecute l)) (s.modCore k fun c => { c with work := none, retired := true })

/-- The next core of a copse is withdrawn; a core that returns takes its working number, and its contexts come back on it (R268). A
retired core takes nothing: the groves then wait for any core (R267, R381). -/
def State.rotate (s : State) (cp k : Nat) (back : Bool) : State :=
  match s.nextInCopse cp k with
  | none => s
  | some j =>
    let w := (s.core j).work
    let s1 := (s.drainCore j (if back then some k else none)).modCore j fun c => { c with work := none }
    if back then s1.modCore k fun c => { c with work := w } else s1

/-- COPPICE_SCAN_END (R268, R269). -/
def evCoppiceScanEnd (die copse : Nat) (pass : Bool) (s : State) : Option State :=
  let cp := die * Config.copses + copse
  match s.withdrawn cp with
  | none => none
  | some k => due (decide (die < Config.dies ∧ copse < Config.copses))
      (some (if pass then (s.passScan k).rotate cp k true else (s.retireCore k).rotate cp k false))
def execCoppiceScanEnd (die copse : Nat) (pass : Bool) (s : State) : Out? := event s (evCoppiceScanEnd die copse pass s)

/-- ERROR_SELF_TEST (R267): a core is drained, and comes back or retires; a frame that fails is retired and reported. -/
def evErrorSelfTest (tgt : TestTarget) (pass : Bool) (s : State) : Option State :=
  match tgt with
  | .frame pa => some (if pass then s else { s with badFrames := SMap.set false s.badFrames (pa / 65536) true }.tell (.frame (pa / 65536 * 65536)))
  | .core k =>
    due (decide (k < Config.dies * Config.physPerDie) && !(s.core k).retired)
      (some (if pass then (if (s.core k).work.isSome then s.drainCore k (some k) else s)
        else if (s.core k).work.isSome then (s.drainCore k none).retireCore k
        else (s.retireCore k).rotate (copseOfCore k) k false))
def execErrorSelfTest (tgt : TestTarget) (pass : Bool) (s : State) : Out? := event s (evErrorSelfTest tgt pass s)

/-! ### Page faults (R132, R133) -/

/-- The replay record of a stand that is parked for entry `i`, and where (R378, R379). -/
def Stand.parkedReplay (st : Stand) (i : Nat) : Option (Replay × DWord) :=
  match st.replays with
  | r :: _ => if r.path = i then r.parked.map fun k => (r, k.1) else none
  | [] => none

/-- PAGE_FAULT_RESOLVED: the instruction issues again for its unfinished lanes. -/
def evPageFaultResolved (key idx : Nat) (s : State) : Option State :=
  match SMap.get? s.stands key with
  | none => none
  | some st => match st.parkedReplay idx with
    | some _ => some (s.setStand key (st.modRecord fun r => { r with parked := none }))
    | none => (st.path idx).parked.map fun _ => s.setStand key (st.modPath idx fun p => { p with parked := none, part := p.left })
def execPageFaultResolved (st path : Nat) (s : State) : Out? := event s (evPageFaultResolved st path s)

/-- The lanes of a parked instruction's first issue. Where an image brought the path back, or an ERET, which do not hold them, they are those that it would
act on now (log entry 23). -/
def Stand.firstLanes (st : Stand) (i : Nat) (k : Park) : Mask :=
  let p := (st.path i).part
  let ins := if k.fetch then p.bind (·.ins) else k.ins
  let now := if ins.any fun j => (roles j).guarded then st.em i &&& st.guard else st.em i
  (if k.fetch then p.bind (·.first) else k.first).getD now

/-- PAGE_FAULT_FATAL: PAGEFAULT, whatever `trapen` holds. PART tells whether lanes of the instruction have performed (R133). A record's comes when the
handler that an earlier record entered has returned (R379). -/
def evPageFaultFatal (key idx : Nat) (s : State) : Option State :=
  match SMap.get? s.stands key with
  | none => none
  | some st => match st.parkedReplay idx with
    | some (r, va) => due (!st.deferred) <| some (s.takeTrap key idx r.pc true { cause := Cause.pagefault, tval := va, tmask := r.lanes, part := r.part })
    | none => (st.path idx).parked.map fun k =>
      s.takeTrap key idx (st.path idx).pc false
        { cause := Cause.pagefault, tval := k.va, tmask := k.lanes, part := k.lanes != st.firstLanes idx k }
def execPageFaultFatal (st path : Nat) (s : State) : Out? := event s (evPageFaultFatal st path s)

/-! ### Remote operations (R179, R270, R271) -/

/-- The address of an operation: of its lowest lane, or of its first byte. -/
def State.opAddr (s : State) (o : Out) : DWord :=
  match o.work with
  | .load accs _ | .tagget accs => (accs.head?.map (·.va)).getD 0
  | .sload a => a.va
  | .store wr _ => (wr.head?.map (·.va)).getD 0
  | .discard va _ => va
  | .atomic ws .. => (ws.head?.map (·.va)).getD 0
  | .cbld _ va => va
  | .tile t => t.rva
  | .det _ ask _ => match o.ins with
    | .gcrt .. | .tdone .. | .tfull .. | .tempty .. | .tstat .. => ask.val
    | _ => ask.handle
  | .copy .. =>
    let reg := fun (r : Nat) => if r = 63 then (0 : DWord) else SMap.get 0 (s.stand o.st).sregs r
    match o.ins with
    | .cpin _ _ _ a _ _ _ => reg a.toNat
    | .cpout _ _ _ b _ _ => reg b.toNat
    | _ => 0
  | .ptld _ | .ald _ =>
    let reg := fun (r : Nat) => if r = 63 then (0 : DWord) else SMap.get 0 (s.stand o.st).sregs r
    match o.ins with
    | .ptld _ a => reg a.toNat
    | .ald _ _ a _ => reg a.toNat
    | _ => 0
  | _ => 0

/-- An operation leaves the machine without its effect: its counter and its charge are released. -/
def State.failOp (s : State) (op : Nat) (o : Out) : State :=
  match o.work with
  | .tile t =>
    if t.ast then s.complete op o
    else (((if t.grow then s.growRefund o else s).leaveDrain op { o with grow := 0, drawn := o.drawnFixed } { t with grow := false }).modHome t.home fun h =>
      { h with tiles := h.tiles.filter (·.op != op) }).dropOut op
  | .ptld _ => (s.growRefund o).complete op { o with drawn := o.drawnFixed }
  | _ => (s.finish op o).clearToken o

/-- What a failed operation was to write, beside registers: the name of an operand slot, or bytes of scratchpad (R271). -/
def State.failedDst (s : State) (o : Out) : Option Nat × Option (Nat × Nat × Nat) :=
  let name := fun (p : Nat) => ((s.stand o.st).oslots.find? fun kv => kv.2 == p).map (·.1)
  match o.work with
  | .copy _ (some (p, _)) _ _ => (name p, none)
  | .copy _ none r false => (none, r)
  | .old p _ _ => (name p, none)
  | _ => (none, none)

/-- The other Pelfolds whose homes a stand's publication waits for: of its writes, and of the tiles that it flushes (R179, R199). -/
def State.pubTargets (s : State) (p : Pub) : List Nat :=
  let pas := dirtyBytes (s.core p.core).snap ++ dirtyBytes (s.copse (copseOfCore p.core)).cache ++ (s.core p.core).combine.map (·.pa)
    ++ p.tiles.filterMap fun op => (s.tileOp op).map fun x => x.2.rpa
  (pas.filter fun pa => decide (pa < 2 ^ 52) && pelfoldOf pa != s.devid).map pelfoldOf

/-- A publication that fails: REMOTEDOWN at the first write or copy of the stand that waits on it, or at the next one that issues (R179;
log entry 66). -/
def State.failPub (s : State) (id key : Nat) : State :=
  let waits := fun (n : Nat) (o : Out) => decide (id < n) && !o.orphan && !o.work.idle && writesOrCopies o.ins
  match ((s.outsOf (s.stand key).uid).find? fun kv => waits kv.1 kv.2) with
  | some (n, o) => ((s.uncommit n o).failOp n o).lateTrap n o { cause := Cause.remotedown, tval := 0, tmask := o.lanes }
  | none => s.modStand key fun st => { st with armed := st.armed ++ [{ ins := .phase ⟨.v1, 0⟩ 0 0, cls := 0, va := 0, lanes := 0 }] }

/-- A publication goes, and fails at its stand. -/
def State.dropPub (s : State) (p : Pub) : State :=
  let s1 := { s with pubs := s.pubs.filter (·.id != p.id) }
  match s.keyOfUid p.uid with
  | some key => s1.failPub p.id key
  | none => s1

/-- A failed operation is armed at its stand; at one that a halt has saved, until it resumes (R262, R271). -/
def State.arm (s : State) (o : Out) (a : Armed) : State :=
  match s.keyOfUid o.uid with
  | some key => s.modStand key fun st => { st with armed := st.armed ++ [a] }
  | none => s.modCtx o.ctx fun x => { x with saved := x.saved.map fun g => { g with stands := g.stands.map fun y =>
      if y.uid = o.uid then { y with armed := y.armed ++ [a] } else y } }
/-- Where the reply of an operation that fails was redirected, its slot is filled without a result (R262; log entry 32). -/
def State.closeSlot (s : State) (o : Out) : State :=
  match o.redirect, s.savedStand o.uid with
  | some pa, some (g, x) => (s.putHomes pa (trapSlot o {})).sealImage (s.savedKernel g) x.image
  | _, _ => s

/-- REMOTE_OP_TIMEOUT: an operation, with the publications that wait for it, or a publication, whose other Pelfold has not answered for 200 ms. -/
def evRemoteOpTimeout (op : Nat) (s : State) : Option State :=
  match SMap.get? s.outs op, s.pubs.find? (·.id == op) with
  | some o, _ =>
    due (o.remote.isSome && (match o.work with
        | .tile t => t.slot.isNone
        | _ => true))
      (let (slot, range) := s.failedDst o
       let a : Armed := { ins := o.ins, cls := o.cls, va := s.opAddr o, lanes := o.lanes, slot := slot, range := range }
       let s1 := (s.pubs.filter fun p => p.tiles.contains op).foldl State.dropPub (s.failOp op o)
       some ((s1.closeSlot o).arm o a))
  | none, some p =>
    due (!(s.pubTargets p).isEmpty) (some (s.dropPub p))
  | none, none => none
def execRemoteOpTimeout (op : Nat) (s : State) : Out? := event s (evRemoteOpTimeout op s)

/-- HOLD_NOTICE: another Pelfold recovers (R270). -/
def evHoldNotice (pelfold : Nat) (s : State) : Option State :=
  some { s with fab := { s.fab with holds := SMap.insert s.fab.holds pelfold (s.die 0).cyc } }
def execHoldNotice (pelfold : Nat) (s : State) : Out? := event s (evHoldNotice pelfold s)

/-- HOLD_NOTICE_SEND: this Pelfold recovers and says so (R270). -/
def evHoldNoticeSend (s : State) : Option State := due s.fab.up (some (s.tell .hold))
def execHoldNoticeSend (s : State) : Out? := event s (evHoldNoticeSend s)

/-- Cycles of a number of µs at the nominal clock. -/
def cyclesOf (us : Nat) : Nat := us * Config.nominalMHz

/-- Whether a Pelfold has sent a hold notice within the last 100 µs. -/
def State.holding (s : State) (pelfold : Nat) : Bool :=
  match SMap.get? s.fab.holds pelfold with
  | some t => decide ((s.die 0).cyc ≤ t + cyclesOf 100)
  | none => false

/-- WATCHDOG_EXPIRY: a stand has not retired an instruction for its context's limit; it runs on (R270). -/
def evWatchdogExpiry (key : Nat) (s : State) : Option State :=
  match SMap.get? s.stands key with
  | none => none
  | some st =>
    let limit := (s.ctx st.ctx).cwdog.toNat
    let waits := ((s.outsOf st.uid).any fun kv => match kv.2.remote with
      | some p => s.holding p
      | none => false) || s.pubs.any fun p => p.uid == st.uid && (s.pubTargets p).any s.holding
    due (decide (limit ≠ 0) && s.ctxRuns key st && !waits && pathIdx.any fun i => (st.path i).state.runs && !(st.path i).held)
      (let d := dieOfCore (coreOf key)
       let s1 := (s.reachCyc d (st.lastRet + cyclesOf limit)).modStand key fun x => { x with lastRet := st.lastRet + cyclesOf limit }
       some (s1.report d (s1.mcheckOf key 0x24 st.firstPc 0)))
def execWatchdogExpiry (st : Nat) (s : State) : Out? := event s (evWatchdogExpiry st s)

end Sys2Proof.Machine
end

