-- ==== Sys2Proof/Machine/EvDbg.lean ====
section
/-! DEFINITION. The debugger, deterministic mode, the scheduler's own events, and the boot (R19, R24, R61, R134, R259, R272, R273, R291). An
event that is not due changes nothing. -/

namespace Sys2Proof.Machine

/-! ### The debugger (R272, R273) -/

/-- Halt one stand of a grove, which stays in place (R272). -/
def State.haltOne (s : State) (c key : Nat) : State :=
  let gid := (s.stand key).grove
  let g := s.grove gid
  let (s1, x) := s.haltStand key 1
  let sg : SavedGrove := { id := gid, grove := { g with scratch := [] }, stands := [x], scr := s.scratchPlace g.core g,
                           sources := (s.ctxSlot g.core c).sources, onto := some g.core }
  s1.modCtx c fun y => { y with saved := y.saved ++ [sg] }

/-- DEBUG_HALT: a vacate of a stand or a grove alone, with image reason 1 (R272). -/
def evDebugHalt (c : Nat) (tgt : HaltTarget) (s : State) : Option State :=
  due (s.ctx c).debugger (match tgt with
    | .stand key => match SMap.get? s.stands key with
      | none => none
      | some st => due (st.ctx == c) (some (s.haltOne c key))
    | .grove g => match SMap.get? s.groves g with
      | none => none
      | some x => due ((s.launch x.launch).ctx == c) (some (s.haltGrove g 1 (some x.core))))
def execDebugHalt (c : Nat) (tgt : HaltTarget) (s : State) : Out? := event s (evDebugHalt c tgt s)

/-- The halted stand whose place is `key`: its context, its kernel and its image. -/
def State.haltedAt (s : State) (key : Nat) : Option (Nat × Kernel × Nat) :=
  s.ctxs.findSome? fun kv => kv.2.saved.findSome? fun g => (g.stands.find? fun x => g.grove.core * 64 + x.idx == key).map fun x =>
    (kv.1, s.savedKernel g, x.image)

/-- Change HELD of an entry of a halted image. -/
def State.holdImage (s : State) (ker : Kernel) (image idx : Nat) (on : Bool) : State :=
  let pa := image + 0x40 + 16 * idx + 14
  let b := s.homeByte pa
  (s.putHome pa (if on then b ||| 0x08#8 else b &&& 0xF7#8)).sealImage ker image

/-- Set or clear HELD of any entry, of a running stand or of a halted image, with a debugger attached (R272, R273). -/
def State.hold (s : State) (key idx : Nat) (on : Bool) (f : Path → Path) : Option State :=
  due (decide (idx < 8)) (match SMap.get? s.stands key with
    | some st => due (s.ctx st.ctx).debugger (some (s.setStand key (st.modPath idx f)))
    | none => match s.haltedAt key with
      | some (c, ker, image) => due (s.ctx c).debugger (some (s.holdImage ker image idx on))
      | none => none)

/-- DEBUG_SET_HELD (R272). -/
def evDebugSetHeld (key idx : Nat) (s : State) : Option State := s.hold key idx true fun p => { p with held := true, single := false }
def execDebugSetHeld (st path : Nat) (s : State) : Out? := event s (evDebugSetHeld st path s)

/-- DEBUG_RELEASE_HELD: the entry runs on, past what held it (R273). -/
def evDebugReleaseHeld (key idx : Nat) (s : State) : Option State :=
  s.hold key idx false fun p => if p.held then { p with held := false, pass := true } else p
def execDebugReleaseHeld (st path : Nat) (s : State) : Out? := event s (evDebugReleaseHeld st path s)

/-- SINGLE_STEP: a HELD entry runs one instruction (R273). -/
def evSingleStep (key idx : Nat) (s : State) : Option State :=
  match SMap.get? s.stands key with
  | none => none
  | some st => due ((s.ctx st.ctx).debugger && (st.path idx).held && (st.path idx).state.runs)
      (some (s.setStand key (st.modPath idx fun p => { p with held := false, single := true })))
def execSingleStep (st path : Nat) (s : State) : Out? := event s (evSingleStep st path s)

/-- BREAKPOINT_HIT: a path about to issue at a breakpoint becomes HELD instead, and the debugger is told (R272). -/
def evBreakpointHit (key idx : Nat) (s : State) : Option State :=
  match SMap.get? s.stands key with
  | none => none
  | some st => due (s.atBreakpoint ⟨key, idx, false, 0⟩ (st.path idx).pc && (st.path idx).state.runs)
      (some ((s.setStand key (st.modPath idx fun p => { p with held := true })).tell (.debugStop st.ctx (s.gsi key) idx)))
def execBreakpointHit (st path : Nat) (s : State) : Out? := event s (evBreakpointHit st path s)

/-- Put in, or take out, one of a core's eight. -/
def putEntry {α : Type} (m : SMap α) (k : Nat) (x : Option α) : SMap α :=
  match x with
  | some v => SMap.insert m k v
  | none => SMap.erase m k

/-- DEBUG_SET_BREAKPOINT (R272). -/
def evDebugSetBreakpoint (core k : Nat) (bp : Option Breakpoint) (s : State) : Option State :=
  due (decide (core < Config.dies * Config.physPerDie ∧ k < Config.breakpoints)) (some (s.modCore core fun c => { c with breaks := putEntry c.breaks k bp }))
def execDebugSetBreakpoint (core k : Nat) (bp : Option Breakpoint) (s : State) : Out? := event s (evDebugSetBreakpoint core k bp s)

/-- DEBUG_SET_WATCHPOINT (R134). -/
def evDebugSetWatchpoint (core k : Nat) (wp : Option Watchpoint) (s : State) : Option State :=
  due (decide (core < Config.dies * Config.physPerDie ∧ k < Config.watchpoints)) (some (s.modCore core fun c => { c with watch := putEntry c.watch k wp }))
def execDebugSetWatchpoint (core k : Nat) (wp : Option Watchpoint) (s : State) : Out? := event s (evDebugSetWatchpoint core k wp s)

/-! ### A core's own modes and the scheduler -/

/-- DETERMINISTIC_MODE_SWITCH: only while the core holds no context; the window has at most 4 MiB (R61). -/
def evDeterministicModeSwitch (core : Nat) (on : Bool) (base len : Nat) (s : State) : Option State :=
  let c := s.core core
  due (decide (core < Config.dies * Config.physPerDie ∧ len ≤ 4194304) && c.slot0.ctx.isNone && c.slot1.ctx.isNone)
    (some (s.setCore core { c with det := on, window := (base, len) }))
def execDeterministicModeSwitch (core : Nat) (on : Bool) (base len : Nat) (s : State) : Out? := event s (evDeterministicModeSwitch core on base len s)

/-- GREEDY_RUN_LIMIT: a quarter's greedy path has issued 256 instructions in a row (R19). -/
def evGreedyRunLimit (core quarter : Nat) (s : State) : Option State :=
  let q := SMap.get {} (s.core core).quarters quarter
  due (decide (Config.greedyRun ≤ q.run) && q.greedy.isSome) (some (s.giveUp core quarter))
def execGreedyRunLimit (core quarter : Nat) (s : State) : Out? := event s (evGreedyRunLimit core quarter s)

/-- SPECULATION_SQUASH: what a path issued past an unresolved event is gone, with its whole charge (R24, R154). -/
def evSpeculationSquash (key idx : Nat) (s : State) : Option State :=
  match SMap.get? s.stands key with
  | none => none
  | some st =>
    due (!(s.specOps st.uid idx).isEmpty) (some (s.squashPath key idx))
def execSpeculationSquash (st path : Nat) (s : State) : Out? := event s (evSpeculationSquash st path s)

/-! ### Boot (R291) -/

/-- BOOT: the ROM measures each image; the Pelfold runs if every signature holds, else it stays in recovery. -/
def evBoot (s : State) : Option State :=
  due (s.power == .reset)
    (some { s with measured := s.firmware.map fun f => sha384 f.bytes, power := if s.firmware.all (·.valid) then .on else .recovery })
def execBoot (s : State) : Out? := event s (evBoot s)

/-- SPDM_MEASUREMENTS_REQUEST: one block for each image. -/
def evSpdmMeasurementsRequest (s : State) : Option State :=
  due (s.power == .on || s.power == .recovery) (some (s.tell (.spdm s.measured)))
def execSpdmMeasurementsRequest (s : State) : Out? := event s (evSpdmMeasurementsRequest s)

end Sys2Proof.Machine
end

