-- ==== Sys2Proof/Machine/EvFab.lean ====
section
/-! DEFINITION. The understory, the fibres and the package: the tokens of the home channels, the limiters, packets in order, errors of
flits and links, clocks and heat (R178, R277–R283, R292). An event that is not due changes nothing. -/

namespace Sys2Proof.Machine

/-! ### The home channels (R277, R279) -/

/-- A request that a copse may offer: the operation, which of its packets, the core, and its slack. -/
structure Req where
  op    : Nat
  sub   : Nat
  core  : Nat
  slack : Nat
  deriving DecidableEq, Repr

/-- The slack of a core's requests: its ready stands, at most 63. -/
def State.slack (s : State) (k : Nat) : Nat := min 63 ((s.standsOfCore k).filter fun key => !(Stand.ready key (s.stand key)).isEmpty).length

/-- The packets of an operation that may leave for a home (log entry 68). -/
def State.packets (s : State) (home op : Nat) (o : Out) : List Req :=
  let k := coreOf o.st
  ((s.asks op o).filter fun x => x.1 == home && s.mayAsk op o x.2).map fun x => ⟨op, x.2, k, s.slack k⟩

/-- Whether a request stands in a home's queue. -/
def Home.holds (h : Home) (op sub : Nat) : Bool := h.arrived.any fun a => a.op == op && a.sub == sub
/-- A request joins a home's queue, once. -/
def State.arrive (s : State) (home : Nat) (r : Req) : State :=
  s.modHome home fun h => if h.holds r.op r.sub then h else { h with arrived := h.arrived ++ [⟨r.op, r.sub, r.core, r.slack, 0⟩] }

/-- What a copse holds for a home, oldest first; a request whose context's bucket is empty is not offered (R279). -/
def State.offers (s : State) (home copse : Nat) : List Req :=
  (s.outs.filter fun kv => copseOfCore (coreOf kv.2.st) == copse).flatMap fun kv =>
    (s.packets home kv.1 kv.2).filter fun r => !(s.home home).holds r.op r.sub && !s.limited (dieOfCore r.core) kv.2.ctx

/-- The request that a copse offers: the lowest slack, the oldest first. -/
def bestReq (l : List Req) : Option Req :=
  l.foldl (fun best r => match best with
    | none => some r
    | some b => if r.slack < b.slack then some r else some b) none

/-- The key of a home slice of this Pelfold. -/
def State.homeKey (s : State) (slice : Nat) : Nat := 128 * s.devid + slice

/-- TOKEN_TAP_VISIT: the token of a home channel comes to its next tap (R277). -/
def evTokenTapVisit (slice : Nat) (s : State) : Option State :=
  let home := s.homeKey slice
  let h0 := s.home home
  let copse := h0.tap
  let h := if copse = 0 then { h0 with t := h0.low.getD 63, low := none } else h0
  let h := { h with tap := (copse + 1) % (Config.dies * Config.copses) }
  due (s.fab.up && decide (slice < Config.dies * Config.homesPerDie)) (match bestReq (s.offers home copse) with
    | none => some (s.setHome home { h with passes := SMap.erase h.passes copse })
    | some r =>
      let n := SMap.get 0 h.passes copse
      let h := { h with low := some (min r.slack (h.low.getD 63)) }
      if r.slack ≤ h.t ∨ 2 ≤ n then
        let s1 := match SMap.get? s.outs r.op with
          | some o => s.injectFlits (dieOfCore r.core) o.ctx (packetFlits o r.sub)
          | none => s
        some (s1.setHome home { h with passes := SMap.erase h.passes copse, arrived := h.arrived ++ [⟨r.op, r.sub, r.core, r.slack, 0⟩] })
      else some (s.setHome home { h with passes := SMap.insert h.passes copse (n + 1) }))
def execTokenTapVisit (home : Nat) (s : State) : Out? := event s (evTokenTapVisit home s)

/-- LIMITER_REFILL: the refill of 1,024 cycles (R279). -/
def evLimiterRefill (die c : Nat) (s : State) : Option State :=
  (SMap.get? (s.die die).limiters c).map fun l =>
    s.modDie die fun d => { d with limiters := SMap.insert d.limiters c { l with level := min l.burst (l.level + l.rate) } }
def execLimiterRefill (die c : Nat) (s : State) : Out? := event s (evLimiterRefill die c s)

/-! ### The fibres (R178, R280–R283) -/

/-- What an operation sends to homes of other Pelfolds: the home and the packet. -/
def State.sends (s : State) (op : Nat) (o : Out) : List (Nat × Req) :=
  let k := coreOf o.st
  ((s.asks op o).filter fun x => x.1 / 128 != s.devid && s.mayAsk op o x.2 && !(s.home x.1).holds op x.2).map fun x => (x.1, ⟨op, x.2, k, s.slack k⟩)

/-- An operation's packets reach their homes on other Pelfolds, and are gone from its context's bucket (R178, R279). -/
def State.passOn (s : State) (op : Nat) : State :=
  match SMap.get? s.outs op with
  | none => s
  | some o =>
    if s.limited (dieOfCore (coreOf o.st)) o.ctx || !s.links o.remote then s
    else (s.sends op o).foldl (fun u x => (u.arrive x.1 x.2).injectFlits (dieOfCore x.2.core) o.ctx (packetFlits o x.2.sub)) s

/-- Pass on what a source's next sequence numbers hold. -/
def State.release (s : State) (src : Nat) : Nat → State
  | 0 => s
  | fuel + 1 =>
    let n := SMap.get 0 s.fab.next src
    match s.fab.heldPk.find? fun p => p.1 == src && p.2.1 == n with
    | none => s
    | some p =>
      let fab := { s.fab with next := SMap.insert s.fab.next src (n + 1), heldPk := s.fab.heldPk.filter (· != p) }
      ({ s with fab := fab }.passOn p.2.2).release src fuel

/-- PACKET_ARRIVAL: the packets of a source core for homes of other Pelfolds are passed on in their order; a second copy is discarded (R178,
R282). What other Pelfolds send here is not modelled (log entry 68). -/
def evPacketArrival (src seq op : Nat) (s : State) : Option State :=
  due s.fab.up (
    if seq < SMap.get 0 s.fab.next src ∨ (s.fab.heldPk.any fun p => p.1 == src && p.2.1 == seq) = true then some s
    else
      let held := s.fab.heldPk ++ [(src, seq, op)]
      some ({ s with fab := { s.fab with heldPk := held } }.release src held.length))
def execPacketArrival (src seq op : Nat) (s : State) : Out? := event s (evPacketArrival src seq op s)

/-- A fatal machine check of kind 0x21 that names no stand. -/
def State.fatalFabric (s : State) (c : Nat) : State := s.fatal 0 ⟨c, 0xFFFF, 0x21, 0, 0, (s.die 0).cyc⟩
/-- One for every context that the Pelfold holds. -/
def State.fatalAll (s : State) : State := ((s.ctxs.filter fun kv => kv.2.state != .free).map (·.1)).foldl (fun u c => u.fatalFabric c) s

/-- FLIT_PAYLOAD_ERROR: the packet is dropped, and its context halts (R280). -/
def evFlitPayloadError (c op : Nat) (s : State) : Option State :=
  let s1 := match SMap.get? s.outs op with
    | some o => if o.ctx = c ∧ o.fate op = Fate.goesOn then s.failOp op o else s
    | none => s
  let s2 := s1.fatalFabric c
  some (match SMap.get? s2.outs op with
    | some o => if o.ctx = c then s2.dropOut op else s2
    | none => s2)
def execFlitPayloadError (c op : Nat) (s : State) : Out? := event s (evFlitPayloadError c op s)

/-- FLIT_HEADER_ERROR: the partition goes down with every context in it (R280). -/
def evFlitHeaderError (s : State) : Option State :=
  let t := s.fatalAll
  some { t with fab := { t.fab with up := false } }
def execFlitHeaderError (s : State) : Out? := event s (evFlitHeaderError s)

/-- PARTITION_REINITIALISE (R280). -/
def evPartitionReinitialise (s : State) : Option State := some { s with fab := { s.fab with up := true } }
def execPartitionReinitialise (s : State) : Out? := event s (evPartitionReinitialise s)

/-- A link leaves every routing table (R282). -/
def State.linkOut (s : State) (link : Nat) : State :=
  if s.fab.down.contains link then s else { s with fab := { s.fab with down := s.fab.down ++ [link] } }

/-- LINK_FAILURE (R282): programs see a delay and no loss. -/
def evLinkFailure (link : Nat) (s : State) : Option State := some (s.linkOut link)
def execLinkFailure (link : Nat) (s : State) : Out? := event s (evLinkFailure link s)

/-- Fibres of a Pelfold, to and from it, and the wavelengths of one (R281). -/
abbrev fibres : Nat := 256
abbrev wavelengths : Nat := 8

/-- Wavelengths of a fibre still in use. -/
def State.wavesLeft (s : State) (fibre : Nat) : Nat :=
  ((upFrom 0 wavelengths).filter fun i => !(SMap.get 0 s.fab.waves fibre).getLsbD i).length

/-- WAVELENGTH_ERROR_WINDOW: a window closes; too many corrected errors withdraw the wavelength (R283). -/
def evWavelengthErrorWindow (fibre wl errors : Nat) (s : State) : Option State :=
  due (decide (fibre < fibres ∧ wl < wavelengths ∧ Config.fecLimit < errors))
    (let w := SMap.get 0 s.fab.waves fibre ||| BitVec.ofNat 8 (2 ^ wl)
     let s1 := { s with fab := { s.fab with waves := SMap.set 0 s.fab.waves fibre w } }
     some (if s1.wavesLeft fibre < 4 then s1.linkOut fibre else s1))
def execWavelengthErrorWindow (fibre wl errors : Nat) (s : State) : Out? := event s (evWavelengthErrorWindow fibre wl errors s)

/-- WAVELENGTH_RETRAIN_DONE: a wavelength that passes its test pattern is handed back (R283). -/
def evWavelengthRetrainDone (fibre wl : Nat) (ok : Bool) (s : State) : Option State :=
  due (ok && decide (wl < wavelengths))
    (some { s with fab := { s.fab with waves := SMap.set 0 s.fab.waves fibre (SMap.get 0 s.fab.waves fibre &&& ~~~(BitVec.ofNat 8 (2 ^ wl))) } })
def execWavelengthRetrainDone (fibre wl : Nat) (ok : Bool) (s : State) : Out? := event s (evWavelengthRetrainDone fibre wl ok s)

/-! ### Clocks and heat (R139, R292) -/

/-- SUPPLY_SAG: the governor lowers a die's clock, never below the floor. -/
def evSupplySag (die mhz : Nat) (s : State) : Option State :=
  due (decide (die < Config.dies)) (some (s.modDie die fun d =>
    { d with mhz := if d.hot then Config.floorMHz else max Config.floorMHz (min mhz Config.nominalMHz) }))
def execSupplySag (die mhz : Nat) (s : State) : Out? := event s (evSupplySag die mhz s)

/-- THERMAL_THROTTLE: a die passes 105 °C, up or down. -/
def evThermalThrottle (die : Nat) (hot : Bool) (s : State) : Option State :=
  due (decide (die < Config.dies)) (some (s.modDie die fun d => { d with hot := hot, mhz := if hot then Config.floorMHz else Config.nominalMHz }))
def execThermalThrottle (die : Nat) (hot : Bool) (s : State) : Out? := event s (evThermalThrottle die hot s)

/-- THERMAL_ALERT: a die has stayed above 105 °C for 10 ms. -/
def evThermalAlert (die : Nat) (s : State) : Option State := due (s.die die).hot (some (s.tell (.thermal die)))
def execThermalAlert (die : Nat) (s : State) : Out? := event s (evThermalAlert die s)

/-- THERMAL_SHUTDOWN: every context halts, and the package powers down. -/
def evThermalShutdown (s : State) : Option State :=
  let t := s.fatalAll
  some { t with power := .off }
def execThermalShutdown (s : State) : Out? := event s (evThermalShutdown s)

end Sys2Proof.Machine
end

