-- ==== Sys2Proof/Machine/EvGroup.lean ====
section
/-! DEFINITION. Group operations after issue: at the controller (R207–R218, R220, R221), the replies of all detached operations
(R50, R213, R240, R245), and GRED's value cells (R217). An event that is not due changes nothing. -/

namespace Sys2Proof.Machine

/-- The lowest free slot of a die's directory (R380). -/
def lowestSlot (used : Nat → Bool) (kind die n : Nat) : Option Nat := (upFrom 0 n).find? fun i => !used (dirKey kind die i)

/-- GCRT at the home of the line (R214). BUSY and NOGROUP come without a group: ROUND and FLT are 0 (DESIGN CHOICE; log entry 104). -/
def State.createGroup (s : State) (op : Nat) (o : Out) (ask : Ask) : State :=
  let die := dieOfHome ((homeOf ask.pa).getD 0)
  let c := s.ctx o.ctx
  let s0 := s.modDie die fun d => { d with gcrt := true }
  let pinned := ((s.activeOn die).filter fun kv => kv.2.pinned).length
  if (SMap.get? s.live (lineNo ask.pa)).isSome then s0.replyTo op { status := dw GCode.busy }
  else match lowestSlot (fun k => (SMap.get? s.groups k).isSome) 1 die Config.groupSlots with
    | none => s0.replyTo op { status := dw GCode.nogroup }
    | some i =>
      if Config.activeGroups ≤ pinned then s0.replyTo op { status := dw GCode.nogroup }
      else
        let gk := dirKey 1 die i
        let grove := match s.keyOfUid o.uid, s.savedStand o.uid with
          | some key, _ => (s.stand key).grove
          | none, some (x, _) => x.id
          | none, none => 0
        let m := c.cgroup.toNat % 4
        let g : Group := { ctx := o.ctx, pa := ask.pa, scope := modeScope o.mode, grove := grove, copse := copseOfCore (coreOf o.st),
                           die := dieOfCore (coreOf o.st), record := m == 1, replay := m == 2 }
        let s1 := (s0.setGroup gk g).replyTo op { status := dw GCode.ok, extra := some (mkHandle c 1 7 (s.gen gk) die i) }
        ({ s1 with live := SMap.insert s1.live (lineNo ask.pa) gk }).touch gk

/-- GJOIN at the controller (R212). -/
def State.joinGroup (s : State) (op : Nat) (o : Out) (ask : Ask) (gk : Nat) (g : Group) : State :=
  let l := s.membersOf o.uid
  if !s.admits g o then s.answer op o (some g) GCode.scope
  else if (s.memberOf o.uid gk).isSome then s.answer op o (some g) GCode.member
  else if Config.memberMax ≤ l.length ∨ Config.groupMax ≤ g.m + g.j then s.answer op o (some g) GCode.toobig
  else
    let pend := decide (0 < g.a)
    let g2 := { g with m := if pend then g.m else g.m + 1, j := if pend then g.j + 1 else g.j, joins := g.joins + 1 }
    let me : Member := { die := gk % 65536 / 16384, index := gk % 16384, gen := s.gen gk, ord := g.joins, ret := ask.ret.toNat, pending := pend }
    (((s.setGroup gk g2).setMembers o.uid (l ++ [me])).answer op o (some g2) GCode.ok pend).touch gk

/-- The state word of GINFO (R215). -/
def groupState (g : Group) : DWord :=
  dw (field (g.m % 65536) 48 + field (g.a % 65536) 32 + field (g.j % 65536) 16 + field g.scope 3 + field (b2n g.replay) 2
    + field (b2n g.record) 1 + b2n g.fault)

/-- A group operation with a current handle, at the controller (R212). -/
def State.groupAct (s : State) (op : Nat) (o : Out) (ask : Ask) (gk : Nat) (g : Group) : State :=
  match o.ins with
  | .gjoin .. => s.joinGroup op o ask gk g
  | .gleave .. => match s.memberOf o.uid gk with
    | none => s.answer op o (some g) GCode.notmember
    | some m => (s.answer op o (some g) GCode.ok).leave gk o.uid m.pending false
  | .ginfo .. => (s.touch gk).replyTo op { status := groupStatus g.ground false g.fault GCode.ok, extra := some (groupState g) }
  | .gdel .. => ((s.answer op o (some g) GCode.ok).dropMember o.uid gk (s.gen gk)).deleteGroup gk
  | _ => match s.memberOf o.uid gk with
    | none => s.answer op o (some g) GCode.notmember
    | some m =>
      if m.pending then (s.setGroup gk { g with pendingOps := g.pendingOps ++ [op] }).lodge op
      else (s.runOps gk (g.fuel + 2) [op]).touch gk

/-- GROUP_OP_AT_CONTROLLER: after the release that stands before it, with an active entry for its group (R207, R212, R219); an operation that lodges has its charge for 16 cycles at
the least (R293). -/
def evGroupOpAtController (op : Nat) (s : State) : Option State :=
  match s.detOp op with
  | some (o, .sent, ask, _) =>
    due (s.canGo op o && s.carried o) (match o.ins with
      | .gcrt .. => s.through op o false fun u => some (u.createGroup op o ask)
      | i => if (groupRegOf i).isNone then none
        else s.through op o (!s.seats (handleKey ask.handle)) fun u => match u.groupOf ask.handle with
          | none => some (u.answer op o none GCode.stale)
          | some g => some (u.groupAct op o ask (handleKey ask.handle) g))
  | _ => none
def execGroupOpAtController (op : Nat) (s : State) : Out? := event s (evGroupOpAtController op s)

/-- The GROUP record of a reply (R275). -/
def State.traceGroup (s : State) (o : Out) (ask : Ask) (rep : Reply) : State :=
  if (groupRegOf o.ins).isNone then s
  else s.traceRec o.st o.path Tr.group
    (natLe (ask.handle.toNat % 65536) 2 ++ natLe (opField o.ins) 2 ++ natLe (DWord.bits rep.status 63 32) 4 ++ natLe (rep.status.toNat % 256) 1)

/-- GROUP_REPLY: the reply of a detached operation reaches its stand (R50, R213, R240, R245, R251). -/
def evGroupReply (op : Nat) (s : State) : Option State :=
  match s.detOp op with
  | some (o, .replied, ask, rep) =>
    due (o.redirect.isNone && s.carried o && s.mature o)
      (let s1 := s.traceGroup o ask rep
       some (match rep.trap with
         | some (c, v) => (s1.abandon op o).lateTrap op o { cause := c, tval := v, tmask := (s.stand o.st).em o.path }
         | none => (s1.complete op o).modOwner o fun st => st.takeReply o.ins rep))
  | _ => none
def execGroupReply (op : Nat) (s : State) : Out? := event s (evGroupReply op s)

/-- Whether a GRED that waits for value cells may go on: its round has them, it is the first that waits and they are free, or its group has outgrown
them, so that it is refused. One whose group is gone waits no longer. -/
def State.cellsFor (s : State) (die : Nat) (first : Option Nat) (op : Nat) : Bool :=
  match (s.lodgedAt op).bind fun gk => SMap.get? s.groups gk with
  | none => true
  | some g => decide (g.a ≠ 0 ∨ Config.gredCells < g.m ∨ (first = some op ∧ (s.die die).cells + g.m ≤ Config.gredCells))

/-- GRED_CELLS_FREE: the first round that waits for value cells gets them, and no GRED of a round that has them waits (R217). -/
def evGredCellsFree (die : Nat) (s : State) : Option State :=
  let wait := (s.die die).cellWait
  match wait.find? (s.cellsFor die wait.head?) with
  | none => none
  | some op =>
    let rest := wait.filter (· != op)
    match (s.lodgedAt op).bind fun gk => (SMap.get? s.groups gk).map fun g => (gk, g) with
    | none => some (s.modDie die fun d => { d with cellWait := rest })
    | some (gk, g) =>
      let s1 := (s.setGroup gk { g with pendingOps := g.pendingOps.filter (· != op) }).modDie die fun d => { d with cellWait := [] }
      let s2 := (s1.runOps gk (g.fuel + 2) [op]).modDie die fun d => { d with cellWait := rest ++ d.cellWait }
      some (s2.touch gk)
def execGredCellsFree (die : Nat) (s : State) : Out? := event s (evGredCellsFree die s)

end Sys2Proof.Machine
end

