-- ==== Sys2Proof/Machine/EvObj.lean ====
section
/-! DEFINITION. System software's configuration: the object commands (R288, R380), the registers of the configuration space (R285–R287)
and the tenant interfaces (R289). An event that is not due changes nothing. -/

namespace Sys2Proof.Machine

/-! ### Objects (R288) -/

/-- Error codes of an object command. -/
abbrev OErr.range : Nat := 1
abbrev OErr.inUse : Nat := 2
abbrev OErr.context : Nat := 3
abbrev OErr.stale : Nat := 4
abbrev OErr.noSlot : Nat := 5

def State.objResult (s : State) (die : Nat) (x : DWord) : State := s.modDie die fun d => { d with objres := x }
def State.objError (s : State) (die code : Nat) : State := s.objResult die (dw (field 1 63 + code))

/-- Fields that queues and chains share: scope, capacity, rights. -/
def objScope (b : DWord) : Nat := DWord.bits b 15 13
def objCap (b : DWord) : Nat := 64 * 2 ^ DWord.bits b 20 17
def objRights (b : DWord) : Nat := DWord.bits b 27 24
/-- Whether the fields that queues and chains share are in range; `r` is the number of rights. -/
def objFieldsOk (b : DWord) (r : Nat) : Bool := decide (3 ≤ objScope b ∧ objScope b ≤ 5 ∧ DWord.bits b 20 17 ≤ 10 ∧ objRights b < 2 ^ r)

/-- CREATE_QUEUE (R243, R288). -/
def evCreateQueue (die c : Nat) (s : State) : Option State :=
  let d := s.die die
  let q := DWord.bits d.objb 11 0
  let ring := field (DWord.bits d.obja 51 12) 12
  let qk := queueKey q
  if q / 1024 ≠ die ∨ objFieldsOk d.objb 3 = false ∨ s.inMainMemory die ring = false then some (s.objError die OErr.range)
  else if (SMap.get? s.queues qk).isSome then some (s.objError die OErr.inUse)
  else if (s.ctx c).state ≠ .admitted then some (s.objError die OErr.context)
  else some ((s.setQueue qk { ctx := c, ring := ring, cap := objCap d.objb, scope := objScope d.objb, launch := d.objb.getLsbD 16 }).objResult die
    (mkHandle (s.ctx c) 2 (objRights d.objb) (s.gen qk) die (q % 1024)))
def execCreateQueue (die c : Nat) (s : State) : Out? := event s (evCreateQueue die c s)

/-- CREATE_CHAIN (R237, R288, R380). -/
def evCreateChain (die c : Nat) (s : State) : Option State :=
  let d := s.die die
  if objFieldsOk d.objb 2 = false then some (s.objError die OErr.range)
  else if (s.ctx c).state ≠ .admitted then some (s.objError die OErr.context)
  else match (upFrom 0 Config.objectSlots).find? fun i => (SMap.get? s.chains (dirKey 3 die i)).isNone with
    | none => some (s.objError die OErr.noSlot)
    | some i =>
      let ck := dirKey 3 die i
      some ((s.setChain ck { ctx := c, ring := field (DWord.bits d.obja 51 12) 12, cap := objCap d.objb, scope := objScope d.objb }).objResult die
        (mkHandle (s.ctx c) 3 (objRights d.objb) (s.gen ck) die i))
def execCreateChain (die c : Nat) (s : State) : Out? := event s (evCreateChain die c s)

/-- CREATE_ENDPOINT (R288, R380). -/
def evCreateEndpoint (die c : Nat) (s : State) : Option State :=
  let d := s.die die
  let kind := DWord.bits d.obja 1 0
  if (kind ≠ 1 ∧ kind ≠ 2) ∨ 4 ≤ objRights d.objc ∨ (kind = 2 ∧ d.objb ≠ 0) then some (s.objError die OErr.range)
  else if (s.ctx c).state ≠ .admitted then some (s.objError die OErr.context)
  else match (upFrom 0 Config.objectSlots).find? fun i => (SMap.get? s.endpoints (dirKey 4 die i)).isNone with
    | none => some (s.objError die OErr.noSlot)
    | some i =>
      let ek := dirKey 4 die i
      let e : Endpoint := { ctx := c, nvme := kind == 1, unit := DWord.bits d.obja 15 8, ns := DWord.bits d.objb 31 0, blk := DWord.bits d.objb 39 32 }
      some (({ s with endpoints := SMap.insert s.endpoints ek e }).objResult die (mkHandle (s.ctx c) 4 (objRights d.objc) (s.gen ek) die i))
def execCreateEndpoint (die c : Nat) (s : State) : Out? := event s (evCreateEndpoint die c s)

/-- The directory slot that a destroy command names, if its handle is current and of the die (R288). -/
def State.toDestroy (s : State) (die kind : Nat) : Option Nat :=
  let x := (s.die die).obja
  if handleKind x = kind ∧ handleDie x = die ∧ s.gen (handleKey x) = handleGen x then some (handleKey x) else none

/-- DESTROY_QUEUE: its records are discarded, with the launches that have not begun (R243, R288). -/
def evDestroyQueue (die c : Nat) (s : State) : Option State :=
  match (s.toDestroy die 2).bind fun qk => (SMap.get? s.queues qk).map fun q => (qk, q) with
  | some (qk, q) =>
    if q.ctx ≠ c then some (s.objError die OErr.stale)
    else
      let gone := q.recs.filterMap (·.launch)
      let launches := s.launches.filter fun kv => !gone.contains kv.1
      some ((({ s with queues := SMap.erase s.queues qk, launches := launches }).bumpGen qk).objResult die 0)
  | none => some (s.objError die OErr.stale)
def execDestroyQueue (die c : Nat) (s : State) : Out? := event s (evDestroyQueue die c s)

/-- DESTROY_CHAIN (R288). -/
def evDestroyChain (die c : Nat) (s : State) : Option State :=
  match (s.toDestroy die 3).bind fun k => (SMap.get? s.chains k).map fun x => (k, x.ctx) with
  | some (k, owner) =>
    if owner ≠ c then some (s.objError die OErr.stale)
    else some ((({ s with chains := SMap.erase s.chains k }).bumpGen k).objResult die 0)
  | none => some (s.objError die OErr.stale)
def execDestroyChain (die c : Nat) (s : State) : Out? := event s (evDestroyChain die c s)

/-- DESTROY_ENDPOINT (R288). -/
def evDestroyEndpoint (die c : Nat) (s : State) : Option State :=
  match (s.toDestroy die 4).bind fun k => (SMap.get? s.endpoints k).map fun x => (k, x.ctx) with
  | some (k, owner) =>
    if owner ≠ c then some (s.objError die OErr.stale)
    else some ((({ s with endpoints := SMap.erase s.endpoints k }).bumpGen k).objResult die 0)
  | none => some (s.objError die OErr.stale)
def execDestroyEndpoint (die c : Nat) (s : State) : Out? := event s (evDestroyEndpoint die c s)

/-! ### Tenant interfaces (R289) -/

/-- The contexts and queues that are assigned to an interface (R285). -/
def TenantIf.contexts (x : TenantIf) : List Nat := (upFrom 0 1024).filter fun c => (SMap.get 0 x.ctxs (c / 64)).getLsbD (c % 64)
def TenantIf.queueList (x : TenantIf) : List Nat := (upFrom 0 4096).filter fun q => (SMap.get 0 x.queues (q / 64)).getLsbD (q % 64)
/-- Whether the registers of an interface are frozen. -/
def TenantIf.frozen (x : TenantIf) : Bool := x.state == .locked || x.state == .run

/-- An interface enters ERROR: its contexts receive a fatal machine check, its host access is blocked (R289). -/
def State.ifaceError (s : State) (i : Nat) : State :=
  let x := s.iface i
  let s1 := s.setIface i { x with state := .error, access := false }
  (x.contexts.filter fun c => (s.ctx c).state != .free).foldl (fun u c => u.fatal 0 ⟨c, 0xFFFF, 0x21, 0, 0, (u.die 0).cyc⟩) s1

/-- The registers that a lock freezes, as bytes: the base-address registers, the queue assignments, the translation roots of the interface's
contexts and their limiters on each die; the spec gives their order in no rule (DESIGN CHOICE; log entry 93). -/
def State.frozenBytes (s : State) (i : Nat) : List Byte :=
  let x := s.iface i
  let lim := fun (c d : Nat) => let l := SMap.get {} (s.die d).limiters c; natLe (field l.burst 32 + l.rate) 8
  packNat 8 (fun n => (SMap.get 0 x.bars n).toNat) 6 ++ packNat 8 (fun n => (SMap.get 0 x.queues n).toNat) 64
    ++ x.contexts.flatMap fun c => natLe (s.ctx c).croot.toNat 8 ++ (upFrom 0 Config.dies).flatMap (lim c)

/-- LOCK_INTERFACE_REQUEST: the registers freeze, and SPDM reports their measurement (SHA-384, as R291 measures). -/
def evLockInterfaceRequest (i : Nat) (s : State) : Option State :=
  due ((s.iface i).state == .unlocked)
    (some ((s.setIface i { s.iface i with state := .locked }).tell (.spdm [sha384 (s.frozenBytes i)])))
def execLockInterfaceRequest (i : Nat) (s : State) : Out? := event s (evLockInterfaceRequest i s)

/-- START_INTERFACE_REQUEST. -/
def evStartInterfaceRequest (i : Nat) (s : State) : Option State :=
  due ((s.iface i).state == .locked) (some (s.setIface i { s.iface i with state := .run, access := true }))
def execStartInterfaceRequest (i : Nat) (s : State) : Out? := event s (evStartInterfaceRequest i s)

/-- Zero the bytes of a range of memory. -/
def State.zeroRange (s : State) (pa n : Nat) : State := { s with mem := s.mem.filter fun kv => decide (kv.1 < pa ∨ pa + n ≤ kv.1) }

/-- Zero the save areas of a context (R289). -/
def State.clearSave (s : State) (c : Nat) : State :=
  let x := s.ctx c
  x.dieList.foldl (fun u d => u.zeroRange (SMap.get 0 x.csave d).toNat (Config.physPerDie * DWord.bits x.cstride 31 0)) s

/-- STOP_INTERFACE_REQUEST: the contexts end, their save areas and queues are cleared. -/
def evStopInterfaceRequest (i : Nat) (s : State) : Option State :=
  let x := s.iface i
  let s1 := x.contexts.foldl (fun u c => (if (u.ctx c).state = .free then u else u.endContext c).clearSave c) s
  let s2 := x.queueList.foldl (fun u q => { u with queues := SMap.modify u.queues (queueKey q) fun y => { y with recs := [] } }) s1
  some (s2.setIface i { x with state := .unlocked, access := false })
def execStopInterfaceRequest (i : Nat) (s : State) : Out? := event s (evStopInterfaceRequest i s)

/-- INTERFACE_LINK_ERROR. -/
def evInterfaceLinkError (i : Nat) (s : State) : Option State := due ((s.iface i).state == .run) (some (s.ifaceError i))
def execInterfaceLinkError (i : Nat) (s : State) : Out? := event s (evInterfaceLinkError i s)

/-! ### Configuration registers (R285–R287) -/

/-- Keep bits `[hi:lo]` of a value. -/
def keepBits (v : DWord) (hi lo : Nat) : DWord := dw (field (DWord.bits v hi lo) lo)

/-- A write to a register that R289 freezes for a context: dropped outside state free, and an interface that is locked or runs enters
ERROR (R285, R286). -/
def State.frozenWrite (s : State) (c : Nat) (f : State → State) : State :=
  match s.ifaceOfCtx c with
  | some i => if (s.iface i).frozen then s.ifaceError i else if (s.ctx c).state = .free then f s else s
  | none => if (s.ctx c).state = .free then f s else s

/-- A write to a context descriptor (R286); the command register has its own steps. -/
def State.writeCtxReg (s : State) (c off : Nat) (v : DWord) : State :=
  let set := fun (f : Ctx → Ctx) => s.modCtx c f
  let fset := fun (f : Ctx → Ctx) => s.frozenWrite c fun u => u.modCtx c f
  if off = 0x10 then fset fun x => { x with cbound := keepBits v 27 0 }
  else if off = 0x18 then fset fun x => { x with cplace := keepBits v 39 8 ||| keepBits v 3 0 }
  else if off = 0x20 then fset fun x => { x with croot := keepBits v 51 12 }
  else if off = 0x28 then fset fun x => { x with clocal := keepBits v 16 0 }
  else if off = 0x30 then set fun x => { x with ckey0 := v, keyed := true }
  else if off = 0x38 then set fun x => { x with ckey1 := v, keyed := true }
  else if off = 0x40 then set fun x => { x with cgroup := keepBits v 51 12 ||| keepBits v 1 0 }
  else if off = 0x48 then set fun x => { x with clogsz := v }
  else if off = 0x50 then set fun x => { x with clogdrop := x.clogdrop &&& ~~~v }
  else if off = 0x58 then set fun x => { x with cwdog := v }
  else if 0x60 ≤ off ∧ off < 0x80 then set fun x => { x with csave := SMap.set 0 x.csave ((off - 0x60) / 8) v }
  else if 0x80 ≤ off ∧ off < 0xA0 then set fun x => { x with clocb := SMap.set 0 x.clocb ((off - 0x80) / 8) v }
  else if off = 0xA0 then set fun x => { x with cstride := v }
  else if off = 0xA8 then set fun x => { x with cirq := keepBits v 15 0 }
  else s

/-- A limiter register (R279): BURST in bits [47:32], RATE in bits [19:0]; the bucket starts full. -/
def Limiter.ofReg (v : DWord) : Limiter := { burst := DWord.bits v 47 32, rate := DWord.bits v 19 0, level := DWord.bits v 47 32 }

/-- A write to a die window (R287, R288); DDIR, TLBCTL, the switch command and OBJCMD have their own steps. -/
def State.writeDieReg (s : State) (d off : Nat) (v : DWord) : State :=
  let core := fun (k : Nat) => d * Config.physPerDie + k
  if off = 0x18 then s.modDie d fun x => { x with tlbva := keepBits v 55 0 }
  else if off = 0x40 then s.modDie d fun x => { x with elog := { x.elog with base := v.toNat } }
  else if off = 0x48 then s.modDie d fun x => { x with elog := { x.elog with cap := DWord.bits v 15 0 } }
  else if off = 0x50 then s.modDie d fun x => { x with dlog := { x.dlog with base := v.toNat } }
  else if off = 0x58 then s.modDie d fun x => { x with dlog := { x.dlog with cap := DWord.bits v 15 0 } }
  else if 0x10000 ≤ off ∧ off < 0x12000 then
    s.frozenWrite ((off - 0x10000) / 8) fun u => u.modDie d fun x => { x with limiters := SMap.set {} x.limiters ((off - 0x10000) / 8) (Limiter.ofReg v) }
  else if 0x20000 ≤ off ∧ off < 0x20000 + 8 * Config.physPerDie then
    if v.getLsbD 17 then s
    else s.modCore (core ((off - 0x20000) / 8)) fun x => { x with slice := DWord.bits v 15 0, idleSw := v.getLsbD 16 }
  else if 0x30000 ≤ off ∧ off < 0x30000 + 32 * Config.physPerDie then
    s.modCore (core ((off - 0x30000) / 32)) fun x => match off % 32 with
      | 0 => { x with trace := { x.trace with base := v, off := 0 } }
      | 8 => { x with trace := { x.trace with size := v, off := 0 } }
      | 16 => { x with trace := { x.trace with on := v.getLsbD 0, since := [] } }
      | _ => x
  else if off = 0x40008 then s.modDie d fun x => { x with obja := v }
  else if off = 0x40010 then s.modDie d fun x => { x with objb := v }
  else if off = 0x40018 then s.modDie d fun x => { x with objc := v }
  else s

/-- A write to an interface's registers (R285, R289). -/
def State.writeIfReg (s : State) (i off : Nat) (v : DWord) : State :=
  let x := s.iface i
  let set := fun (y : TenantIf) => if x.frozen then s.ifaceError i else s.setIface i y
  if off < 0x30 then set { x with bars := SMap.set 0 x.bars (off / 8) v }
  else if 0x100 ≤ off ∧ off < 0x300 then set { x with queues := SMap.set 0 x.queues ((off - 0x100) / 8) v }
  else if 0x300 ≤ off ∧ off < 0x380 then set { x with ctxs := SMap.set 0 x.ctxs ((off - 0x300) / 8) v }
  else s

/-- The queue whose enqueue port a write of the host touches (R253). -/
def portOf (addr : Nat) : Option Nat :=
  if 0x100000000000 ≤ addr ∧ addr < 0x100001000000 ∧ addr % 0x1000 < 0x40 then some ((addr - 0x100000000000) / 0x1000) else none

/-- CONFIG_REGISTER_WRITE: an aligned 8-byte write of the host; any other is dropped (R285). At an enqueue port it is a short write, which is
counted (R253). -/
def evConfigRegisterWrite (addr size : Nat) (v : DWord) (s : State) : Option State :=
  if size ≠ 64 ∧ (portOf addr).isSome then some (s.countDrop ((portOf addr).getD 0))
  else if size ≠ 8 ∨ addr % 8 ≠ 0 then some s
  else if 0x100000000000 ≤ addr ∧ addr < 0x100001000000 then
    let q := (addr - 0x100000000000) / 0x1000
    some (if addr % 0x1000 = 0x48 then { s with qdrop := SMap.set 0 s.qdrop q (SMap.get 0 s.qdrop q &&& ~~~(keepBits v 31 0)) } else s)
  else if 0x100100000000 ≤ addr ∧ addr < 0x100104000000 then
    some (s.writeDieReg ((addr - 0x100100000000) / 0x1000000) (addr % 0x1000000) v)
  else if 0x100200000000 ≤ addr ∧ addr < 0x100200400000 then
    some (s.writeCtxReg ((addr - 0x100200000000) / 0x1000) (addr % 0x1000) v)
  else if 0x100300000000 ≤ addr ∧ addr < 0x100300040000 then
    some (s.writeIfReg ((addr - 0x100300000000) / 0x1000) (addr % 0x1000) v)
  else some s
def execConfigRegisterWrite (addr size : Nat) (v : DWord) (s : State) : Out? := event s (evConfigRegisterWrite addr size v s)

end Sys2Proof.Machine
end

