-- ==== Sys2Proof/Machine/EvTile.lean ====
section
/-! DEFINITION. The drain path and the home's tiles after issue: headers, grants, refusals, back-off, flush-class requests,
application, and the rows of an AST (R181, R190–R196, R200, R311). An event that is not due changes nothing. -/

namespace Sys2Proof.Machine

/-- A tile whose header is out, or whose payload is granted: it waits for its home. -/
def TStage.awaits : TStage → Bool
  | .offered | .granted | .refused => true
  | _ => false

/-- The first tile of a core's drain path whose header has not left (R191). -/
def State.nextHeader (s : State) (core : Nat) : Option Nat :=
  (s.core core).drain.find? fun op => match s.tileOp op with
    | some (_, t) => !t.stage.awaits
    | none => false

/-- Whether an earlier tile of the same stand and destination still waits for its reply (R191). -/
def State.sameDestWaits (s : State) (op : Nat) (o : Out) (t : Tile) : Bool :=
  (s.outsOf o.uid).any fun kv => decide (kv.1 < op) && (match kv.2.work with
    | .tile u => !u.ast && u.rpa == t.rpa && u.stage.awaits
    | _ => false)

/-- TILE_OFFER: the next header leaves the core in drain order; an AST's rows leave whole (R191, R311). -/
def evTileOffer (core : Nat) (s : State) : Option State :=
  match s.nextHeader core with
  | none => none
  | some op => match s.tileOp op with
    | none => none
    | some (o, t) => match t.stage with
      | .drain =>
        if t.ast then due (s.mature o) (some (s.leaveDrain op o { t with stage := .home }))
        else due (!s.sameDestWaits op o t && !s.pubBefore o.uid op) (some (s.setTile op o { t with stage := .offered }))
      | _ => none
def execTileOffer (core : Nat) (s : State) : Out? := event s (evTileOffer core s)

/-- Whether a home refuses an ordinary request (R192). -/
def Home.refuses (h : Home) (core rpa : Nat) : Bool :=
  decide (2 ≤ (h.tiles.filter fun x => !x.flush && x.core == core).length) || decide (2 ≤ (h.tiles.filter fun x => !x.flush && x.rpa == rpa).length)

/-- TILE_HEADER_AT_HOME: the home grants or refuses (R192). -/
def evTileHeaderAtHome (op : Nat) (s : State) : Option State :=
  match s.tileOp op with
  | none => none
  | some (o, t) =>
    let core := coreOf o.st
    let s1 := s.serve t.home op 0
    due (t.stage == .offered && s.carried o && s.homeTurn t.home op 0)
      (if (s.home t.home).refuses core t.rpa then some (s1.setTile op o { t with stage := .refused })
       else some ((s1.setTile op o { t with stage := .granted }).modHome t.home fun h =>
         { h with tiles := h.tiles ++ [⟨op, core, t.rpa, false, false⟩] }))
def execTileHeaderAtHome (op : Nat) (s : State) : Out? := event s (evTileHeaderAtHome op s)

/-- TILE_GRANT: the grant reaches the core, and the payload leaves: by the token of the home's channel, but for a flush-class request (R191,
R195, R276, R277). -/
def evTileGrant (op : Nat) (s : State) : Option State :=
  match s.tileOp op with
  | none => none
  | some (o, t) =>
    let flush := s.asFlush op t
    due (t.stage == .granted && s.mature o && s.carried o && (flush || s.homeTurn t.home op 1))
      (some ((if flush then s else s.serve t.home op 1).sendTile op o t))
def execTileGrant (op : Nat) (s : State) : Out? := event s (evTileGrant op s)

/-- TILE_REFUSED: the refusal reaches the core and is counted; the tile takes its course (R193, R195, R202). -/
def evTileRefused (op : Nat) (s : State) : Option State :=
  match s.tileOp op with
  | none => none
  | some (o, t) => due (t.stage == .refused && s.mature o && s.carried o)
      (let s1 := s.modOwner o Stand.refuse
       some (match t.slot with
         | some n => s1.refuseSlot op o t n
         | none => s1.refuseTile op o t))
def execTileRefused (op : Nat) (s : State) : Out? := event s (evTileRefused op s)

/-- TILE_REOFFER_TIMER: the refused tile at the head of the drain path may go again (R193). -/
def evTileReofferTimer (core : Nat) (s : State) : Option State :=
  match s.nextHeader core with
  | none => none
  | some op => match s.tileOp op with
    | none => none
    | some (o, t) => due (t.stage == .backoff)
        (some ((s.reachCyc (dieOfCore core) (t.since + t.delay)).setTile op o { t with stage := .drain }))
def execTileReofferTimer (core : Nat) (s : State) : Out? := event s (evTileReofferTimer core s)

/-- RESIDUAL_RETRY_TIMER: the drain path offers a residual slot by itself (R195). -/
def evResidualRetryTimer (st slot : Nat) (s : State) : Option State :=
  match SMap.get? s.stands st with
  | none => none
  | some x => match SMap.get? x.residuals slot with
    | none => none
    | some r => due r.offer.isNone
        (some ((s.reachCyc (dieOfCore (coreOf st)) (r.since + r.delay)).offerSlot st slot (decide (8 ≤ r.refused))).1)
def execResidualRetryTimer (st slot : Nat) (s : State) : Out? := event s (evResidualRetryTimer st slot s)

/-- FLUSH_REQUEST_AT_HOME: a flush-class request is accepted, one of a core at a time (R196). Like a header, it leaves in drain order and
after the stand's earlier publications, those apart that wait for it (R181, R199). -/
def evFlushRequestAtHome (op : Nat) (s : State) : Option State :=
  match s.tileOp op with
  | none => none
  | some (o, t) =>
    let core := coreOf o.st
    due (t.stage == .flushing && s.carried o && !((s.home t.home).tiles.any fun x => x.flush && x.core == core) && !s.sameDestWaits op o t
        && !s.tileHeld o.uid op && (!(s.core core).drain.contains op || s.nextHeader core == some op))
      (some ((s.setTile op o { t with stage := .granted }).modHome t.home fun h =>
        { h with tiles := h.tiles ++ [⟨op, core, t.rpa, true, false⟩] }))
def execFlushRequestAtHome (op : Nat) (s : State) : Out? := event s (evFlushRequestAtHome op s)

/-- TILE_APPLY: a home applies the first tile of its address, whole (R190, R192, R200). -/
def evTileApply (home op : Nat) (s : State) : Option State :=
  match s.tileOp op with
  | none => none
  | some (o, t) =>
    let h := s.home home
    due (t.home == home && (match h.tiles.find? fun x => x.rpa == t.rpa with
        | some x => x.op == op && x.sent
        | none => false) && !s.tileHeld o.uid op)
      (some (((s.applyTile o.ctx t t.vals t.poisoned).modHome home fun h => { h with tiles := h.tiles.filter (·.op != op) }).dropOut op))
def execTileApply (home op : Nat) (s : State) : Out? := event s (evTileApply home op s)

/-- AST_PERFORMED: the rows of an AST are at their homes (R184, R208, R311, R312). -/
def evAstPerformed (op : Nat) (s : State) : Option State :=
  match s.tileOp op with
  | none => none
  | some (o, t) =>
    due (s.canGo op o && s.carried o) <| s.through op o false fun u =>
      let k := coreOf o.st
      let s1 := u.combineFor k o.footprint
      let s2 := if t.poisoned then s1.poisonTile t.rows else s1.writeRows o.ctx k t.vals 0 t.rows
      some (s2.complete op o)
def execAstPerformed (op : Nat) (s : State) : Out? := event s (evAstPerformed op s)

end Sys2Proof.Machine
end

