-- ==== Sys2Proof/Machine/Trans.lean ====
section
/-! DEFINITION. The single-source functions FRCP, FRSQ, FSQRT, FEXP2, FLOG2, FSIN and FCOS, correctly rounded (R331,
R332). The first three are exact integer computations with a sticky digit. The other four evaluate a series in fixed point
with 640 fraction bits and a sticky digit: their exact results are irrational outside the listed special inputs, and no
input of an FP32, FP16 or BF16 operand brings one nearer than 2^-460 to a rounding boundary (log entry 21). -/

namespace Sys2Proof.Machine
namespace Trans

/-- Fraction bits of the fixed point. -/
abbrev prec : Nat := 640
/-- Further fraction bits in which an argument is reduced. -/
abbrev guardBits : Nat := 192

/-- Integer square root by digits: the greatest r with (acc·2^n + r)² ≤ m, from the top digit down. -/
def isqrtFrom (m acc : Nat) : Nat → Nat
  | 0 => acc
  | n + 1 =>
    let t := acc + 2 ^ n
    isqrtFrom m (if t * t ≤ m then t else acc) n

/-- The integer square root of `m`. -/
def isqrt (m : Nat) : Nat := isqrtFrom m 0 (bitLen m / 2 + 1)

/-- Σ (±1)^k one / ((2k+1) n^(2k+1)) from term `t` on: atan(1/n) or atanh(1/n) at scale `one`. -/
def invSeries (n2 : Nat) (alt : Bool) : Nat → Nat → Int → Nat → Int
  | _, _, _, 0 => 0
  | t, k, s, fuel + 1 =>
    if t = 0 then 0 else s * Int.ofNat (t / k) + invSeries n2 alt (t / n2) (k + 2) (if alt then -s else s) fuel

/-- π/2 with `prec + guardBits` fraction bits, by π/4 = 4 atan(1/5) − atan(1/239). -/
def halfPi : Int :=
  let one := 2 ^ (prec + guardBits + 32)
  (2 * (4 * invSeries 25 true (one / 5) 1 1 400 - invSeries (239 * 239) true (one / 239) 1 1 120)) / 2 ^ 32

/-- ln 2 with `prec` fraction bits, by ln 2 = 2 atanh(1/3). -/
def ln2 : Int := (2 * invSeries 9 false (2 ^ (prec + 32) / 3) 1 1 260) / 2 ^ 32

/-- Fixed-point product. -/
def fmul (x y : Int) : Int := (x * y) / 2 ^ prec

/-- Terms of a power series: t, t·x/k, t·x²/(k(k+s)…), each divided by the next `den`. -/
def expFrom (x : Int) : Int → Nat → Nat → Int
  | _, _, 0 => 0
  | t, k, fuel + 1 => t + expFrom x (fmul t x / Int.ofNat k) (k + 1) fuel

/-- e^x for 0 ≤ x < 1. -/
def exp (x : Int) : Int := expFrom x (2 ^ prec) 1 140

/-- Alternating series of sine (first term x, k = 2) and cosine (first term 1, k = 1): each term −x²/(k(k+1)) of the last. -/
def trigFrom (x2 : Int) : Int → Nat → Nat → Int
  | _, _, 0 => 0
  | t, k, fuel + 1 => t + trigFrom x2 (-(fmul t x2 / Int.ofNat (k * (k + 1)))) (k + 2) fuel

/-- sin x for |x| ≤ π/4. -/
def sin (x : Int) : Int := trigFrom (fmul x x) x 2 90
/-- cos x for |x| ≤ π/4. -/
def cos (x : Int) : Int := trigFrom (fmul x x) (2 ^ prec) 1 90

/-- Σ z^(2k+1)/(2k+1): atanh z for |z| ≤ 1/5. -/
def atanhFrom (z2 : Int) : Int → Nat → Nat → Int
  | _, _, 0 => 0
  | t, k, fuel + 1 => t / Int.ofNat k + atanhFrom z2 (fmul t z2) (k + 2) fuel

/-- A fixed-point approximation of an irrational value, with its sticky digit. -/
def approx (x : Int) : FVal := .fin (decide (x < 0)) (2 * x.natAbs + 1) (-(prec : Int) - 1)

/-- Sine (`c` false) or cosine of a nonzero finite value, reduced exactly (R331). -/
def trig (c neg : Bool) (m : Nat) (e : Int) : FVal :=
  let x : Int := Int.ofNat (m * 2 ^ (e + prec + guardBits).toNat)
  let q := (x + halfPi / 2) / halfPi
  let r := (x - q * halfPi) / 2 ^ guardBits
  let k := (q + (if c then 1 else 0)) % 4
  let v := if k = 0 then sin r else if k = 1 then cos r else if k = 2 then -(sin r) else -(cos r)
  approx (if neg && !c then -v else v)

/-- 2^x for a nonzero finite x: exact for a whole x. -/
def exp2 (neg : Bool) (m : Nat) (e : Int) : FVal :=
  let top := e + bitLen m
  if 12 < top then .fin false 1 (if neg then -5000 else 5000)
  else
    let x : Int := (if neg then -1 else 1) * Int.ofNat (m * 2 ^ (e + prec).toNat)
    let k := x / 2 ^ prec
    let f := x % 2 ^ prec
    if f = 0 then .fin false 1 k
    else (match approx (exp (fmul f ln2)) with
      | .fin s n g => .fin s n (g + k)
      | v => v)

/-- log₂ x for a positive x: exact for a power of two. -/
def log2 (m : Nat) (e : Int) : FVal :=
  let b := bitLen m
  let n : Int := e + b - 1
  if m = 2 ^ (b - 1) then .fin (decide (n < 0)) n.natAbs 0
  else
    let big := decide (3 * 2 ^ (b - 1) < 2 * m)
    let n := if big then n + 1 else n
    let d := if big then 2 ^ b else 2 ^ (b - 1)
    let z : Int := ((Int.ofNat m - Int.ofNat d) * 2 ^ prec) / (Int.ofNat m + Int.ofNat d)
    let l := atanhFrom (fmul z z) z 1 150
    approx (n * 2 ^ prec + (2 * l * 2 ^ prec) / ln2)

/-- 1/x of a nonzero finite value, with a sticky digit. -/
def rcp (neg : Bool) (m : Nat) (e : Int) : FVal :=
  let k := bitLen m + 64
  let q := 2 ^ k / m
  .fin neg (2 * q + (if 2 ^ k % m = 0 then 0 else 1)) (-e - k - 1)

/-- √x of a positive value, with a sticky digit. -/
def sqrt (m : Nat) (e : Int) : FVal :=
  let (m, e) := if e % 2 = 0 then (m, e) else (2 * m, e - 1)
  let big := m * 2 ^ 128
  let r := isqrt big
  .fin false (2 * r + (if r * r = big then 0 else 1)) (e / 2 - 65)

/-- 1/√x of a positive value, with a sticky digit. -/
def rsqrt (m : Nat) (e : Int) : FVal :=
  let (m, e) := if e % 2 = 0 then (m, e) else (2 * m, e - 1)
  let r := isqrt (2 ^ 192 / m)
  .fin false (2 * r + (if r * r * m = 2 ^ 192 then 0 else 1)) (-(e / 2) - 97)

end Trans

/-- The seven functions of R332, by their UNI function numbers 0x12 to 0x18. -/
def fpFunc (et rm fn a : Nat) : Res :=
  let f := floatFmt et
  let inf (s : Bool) : Nat := f.withSign s f.infCode
  let nan : Nat := nanCode et
  let fin (v : FVal) : Res := encodeFloat et rm false v
  match decodeVal et a with
  | .nan => ⟨nan, 0⟩
  | .inf s =>
    match fn with
    | 0x12 => ⟨f.withSign s 0, 0⟩
    | 0x13 => if s then ⟨nan, Flag.nv⟩ else ⟨0, 0⟩
    | 0x14 => if s then ⟨nan, Flag.nv⟩ else ⟨inf false, 0⟩
    | 0x15 => if s then ⟨0, 0⟩ else ⟨inf false, 0⟩
    | 0x16 => if s then ⟨nan, Flag.nv⟩ else ⟨inf false, 0⟩
    | _ => ⟨nan, Flag.nv⟩
  | .fin s m e =>
    if m = 0 then
      match fn with
      | 0x12 => ⟨inf s, Flag.ovf⟩
      | 0x13 => ⟨inf s, Flag.ovf⟩
      | 0x14 => ⟨f.withSign s 0, 0⟩
      | 0x16 => ⟨inf true, Flag.ovf⟩
      | 0x17 => ⟨f.withSign s 0, 0⟩
      | _ => fin (.fin false 1 0)
    else
      match fn with
      | 0x12 => fin (Trans.rcp s m e)
      | 0x13 => if s then ⟨nan, Flag.nv⟩ else fin (Trans.rsqrt m e)
      | 0x14 => if s then ⟨nan, Flag.nv⟩ else fin (Trans.sqrt m e)
      | 0x15 => fin (Trans.exp2 s m e)
      | 0x16 => if s then ⟨nan, Flag.nv⟩ else fin (Trans.log2 m e)
      | 0x17 => fin (Trans.trig false s m e)
      | _ => fin (Trans.trig true s m e)

end Sys2Proof.Machine
end

