-- ==== Sys2Proof/Machine/FloatVec.lean ====
section
/-! DEFINITION. The floating-point lane instructions: OP 0x20 to 0x27, the floating functions of UNI, and CVT (R324, R326,
R329–R336). -/

namespace Sys2Proof.Machine

/-- The formats that the floating-point lane instructions accept (R326). -/
def fpOk (et : Nat) : Bool := et == ET.fp32 || et == ET.fp16 || et == ET.bf16

/-- The element of a format in the low bits of a register (R90). -/
def elemOf (et : Nat) (w : Word) : Nat := w.toNat % 2 ^ etBits et

/-- A two-source floating-point instruction (R330). -/
def fpOp2 (i : Instr) (s : State) (d a b : VReg) (f : Nat → Nat → Nat → Nat → Res) : Out? :=
  elemOp i s d fpOk fun e l => f e.et e.rm (elemOf e.et (e.v a l)) (elemOf e.et (e.v b l))
/-- A floating-point function of one source. -/
def fpOp1 (i : Instr) (s : State) (d a : VReg) (f : Nat → Nat → Nat → Res) : Out? :=
  elemOp i s d fpOk fun e l => f e.et e.rm (elemOf e.et (e.v a l))

/-- FADD (R330). -/
def execFadd (h : Hdr) (d a b : VReg) (s : State) : Out? := fpOp2 (.fadd h d a b) s d a b fpAdd
/-- FSUB (R330). -/
def execFsub (h : Hdr) (d a b : VReg) (s : State) : Out? := fpOp2 (.fsub h d a b) s d a b fpSub
/-- FMUL (R330). -/
def execFmul (h : Hdr) (d a b : VReg) (s : State) : Out? := fpOp2 (.fmul h d a b) s d a b fpMul
/-- FFMA (R334). -/
def execFfma (h : Hdr) (d a b : VReg) (s : State) : Out? :=
  elemOp (.ffma h d a b) s d fpOk fun e l => fpFma e.et e.rm (elemOf e.et (e.v a l)) (elemOf e.et (e.v b l)) (elemOf e.et (e.v d l))
/-- FMIN (R335). -/
def execFmin (h : Hdr) (d a b : VReg) (s : State) : Out? := fpOp2 (.fmin h d a b) s d a b fun et _ x y => ⟨elemMinMax et false x y, 0⟩
/-- FMAX (R335). -/
def execFmax (h : Hdr) (d a b : VReg) (s : State) : Out? := fpOp2 (.fmax h d a b) s d a b fun et _ x y => ⟨elemMinMax et true x y, 0⟩
/-- FSET (R336). -/
def execFset (h : Hdr) (c : BitVec 3) (p : BitVec 4) (a b : VReg) (s : State) : Out? :=
  plain (.fset h c p a b) s fun e =>
    if fpOk e.et then .ok (e.putP p.toNat fun l => fpCond e.et c.toNat (elemOf e.et (e.v a l)) (elemOf e.et (e.v b l)))
    else e.badMode
/-- FDP2: `mode.ET` names the format of the halves, the result is FP32 (R333). -/
def execFdp2 (h : Hdr) (d a b : VReg) (s : State) : Out? :=
  plain (.fdp2 h d a b) s fun e =>
    if e.et = ET.fp16 ∨ e.et = ET.bf16 then
      .ok (e.putRes d ET.fp32 fun l => fpDp2 e.et e.rm (e.v a l).toNat (e.v b l).toNat (e.v d l).toNat)
    else e.badMode

/-- FABS (R329). -/
def execFabs (h : Hdr) (d a : VReg) (s : State) : Out? := fpOp1 (.fabs h d a) s d a fun et _ x => ⟨fpSign et false x, 0⟩
/-- FNEG (R329). -/
def execFneg (h : Hdr) (d a : VReg) (s : State) : Out? := fpOp1 (.fneg h d a) s d a fun et _ x => ⟨fpSign et true x, 0⟩
/-- FRCP (R332). -/
def execFrcp (h : Hdr) (d a : VReg) (s : State) : Out? := fpOp1 (.frcp h d a) s d a fun et rm x => fpFunc et rm 0x12 x
/-- FRSQ (R332). -/
def execFrsq (h : Hdr) (d a : VReg) (s : State) : Out? := fpOp1 (.frsq h d a) s d a fun et rm x => fpFunc et rm 0x13 x
/-- FSQRT (R332). -/
def execFsqrt (h : Hdr) (d a : VReg) (s : State) : Out? := fpOp1 (.fsqrt h d a) s d a fun et rm x => fpFunc et rm 0x14 x
/-- FEXP2 (R332). -/
def execFexp2 (h : Hdr) (d a : VReg) (s : State) : Out? := fpOp1 (.fexp2 h d a) s d a fun et rm x => fpFunc et rm 0x15 x
/-- FLOG2 (R332). -/
def execFlog2 (h : Hdr) (d a : VReg) (s : State) : Out? := fpOp1 (.flog2 h d a) s d a fun et rm x => fpFunc et rm 0x16 x
/-- FSIN (R332). -/
def execFsin (h : Hdr) (d a : VReg) (s : State) : Out? := fpOp1 (.fsin h d a) s d a fun et rm x => fpFunc et rm 0x17 x
/-- FCOS (R332). -/
def execFcos (h : Hdr) (d a : VReg) (s : State) : Out? := fpOp1 (.fcos h d a) s d a fun et rm x => fpFunc et rm 0x18 x

/-- CVT: CB2 on either side is FORMAT; B32 on either side copies all 32 bits (R324). -/
def execCvt (h : Hdr) (src : BitVec 4) (d a : VReg) (s : State) : Out? :=
  gate (.cvt h src d a) s fun e s =>
    if src.toNat = ET.cb2 ∨ e.et = ET.cb2 then e.trapFor s Cause.format (dw e.st.mode.toNat) (e.em &&& e.g)
    else e.commit (s.setStand e.key (if src.toNat = ET.b32 ∨ e.et = ET.b32 then e.putV d fun l => e.v a l
      else e.putRes d e.et fun l => convert src.toNat e.et e.rm .none (elemOf src.toNat (e.v a l))))

end Sys2Proof.Machine
end

