-- ==== Sys2Proof/Machine/IntVec.lean ====
section
/-! DEFINITION. The integer and bit lane instructions: OP 0x10 to 0x1F and the integer functions of UNI (R298, R313, R316, R325,
R337–R342, R348, R350, R351, R353, R364, R365, R376). -/

namespace Sys2Proof.Machine

/-- Width of an integer lane instruction's elements under `mode.ET` (R325). -/
def intBits (et : Nat) : Nat := if etInt et then etBits et else 32
/-- An element as these instructions read it (R325). -/
def intElem (et : Nat) (w : Word) : Int :=
  if etSigned et then signed (intBits et) w.toNat else Int.ofNat (w.toNat % 2 ^ intBits et)
/-- An exact result reduced and filled (R90, R325). -/
def intFill (et : Nat) (i : Int) : Word :=
  let x := wrap (intBits et) i
  if etSigned et then BitVec.ofInt 32 (signed (intBits et) x) else wd x

/-- A two-source integer instruction: the exact result of the elements, wrapped (R338). -/
def intOp2 (i : Instr) (s : State) (d a b : VReg) (f : Nat → Int → Int → Int) : Out? :=
  laneOp i s d fun e l => intFill e.et (f e.et (intElem e.et (e.v a l)) (intElem e.et (e.v b l)))

/-- IADD (R338). -/
def execIadd (h : Hdr) (d a b : VReg) (s : State) : Out? := intOp2 (.iadd h d a b) s d a b fun _ x y => x + y
/-- ISUB (R338). -/
def execIsub (h : Hdr) (d a b : VReg) (s : State) : Out? := intOp2 (.isub h d a b) s d a b fun _ x y => x - y
/-- IMUL (R338). -/
def execImul (h : Hdr) (d a b : VReg) (s : State) : Out? := intOp2 (.imul h d a b) s d a b fun _ x y => x * y
/-- IMULH: the high n bits of the 2n-bit product (R338). -/
def execImulh (h : Hdr) (d a b : VReg) (s : State) : Out? :=
  intOp2 (.imulh h d a b) s d a b fun et x y => (x * y).fdiv (2 ^ intBits et)
/-- IMAD (R341). -/
def execImad (h : Hdr) (d a b : VReg) (s : State) : Out? :=
  laneOp (.imad h d a b) s d fun e l =>
    intFill e.et (intElem e.et (e.v a l) * intElem e.et (e.v b l) + intElem e.et (e.v d l))
/-- IMIN (R338). -/
def execImin (h : Hdr) (d a b : VReg) (s : State) : Out? := intOp2 (.imin h d a b) s d a b fun _ x y => min x y
/-- IMAX (R338). -/
def execImax (h : Hdr) (d a b : VReg) (s : State) : Out? := intOp2 (.imax h d a b) s d a b fun _ x y => max x y

/-- AND (R313). -/
def execAnd (h : Hdr) (d a b : VReg) (s : State) : Out? := laneOp (.and h d a b) s d fun e l => e.v a l &&& e.v b l
/-- OR (R353). -/
def execOr (h : Hdr) (d a b : VReg) (s : State) : Out? := laneOp (.or h d a b) s d fun e l => e.v a l ||| e.v b l
/-- XOR (R376). -/
def execXor (h : Hdr) (d a b : VReg) (s : State) : Out? := laneOp (.xor h d a b) s d fun e l => e.v a l ^^^ e.v b l

/-- SHL: a count of 32 or more gives 0 (R364). -/
def execShl (h : Hdr) (d a b : VReg) (s : State) : Out? := laneOp (.shl h d a b) s d fun e l => e.v a l <<< min 32 (e.v b l).toNat
/-- SHR: a count of 32 or more gives 0 (R364). -/
def execShr (h : Hdr) (d a b : VReg) (s : State) : Out? := laneOp (.shr h d a b) s d fun e l => e.v a l >>> min 32 (e.v b l).toNat
/-- SAR: a count of 32 or more gives copies of bit 31 (R364). -/
def execSar (h : Hdr) (d a b : VReg) (s : State) : Out? :=
  laneOp (.sar h d a b) s d fun e l => (e.v a l).sshiftRight (min 32 (e.v b l).toNat)

/-- The six conditions of ISET and SSET; codes 6 and 7 are none (R336, R342, R369). -/
def intCond (c : Nat) (x y : Int) : Option Bool :=
  match c with
  | 0 => some (decide (x = y))
  | 1 => some (decide (x ≠ y))
  | 2 => some (decide (x < y))
  | 3 => some (decide (x ≤ y))
  | 4 => some (decide (y < x))
  | 5 => some (decide (y ≤ x))
  | _ => none

/-- ISET (R342). -/
def execIset (h : Hdr) (c : BitVec 3) (p : BitVec 4) (a b : VReg) (s : State) : Out? :=
  plain (.iset h c p a b) s fun e =>
    if 6 ≤ c.toNat then .trap Cause.illegal e.ins.tvalWord
    else .ok (e.putP p.toNat fun l => (intCond c.toNat (intElem e.et (e.v a l)) (intElem e.et (e.v b l))).getD false)

/-- SEL: a lane whose bit of the predicate is clear keeps its value (R365). -/
def execSel (h : Hdr) (d a : VReg) (p : PReg) (s : State) : Out? :=
  laneOp (.sel h d a p) s d fun e l => if (e.p p.toNat).getLsbD l then e.v a l else e.v d l

/-- Byte i of a word as IDP4 reads it (R340). -/
def idpByte (et : Nat) (w : Word) (i : Nat) : Int :=
  let b := w.toNat / 2 ^ (8 * i) % 256
  if et = ET.i8 then signed 8 b else Int.ofNat b

/-- The sum of the four byte products (R340). -/
def idpSum (et : Nat) (x y : Word) : Int :=
  idpByte et x 0 * idpByte et y 0 + idpByte et x 1 * idpByte et y 1 + idpByte et x 2 * idpByte et y 2 + idpByte et x 3 * idpByte et y 3

/-- IDP4 (R340). -/
def execIdp4 (h : Hdr) (d a b : VReg) (s : State) : Out? :=
  plain (.idp4 h d a b) s fun e =>
    if e.et = ET.i8 ∨ e.et = ET.u8 then
      .ok (e.putV d fun l => e.v d l + BitVec.ofInt 32 (idpSum e.et (e.v a l) (e.v b l)))
    else e.badMode

/-- MOV (R350). -/
def execMov (h : Hdr) (d a : VReg) (s : State) : Out? := laneOp (.mov h d a) s d fun e l => e.v a l
/-- NOT (R350). -/
def execNot (h : Hdr) (d a : VReg) (s : State) : Out? := laneOp (.not h d a) s d fun e l => ~~~(e.v a l)
/-- IABS (R337). -/
def execIabs (h : Hdr) (d a : VReg) (s : State) : Out? :=
  laneOp (.iabs h d a) s d fun e l => let x := intElem e.et (e.v a l); intFill e.et (if 0 ≤ x then x else -x)
/-- INEG (R337). -/
def execIneg (h : Hdr) (d a : VReg) (s : State) : Out? := laneOp (.ineg h d a) s d fun e l => intFill e.et (-(intElem e.et (e.v a l)))
/-- POPC (R350). -/
def execPopc (h : Hdr) (d a : VReg) (s : State) : Out? := laneOp (.popc h d a) s d fun e l => wd (popcount (e.v a l))
/-- CLZ (R316). -/
def execClz (h : Hdr) (d a : VReg) (s : State) : Out? := laneOp (.clz h d a) s d fun e l => wd (32 - bitLen (e.v a l).toNat)
/-- BREV (R316). -/
def execBrev (h : Hdr) (d a : VReg) (s : State) : Out? := laneOp (.brev h d a) s d fun e l => wd (revNat (e.v a l).toNat 32 32)
/-- LRANK (R298). -/
def execLrank (h : Hdr) (d a : VReg) (s : State) : Out? := laneOp (.lrank h d a) s d fun e l => wd (popNat (e.v a l).toNat l)
/-- LIDX (R348). -/
def execLidx (h : Hdr) (d : VReg) (s : State) : Out? := laneOp (.lidx h d) s d fun _ l => wd l

/-- IADDK (R339). -/
def execIaddk (h : Hdr) (d a : VReg) (lit : Word) (s : State) : Out? :=
  laneOp (.iaddk h d a lit) s d fun e l => intFill e.et (intElem e.et (e.v a l) + intElem e.et lit)
/-- MOVK (R351). -/
def execMovk (h : Hdr) (d : VReg) (lit : Word) (s : State) : Out? := laneOp (.movk h d lit) s d fun _ _ => lit

end Sys2Proof.Machine
end

