-- ==== Sys2Proof/Machine/Scalar.lean ====
section
/-! DEFINITION. The scalar instructions: OP 0x3C to 0x46 (R296, R357, R362, R363, R369). They act on the stand as a whole,
whatever `em` and the guard are. -/

namespace Sys2Proof.Machine

/-- A scalar instruction of two sources (R362). -/
def scalOp (i : Instr) (s : State) (d a b : SReg) (f : DWord → DWord → DWord) : Out? :=
  plain i s fun e => .ok (e.st.setS d.toNat (f (e.s a) (e.s b)))

/-- SADD (R362). -/
def execSadd (h : Hdr) (d a b : SReg) (s : State) : Out? := scalOp (.sadd h d a b) s d a b fun x y => x + y
/-- SSUB (R362). -/
def execSsub (h : Hdr) (d a b : SReg) (s : State) : Out? := scalOp (.ssub h d a b) s d a b fun x y => x - y
/-- SMUL (R362). -/
def execSmul (h : Hdr) (d a b : SReg) (s : State) : Out? := scalOp (.smul h d a b) s d a b fun x y => x * y
/-- SAND (R362). -/
def execSand (h : Hdr) (d a b : SReg) (s : State) : Out? := scalOp (.sand h d a b) s d a b fun x y => x &&& y
/-- SOR (R362). -/
def execSor (h : Hdr) (d a b : SReg) (s : State) : Out? := scalOp (.sor h d a b) s d a b fun x y => x ||| y
/-- SXOR (R362). -/
def execSxor (h : Hdr) (d a b : SReg) (s : State) : Out? := scalOp (.sxor h d a b) s d a b fun x y => x ^^^ y
/-- SSHL: 0 for a count of 64 or more (R362). -/
def execSshl (h : Hdr) (d a b : SReg) (s : State) : Out? := scalOp (.sshl h d a b) s d a b fun x y => x <<< min 64 y.toNat
/-- SSHR: 0 for a count of 64 or more (R362). -/
def execSshr (h : Hdr) (d a b : SReg) (s : State) : Out? := scalOp (.sshr h d a b) s d a b fun x y => x >>> min 64 y.toNat

/-- The eight conditions of SSET: 0–5 signed, 6 and 7 unsigned (R369). -/
def scalCond (c : Nat) (x y : DWord) : Bool :=
  match c with
  | 0 => decide (x = y)
  | 1 => decide (x ≠ y)
  | 2 => decide (x.toInt < y.toInt)
  | 3 => decide (x.toInt ≤ y.toInt)
  | 4 => decide (y.toInt < x.toInt)
  | 5 => decide (y.toInt ≤ x.toInt)
  | 6 => decide (x.toNat < y.toNat)
  | _ => decide (y.toNat ≤ x.toNat)

/-- SSET: all 32 bits of the predicate (R296, R369). -/
def execSset (h : Hdr) (c : BitVec 3) (p : BitVec 4) (a b : SReg) (s : State) : Out? :=
  plain (.sset h c p a b) s fun e => .ok (e.st.setP e.idx p.toNat (if scalCond c.toNat (e.s a) (e.s b) then ~~~0 else 0))

/-- SMOVK (R363). -/
def execSmovk (h : Hdr) (d : SReg) (lit : Word) (s : State) : Out? := plain (.smovk h d lit) s fun e => .ok (e.st.setS d.toNat (lit.signExtend 64))
/-- SADDK (R363). -/
def execSaddk (h : Hdr) (d a : SReg) (lit : Word) (s : State) : Out? :=
  plain (.saddk h d a lit) s fun e => .ok (e.st.setS d.toNat (e.s a + lit.signExtend 64))

end Sys2Proof.Machine
end

