-- ==== Sys2Proof/Machine/Dispatch.lean ====
section
/-! DEFINITION. The dispatch of the instructions and steps to their meanings, one arm for each. -/

namespace Sys2Proof.Machine

/-- The effect of one instruction, or of one step without an encoding, on the state. -/
def exec (i : Instr) (s : State) : Host.Outcome State Fault Refusal :=
  match i with
  | .illegal word => Sys2Proof.Machine.execIllegal word s
  | .nop h => Sys2Proof.Machine.execNop h s
  | .bra h neg p tgt jn => Sys2Proof.Machine.execBra h neg p tgt jn s
  | .brx h n a b => Sys2Proof.Machine.execBrx h n a b s
  | .join h => Sys2Proof.Machine.execJoin h s
  | .call h d lit => Sys2Proof.Machine.execCall h d lit s
  | .ret h a => Sys2Proof.Machine.execRet h a s
  | .exit h => Sys2Proof.Machine.execExit h s
  | .wait h lit => Sys2Proof.Machine.execWait h lit s
  | .yield h => Sys2Proof.Machine.execYield h s
  | .spawn h d a lit => Sys2Proof.Machine.execSpawn h d a lit s
  | .trap h a code => Sys2Proof.Machine.execTrap h a code s
  | .eret h => Sys2Proof.Machine.execEret h s
  | .brk h => Sys2Proof.Machine.execBrk h s
  | .idem h => Sys2Proof.Machine.execIdem h s
  | .mode h msk lit => Sys2Proof.Machine.execMode h msk lit s
  | .iadd h d a b => Sys2Proof.Machine.execIadd h d a b s
  | .isub h d a b => Sys2Proof.Machine.execIsub h d a b s
  | .imul h d a b => Sys2Proof.Machine.execImul h d a b s
  | .imulh h d a b => Sys2Proof.Machine.execImulh h d a b s
  | .imad h d a b => Sys2Proof.Machine.execImad h d a b s
  | .imin h d a b => Sys2Proof.Machine.execImin h d a b s
  | .imax h d a b => Sys2Proof.Machine.execImax h d a b s
  | .and h d a b => Sys2Proof.Machine.execAnd h d a b s
  | .or h d a b => Sys2Proof.Machine.execOr h d a b s
  | .xor h d a b => Sys2Proof.Machine.execXor h d a b s
  | .shl h d a b => Sys2Proof.Machine.execShl h d a b s
  | .shr h d a b => Sys2Proof.Machine.execShr h d a b s
  | .sar h d a b => Sys2Proof.Machine.execSar h d a b s
  | .iset h c p a b => Sys2Proof.Machine.execIset h c p a b s
  | .sel h d a p => Sys2Proof.Machine.execSel h d a p s
  | .idp4 h d a b => Sys2Proof.Machine.execIdp4 h d a b s
  | .fadd h d a b => Sys2Proof.Machine.execFadd h d a b s
  | .fsub h d a b => Sys2Proof.Machine.execFsub h d a b s
  | .fmul h d a b => Sys2Proof.Machine.execFmul h d a b s
  | .ffma h d a b => Sys2Proof.Machine.execFfma h d a b s
  | .fmin h d a b => Sys2Proof.Machine.execFmin h d a b s
  | .fmax h d a b => Sys2Proof.Machine.execFmax h d a b s
  | .fset h c p a b => Sys2Proof.Machine.execFset h c p a b s
  | .fdp2 h d a b => Sys2Proof.Machine.execFdp2 h d a b s
  | .mov h d a => Sys2Proof.Machine.execMov h d a s
  | .not h d a => Sys2Proof.Machine.execNot h d a s
  | .iabs h d a => Sys2Proof.Machine.execIabs h d a s
  | .ineg h d a => Sys2Proof.Machine.execIneg h d a s
  | .popc h d a => Sys2Proof.Machine.execPopc h d a s
  | .clz h d a => Sys2Proof.Machine.execClz h d a s
  | .brev h d a => Sys2Proof.Machine.execBrev h d a s
  | .lrank h d a => Sys2Proof.Machine.execLrank h d a s
  | .lidx h d => Sys2Proof.Machine.execLidx h d s
  | .fabs h d a => Sys2Proof.Machine.execFabs h d a s
  | .fneg h d a => Sys2Proof.Machine.execFneg h d a s
  | .frcp h d a => Sys2Proof.Machine.execFrcp h d a s
  | .frsq h d a => Sys2Proof.Machine.execFrsq h d a s
  | .fsqrt h d a => Sys2Proof.Machine.execFsqrt h d a s
  | .fexp2 h d a => Sys2Proof.Machine.execFexp2 h d a s
  | .flog2 h d a => Sys2Proof.Machine.execFlog2 h d a s
  | .fsin h d a => Sys2Proof.Machine.execFsin h d a s
  | .fcos h d a => Sys2Proof.Machine.execFcos h d a s
  | .cvt h src d a => Sys2Proof.Machine.execCvt h src d a s
  | .iaddk h d a lit => Sys2Proof.Machine.execIaddk h d a lit s
  | .movk h d lit => Sys2Proof.Machine.execMovk h d lit s
  | .csrr h d n => Sys2Proof.Machine.execCsrr h d n s
  | .csrw h d n => Sys2Proof.Machine.execCsrw h d n s
  | .pand h d a b => Sys2Proof.Machine.execPand h d a b s
  | .por h d a b => Sys2Proof.Machine.execPor h d a b s
  | .pxor h d a b => Sys2Proof.Machine.execPxor h d a b s
  | .pandn h d a b => Sys2Proof.Machine.execPandn h d a b s
  | .p2s h d a => Sys2Proof.Machine.execP2s h d a s
  | .s2p h d a => Sys2Proof.Machine.execS2p h d a s
  | .lshf h d a b => Sys2Proof.Machine.execLshf h d a b s
  | .lbcs h d a lane => Sys2Proof.Machine.execLbcs h d a lane s
  | .lmatch h d a => Sys2Proof.Machine.execLmatch h d a s
  | .lpfx h d a excl => Sys2Proof.Machine.execLpfx h d a excl s
  | .lred h d a kind => Sys2Proof.Machine.execLred h d a kind s
  | .lvote h kind p a => Sys2Proof.Machine.execLvote h kind p a s
  | .xchg h d a hd => Sys2Proof.Machine.execXchg h d a hd s
  | .v2s h d a lane => Sys2Proof.Machine.execV2s h d a lane s
  | .s2v h d a hi => Sys2Proof.Machine.execS2v h d a hi s
  | .sadd h d a b => Sys2Proof.Machine.execSadd h d a b s
  | .ssub h d a b => Sys2Proof.Machine.execSsub h d a b s
  | .smul h d a b => Sys2Proof.Machine.execSmul h d a b s
  | .sand h d a b => Sys2Proof.Machine.execSand h d a b s
  | .sor h d a b => Sys2Proof.Machine.execSor h d a b s
  | .sxor h d a b => Sys2Proof.Machine.execSxor h d a b s
  | .sshl h d a b => Sys2Proof.Machine.execSshl h d a b s
  | .sshr h d a b => Sys2Proof.Machine.execSshr h d a b s
  | .sset h c p a b => Sys2Proof.Machine.execSset h c p a b s
  | .smovk h d lit => Sys2Proof.Machine.execSmovk h d lit s
  | .saddk h d a lit => Sys2Proof.Machine.execSaddk h d a lit s
  | .sld h d a => Sys2Proof.Machine.execSld h d a s
  | .sst h d a => Sys2Proof.Machine.execSst h d a s
  | .ld h d a b => Sys2Proof.Machine.execLd h d a b s
  | .st h d a b => Sys2Proof.Machine.execSt h d a b s
  | .pref h copse a b => Sys2Proof.Machine.execPref h copse a b s
  | .phase h kind scope => Sys2Proof.Machine.execPhase h kind scope s
  | .acvt h toGen win d a => Sys2Proof.Machine.execAcvt h toGen win d a s
  | .awin h d a kind => Sys2Proof.Machine.execAwin h d a kind s
  | .discard h a b => Sys2Proof.Machine.execDiscard h a b s
  | .aadd h d a b => Sys2Proof.Machine.execAadd h d a b s
  | .amin h d a b => Sys2Proof.Machine.execAmin h d a b s
  | .amax h d a b => Sys2Proof.Machine.execAmax h d a b s
  | .aand h d a b => Sys2Proof.Machine.execAand h d a b s
  | .aor h d a b => Sys2Proof.Machine.execAor h d a b s
  | .axor h d a b => Sys2Proof.Machine.execAxor h d a b s
  | .axch h d a b => Sys2Proof.Machine.execAxch h d a b s
  | .acas h d a b => Sys2Proof.Machine.execAcas h d a b s
  | .tacc h d a lit => Sys2Proof.Machine.execTacc h d a lit s
  | .ast h d a lit => Sys2Proof.Machine.execAst h d a lit s
  | .ald h d a lit => Sys2Proof.Machine.execAld h d a lit s
  | .rflush h a b => Sys2Proof.Machine.execRflush h a b s
  | .tagset h a b => Sys2Proof.Machine.execTagset h a b s
  | .tagget h d a => Sys2Proof.Machine.execTagget h d a s
  | .cpin h slot k a b rows bytes => Sys2Proof.Machine.execCpin h slot k a b rows bytes s
  | .cpout h k a b rows bytes => Sys2Proof.Machine.execCpout h k a b rows bytes s
  | .ktst h d k => Sys2Proof.Machine.execKtst h d k s
  | .tmark h a => Sys2Proof.Machine.execTmark h a s
  | .vres h a => Sys2Proof.Machine.execVres h a s
  | .vrel h => Sys2Proof.Machine.execVrel h s
  | .ptst h d a => Sys2Proof.Machine.execPtst h d a s
  | .ptld h a => Sys2Proof.Machine.execPtld h a s
  | .btake h matrix => Sys2Proof.Machine.execBtake h matrix s
  | .bpass h matrix => Sys2Proof.Machine.execBpass h matrix s
  | .oclm h d => Sys2Proof.Machine.execOclm h d s
  | .orel h d => Sys2Proof.Machine.execOrel h d s
  | .old h d a rows => Sys2Proof.Machine.execOld h d a rows s
  | .mma h d a b => Sys2Proof.Machine.execMma h d a b s
  | .azero h d => Sys2Proof.Machine.execAzero h d s
  | .amov h d a col n => Sys2Proof.Machine.execAmov h d a col n s
  | .amovv h d a col n => Sys2Proof.Machine.execAmovv h d a col n s
  | .gang h a => Sys2Proof.Machine.execGang h a s
  | .cbld h tab a => Sys2Proof.Machine.execCbld h tab a s
  | .gcrt h d a b => Sys2Proof.Machine.execGcrt h d a b s
  | .gjoin h d a => Sys2Proof.Machine.execGjoin h d a s
  | .gleave h d a => Sys2Proof.Machine.execGleave h d a s
  | .gbar h d a => Sys2Proof.Machine.execGbar h d a s
  | .gvote h kind p a b => Sys2Proof.Machine.execGvote h kind p a b s
  | .gred h d a b op => Sys2Proof.Machine.execGred h d a b op s
  | .ginfo h d a => Sys2Proof.Machine.execGinfo h d a s
  | .gdel h d a => Sys2Proof.Machine.execGdel h d a s
  | .h2s h d a => Sys2Proof.Machine.execH2s h d a s
  | .s2h h d a clr => Sys2Proof.Machine.execS2h h d a clr s
  | .qenq h d a b => Sys2Proof.Machine.execQenq h d a b s
  | .qdeq h d a b => Sys2Proof.Machine.execQdeq h d a b s
  | .qsteal h d a b => Sys2Proof.Machine.execQsteal h d a b s
  | .tdone h d a => Sys2Proof.Machine.execTdone h d a s
  | .tfull h d a => Sys2Proof.Machine.execTfull h d a s
  | .tempty h d a => Sys2Proof.Machine.execTempty h d a s
  | .tstat h d a => Sys2Proof.Machine.execTstat h d a s
  | .chapp h d a b => Sys2Proof.Machine.execChapp h d a b s
  | .chadv h a => Sys2Proof.Machine.execChadv h a s
  | .chseq h d a => Sys2Proof.Machine.execChseq h d a s
  | .launchRecordEnqueue q bytes => Sys2Proof.Machine.execLaunchRecordEnqueue q bytes s
  | .grovePlacement die => Sys2Proof.Machine.execGrovePlacement die s
  | .colevelLaunchPlacement die => Sys2Proof.Machine.execColevelLaunchPlacement die s
  | .stealMessage die => Sys2Proof.Machine.execStealMessage die s
  | .standRetire st => Sys2Proof.Machine.execStandRetire st s
  | .completionCounterDecrement l => Sys2Proof.Machine.execCompletionCounterDecrement l s
  | .forwardedRecord msg => Sys2Proof.Machine.execForwardedRecord msg s
  | .schedulerQuery msg => Sys2Proof.Machine.execSchedulerQuery msg s
  | .greedyRunLimit core quarter => Sys2Proof.Machine.execGreedyRunLimit core quarter s
  | .contextSwitchTimeslice core => Sys2Proof.Machine.execContextSwitchTimeslice core s
  | .contextSwitchIdle core => Sys2Proof.Machine.execContextSwitchIdle core s
  | .speculationSquash st path => Sys2Proof.Machine.execSpeculationSquash st path s
  | .pageFaultResolved st path => Sys2Proof.Machine.execPageFaultResolved st path s
  | .pageFaultFatal st path => Sys2Proof.Machine.execPageFaultFatal st path s
  | .loadDataReturn op => Sys2Proof.Machine.execLoadDataReturn op s
  | .storePerformed op => Sys2Proof.Machine.execStorePerformed op s
  | .atomicAtHome op k => Sys2Proof.Machine.execAtomicAtHome op k s
  | .atomicReply op => Sys2Proof.Machine.execAtomicReply op s
  | .combineEntryTimeout core k => Sys2Proof.Machine.execCombineEntryTimeout core k s
  | .publicationComplete pub => Sys2Proof.Machine.execPublicationComplete pub s
  | .copyComplete op => Sys2Proof.Machine.execCopyComplete op s
  | .oldFillComplete op => Sys2Proof.Machine.execOldFillComplete op s
  | .mmaArrayStart op => Sys2Proof.Machine.execMmaArrayStart op s
  | .mmaFinish op => Sys2Proof.Machine.execMmaFinish op s
  | .aldComplete op => Sys2Proof.Machine.execAldComplete op s
  | .astPerformed op => Sys2Proof.Machine.execAstPerformed op s
  | .cbldTableWrite op => Sys2Proof.Machine.execCbldTableWrite op s
  | .tileOffer core => Sys2Proof.Machine.execTileOffer core s
  | .tileHeaderAtHome op => Sys2Proof.Machine.execTileHeaderAtHome op s
  | .tileGrant op => Sys2Proof.Machine.execTileGrant op s
  | .tileRefused op => Sys2Proof.Machine.execTileRefused op s
  | .tileReofferTimer core => Sys2Proof.Machine.execTileReofferTimer core s
  | .residualRetryTimer st slot => Sys2Proof.Machine.execResidualRetryTimer st slot s
  | .flushRequestAtHome op => Sys2Proof.Machine.execFlushRequestAtHome op s
  | .tileApply home op => Sys2Proof.Machine.execTileApply home op s
  | .groupOpAtController op => Sys2Proof.Machine.execGroupOpAtController op s
  | .groupReply op => Sys2Proof.Machine.execGroupReply op s
  | .gredCellsFree die => Sys2Proof.Machine.execGredCellsFree die s
  | .queueOpAtController op => Sys2Proof.Machine.execQueueOpAtController op s
  | .remoteQenqMessage m => Sys2Proof.Machine.execRemoteQenqMessage m s
  | .counterDecrementAtHome op => Sys2Proof.Machine.execCounterDecrementAtHome op s
  | .successorEnqueueRetry m => Sys2Proof.Machine.execSuccessorEnqueueRetry m s
  | .bufferBitAtHome op => Sys2Proof.Machine.execBufferBitAtHome op s
  | .ioEntryStart chain => Sys2Proof.Machine.execIoEntryStart chain s
  | .ioEntryComplete chain n dev => Sys2Proof.Machine.execIoEntryComplete chain n dev s
  | .remoteOpTimeout op => Sys2Proof.Machine.execRemoteOpTimeout op s
  | .holdNotice pelfold => Sys2Proof.Machine.execHoldNotice pelfold s
  | .watchdogExpiry st => Sys2Proof.Machine.execWatchdogExpiry st s
  | .ccmdAdmit c => Sys2Proof.Machine.execCcmdAdmit c s
  | .ccmdEnd c => Sys2Proof.Machine.execCcmdEnd c s
  | .ccmdVacate c => Sys2Proof.Machine.execCcmdVacate c s
  | .replySlotWrite c op => Sys2Proof.Machine.execReplySlotWrite c op s
  | .vacateComplete c => Sys2Proof.Machine.execVacateComplete c s
  | .ccmdRestore c => Sys2Proof.Machine.execCcmdRestore c s
  | .restoreGrovePlacement die => Sys2Proof.Machine.execRestoreGrovePlacement die s
  | .ccmdAttachDebugger c => Sys2Proof.Machine.execCcmdAttachDebugger c s
  | .ccmdDetachDebugger c => Sys2Proof.Machine.execCcmdDetachDebugger c s
  | .tlbInvalidateContext die v => Sys2Proof.Machine.execTlbInvalidateContext die v s
  | .tlbInvalidateRange die v => Sys2Proof.Machine.execTlbInvalidateRange die v s
  | .tlbInvalidationComplete die => Sys2Proof.Machine.execTlbInvalidationComplete die s
  | .ddirWrite die v => Sys2Proof.Machine.execDdirWrite die v s
  | .switchCommand core v => Sys2Proof.Machine.execSwitchCommand core v s
  | .createQueue die c => Sys2Proof.Machine.execCreateQueue die c s
  | .destroyQueue die c => Sys2Proof.Machine.execDestroyQueue die c s
  | .createChain die c => Sys2Proof.Machine.execCreateChain die c s
  | .destroyChain die c => Sys2Proof.Machine.execDestroyChain die c s
  | .createEndpoint die c => Sys2Proof.Machine.execCreateEndpoint die c s
  | .destroyEndpoint die c => Sys2Proof.Machine.execDestroyEndpoint die c s
  | .configRegisterWrite addr size v => Sys2Proof.Machine.execConfigRegisterWrite addr size v s
  | .lockInterfaceRequest n => Sys2Proof.Machine.execLockInterfaceRequest n s
  | .startInterfaceRequest n => Sys2Proof.Machine.execStartInterfaceRequest n s
  | .stopInterfaceRequest n => Sys2Proof.Machine.execStopInterfaceRequest n s
  | .interfaceLinkError n => Sys2Proof.Machine.execInterfaceLinkError n s
  | .uncorrectableError loc => Sys2Proof.Machine.execUncorrectableError loc s
  | .errorSelfTest tgt pass => Sys2Proof.Machine.execErrorSelfTest tgt pass s
  | .coppiceScanEnd die copse pass => Sys2Proof.Machine.execCoppiceScanEnd die copse pass s
  | .tokenTapVisit home => Sys2Proof.Machine.execTokenTapVisit home s
  | .limiterRefill die c => Sys2Proof.Machine.execLimiterRefill die c s
  | .packetArrival src seq op => Sys2Proof.Machine.execPacketArrival src seq op s
  | .flitPayloadError c op => Sys2Proof.Machine.execFlitPayloadError c op s
  | .linkFailure link => Sys2Proof.Machine.execLinkFailure link s
  | .wavelengthErrorWindow fibre wl errors => Sys2Proof.Machine.execWavelengthErrorWindow fibre wl errors s
  | .wavelengthRetrainDone fibre wl ok => Sys2Proof.Machine.execWavelengthRetrainDone fibre wl ok s
  | .supplySag die mhz => Sys2Proof.Machine.execSupplySag die mhz s
  | .thermalThrottle die hot => Sys2Proof.Machine.execThermalThrottle die hot s
  | .thermalAlert die => Sys2Proof.Machine.execThermalAlert die s
  | .debugHalt c tgt => Sys2Proof.Machine.execDebugHalt c tgt s
  | .debugSetHeld st path => Sys2Proof.Machine.execDebugSetHeld st path s
  | .breakpointHit st path => Sys2Proof.Machine.execBreakpointHit st path s
  | .singleStep st path => Sys2Proof.Machine.execSingleStep st path s
  | .debugSetBreakpoint core k bp => Sys2Proof.Machine.execDebugSetBreakpoint core k bp s
  | .debugSetWatchpoint core k wp => Sys2Proof.Machine.execDebugSetWatchpoint core k wp s
  | .debugReleaseHeld st path => Sys2Proof.Machine.execDebugReleaseHeld st path s
  | .deterministicModeSwitch core on base len => Sys2Proof.Machine.execDeterministicModeSwitch core on base len s
  | .schedulerMessageDropped msg => Sys2Proof.Machine.execSchedulerMessageDropped msg s
  | .holdNoticeSend => Sys2Proof.Machine.execHoldNoticeSend s
  | .spdmMeasurementsRequest => Sys2Proof.Machine.execSpdmMeasurementsRequest s
  | .boot => Sys2Proof.Machine.execBoot s
  | .flitHeaderError => Sys2Proof.Machine.execFlitHeaderError s
  | .thermalShutdown => Sys2Proof.Machine.execThermalShutdown s
  | .partitionReinitialise => Sys2Proof.Machine.execPartitionReinitialise s

end Sys2Proof.Machine
end

