-- ==== Sys2Proof/Machine/Ahead.lean ====
section
/-! DEFINITION. Issue past a branch whose predicate is pending, or a memory instruction whose translation is (R22–R24, R154). A path that waits at a BRA
declared uniform issues ahead along the predicted side. Its registers do not change before the branch resolves: what it issues works on a copy of the stand that each step makes
anew. What stays of it until then is what the rules let show: the loads, with their charge, their count, and what they found in the snapshot
cache (log entry 41). -/

namespace Sys2Proof.Machine

/-- Whether an instruction only reads and writes registers and may issue speculatively; CSRR may too (R23, R323, R324, R325). -/
def registersOnly : Instr → Bool
  | .nop .. | .iadd .. | .isub .. | .imul .. | .imulh .. | .imad .. | .imin .. | .imax .. | .and .. | .or .. | .xor .. | .shl .. | .shr .. | .sar ..
  | .iset .. | .sel .. | .idp4 .. | .fadd .. | .fsub .. | .fmul .. | .ffma .. | .fmin .. | .fmax .. | .fset .. | .fdp2 .. | .mov .. | .not ..
  | .iabs .. | .ineg .. | .popc .. | .clz .. | .brev .. | .lrank .. | .lidx .. | .fabs .. | .fneg .. | .frcp .. | .frsq .. | .fsqrt .. | .fexp2 ..
  | .flog2 .. | .fsin .. | .fcos .. | .cvt .. | .iaddk .. | .movk .. | .csrr .. | .pand .. | .por .. | .pxor .. | .pandn .. | .p2s .. | .s2p ..
  | .lshf .. | .lbcs .. | .lmatch .. | .lpfx .. | .lred .. | .lvote .. | .v2s .. | .s2v .. | .sadd .. | .ssub .. | .smul .. | .sand .. | .sor ..
  | .sxor .. | .sshl .. | .sshr .. | .sset .. | .smovk .. | .saddk .. | .acvt .. | .awin .. => true
  | _ => false

/-- What a load reads. -/
def Out.reads (o : Out) : List Place :=
  match o.work with
  | .load accs scloff => accs.flatMap (loadPlaces o.mode scloff)
  | .sload a => a.pl.span 8
  | _ => []

/-- What a load reads, access by access: a lane's element with its scale, or an SLD's 8 bytes. -/
def Out.readsEach (o : Out) : List (List Place) :=
  match o.work with
  | .load accs scloff => accs.map (loadPlaces o.mode scloff)
  | .sload a => [a.pl.span 8]
  | _ => []

/-- What the snapshot cache holds of a speculative load's bytes, each access all or not at all, and without poison (R23, R367); nothing where an earlier
access of the stand or an atomic in the combining buffer may still come before it (R162, R175). -/
def State.seenBytes (s : State) (op : Nat) (o : Out) : SMap Byte :=
  let k := coreOf o.st
  let c := s.core k
  let held := fun (p : Place) => !s.poisonedAt p && (match p with
    | .mem pa => (c.line pa).has (lineOff pa)
    | .scr _ _ => false)
  if !s.mayPerform op o false || !c.combine.isEmpty then []
  else ((o.readsEach.filter fun ps => ps.all held).flatten).foldl (fun m p => match p with
    | .mem pa => SMap.insert m pa (s.coreByte k pa)
    | .scr _ _ => m) []

/-- The stand as later speculative instructions see it behind a load that found all its data; none where they must wait for the rest
(R347). -/
def State.seenStand (s : State) (o : Out) (st : Stand) : Option Stand :=
  let found := fun (p : Place) => match p with
    | .mem pa => (SMap.get? o.seen pa).isSome
    | .scr _ _ => false
  if !o.reads.all found then none
  else match o.work with
    | .load accs scloff => some (s.loadLanes o accs scloff st)
    | .sload a => some (s.loadScalar o a st)
    | _ => none

/-- A path table in which one path has moved to another PC and nothing else has changed, with `em`, the handles and `mode` (R23). -/
def onlyMoves (before after : Stand) (idx : Nat) : Bool :=
  decide (after.paths = (before.setPath idx { before.path idx with pc := (after.path idx).pc }).paths ∧
    (after.mode, after.dis, after.hregs, after.inHandler) = (before.mode, before.dis, before.hregs, before.inHandler))

/-- What an instruction leaves of its stand, if it is one that R23 lets issue speculatively and it raises no trap and does not wait (R24). -/
def State.aheadPlain (s : State) (key idx : Nat) (i : Instr) : Option Stand :=
  match exec i s with
  | .next t => if onlyMoves (s.stand key) (t.stand key) idx then some (t.stand key) else none
  | _ => none

/-- A BRA declared uniform: one whose predicate is pending goes the predicted way, taken when its target lies backward (R22). -/
def State.aheadBra (s : State) (key idx : Nat) (i : Instr) (tgt : BitVec 16) : Option Stand :=
  let e := s.env i
  let t := offPc e.pc tgt.toInt
  if !s.operandPending e then s.aheadPlain key idx i
  else if pcOk t && decide (t ≠ (e.pc.toNat : Int)) then
    some ((s.stand key).modPath idx fun p => { p with pc := if t < (e.pc.toNat : Int) then BitVec.ofInt 17 t else p.pc + 2 })
  else none

/-- A memory instruction whose translation the core's TLB does not hold goes ahead of what follows it, and is pending (R22): in that state its
operation is outstanding. The walk is not done: later accesses do not find its translation. -/
def State.aheadMiss (s : State) (key idx : Nat) (i : Instr) : Option State :=
  let k := coreOf key
  match i with
  | .ld .. | .sld .. | .st .. | .sst .. => match exec i s with
    | .next t =>
      if onlyMoves (s.stand key) (t.stand key) idx && ((t.stand key).path idx).pc == ((s.stand key).path idx).pc + BitVec.ofNat 17 i.words
          && decide ((t.core k).tlb ≠ (s.core k).tlb) then
        some ((t.modCore k fun c => { c with tlb := (s.core k).tlb }).setCopse (copseOfCore k) { t.copse (copseOfCore k) with tlb := (s.copse (copseOfCore k)).tlb })
      else none
    | _ => none
  | _ => none

/-- One instruction that was issued ahead, again, on the registers as they are now. -/
def State.aheadAgain (s : State) (key idx : Nat) (b : Beyond) : Option State :=
  let st := s.stand key
  match (s.fetch key (st.path idx).pc).2, b.op.bind (SMap.get? s.outs) with
  | .ok i, some o => (s.seenStand o st).map fun u => s.setStand key (u.modPath idx fun p => { p with pc := p.pc + BitVec.ofNat 17 i.words })
  | .ok i, none => match i with
    | .bra _ _ _ tgt _ => (s.aheadBra key idx i tgt).map (s.setStand key)
    | i => if registersOnly i then (s.aheadPlain key idx i).map (s.setStand key) else s.aheadMiss key idx i
  | _, _ => none

/-- The state in which the stand has gone through what its path issued ahead. -/
def State.ghost (s : State) (key idx : Nat) : List Beyond → Option State
  | [] => some s
  | b :: bs =>
    if ((s.stand key).path idx).pc ≠ b.pc then none
    else (s.aheadAgain key idx b).bind fun t => t.ghost key idx bs

/-- Note one more instruction issued ahead, and where the path goes on. -/
def Ahead.push (a : Ahead) (pc next : BitVec 17) (op : Option Nat) : Ahead := { a with past := a.past ++ [⟨pc, op⟩], next := next }

/-- The vacate check of a load that issues ahead, in the ghost `g`: in either mode of `vxstat.TRAP` one that does not fit stalls (R154). -/
def aheadAns (g : State) (key idx : Nat) : ChargeAns :=
  let h := (g.modStand key fun st => { st with vxTrap := false }).modSlot (coreOf key) (g.stand key).ctx (unspec key idx)
  chargeAns h key idx Cls.replay Config.chargeReplay 0

/-- The load that issues ahead in the ghost `g`, apart from its vacate check: its operation there, and the state and the stand after it; none where it
parks, traps or waits for something else (R23, R24). -/
def State.aheadOp (g : State) (key idx : Nat) (i : Instr) : Option (Out × State × Stand) :=
  let wide := g.modCtx (g.stand key).ctx fun c => { c with cbound := c.cbound ||| 0xFFFF }
  match exec i wide with
  | .next t => match SMap.get? t.outs g.nextId with
    | some o =>
      let u := t.stand key
      if onlyMoves (g.stand key) u idx && (u.path idx).pc == ((g.stand key).path idx).pc + BitVec.ofNat 17 i.words && modeOrd u.mode == 0 then
        some (o, t, u)
      else none
    | none => none
  | _ => none

/-- A relaxed load issues ahead, in the state `g` in which its stand has gone through what came before: it is charged and counted as any other. One whose
charge does not fit stalls, once; a trap of its check waits until it is no longer speculative (R23, R24, R154). -/
def State.aheadLoad (s g : State) (key idx : Nat) (a : Ahead) (i : Instr) : Option State :=
  let k := coreOf key
  let cp := copseOfCore k
  match g.aheadOp key idx i with
  | none => none
  | some (o, t, u) =>
    let stalls := s.modStand key fun st => { st with stalled := true }
    match aheadAns g key idx with
    | .ok drawn =>
      let op := s.nextId
      let tlbs := (s.modCore k fun c => { c with tlb := (t.core k).tlb }).setCopse cp { s.copse cp with tlb := (t.copse cp).tlb }
      let s1 := (tlbs.takeCharge key (specPath idx) Config.chargeReplay 0 drawn).issue { o with drawn := drawn, spec := true, seen := t.seenBytes g.nextId o }
      some { s1 with ahead := SMap.insert s1.ahead (aheadKey key idx) (a.push ((g.stand key).path idx).pc (u.path idx).pc (some op)) }
    | .stall =>
      let s1 := stalls.modSlot k (s.stand key).ctx (enstall key (specPath idx) (Config.chargeReplay - min (g.stand key).avail Config.chargeReplay))
      if s1 = s then none else some { s1 with ahead := SMap.insert s1.ahead (aheadKey key idx) a }
    | .exceed _ _ => if stalls = s then none else some stalls

/-- What a path has issued ahead so far. -/
def State.aheadOf (s : State) (key idx : Nat) : Ahead :=
  let st := s.stand key
  (SMap.get? s.ahead (aheadKey key idx)).getD { uid := st.uid, past := [], next := (st.path idx).pc }

/-- The state in which a path that waits is as if it did not. -/
def State.asReady (s : State) (key idx : Nat) : State :=
  { s with cur := ⟨key, idx, false⟩ }.setStand key ((s.stand key).modPath idx fun p => { p with wait := none })

/-- A path that waits at a BRA declared uniform for its predicate issues one instruction more, at most 16 of them past the branch (R22). The first step
takes note of the branch itself. -/
def State.lookPast (s : State) (key idx : Nat) : Option State :=
  let a := s.aheadOf key idx
  if a.squash || decide (Config.aheadMost < a.past.length) then none
  else match (s.asReady key idx).ghost key idx a.past with
    | none => none
    | some g =>
      let pc := ((g.stand key).path idx).pc
      let note := fun (u : Stand) => { s with ahead := SMap.insert s.ahead (aheadKey key idx) (a.push pc (u.path idx).pc none) }
      match (g.fetch key pc).2 with
      | .ok i => match i with
        | .bra _ _ _ tgt jn =>
          if jn ≠ 0 || (a.past.isEmpty && !g.operandPending (g.env i)) then none else (g.aheadBra key idx i tgt).map note
        | .ld .. | .sld .. => if a.past.isEmpty then none else s.aheadLoad g key idx a i
        | i => if a.past.isEmpty || !registersOnly i then none else (g.aheadPlain key idx i).map note
      | _ => none

/-- From the ghost `g`, past at most `n` instructions that leave nothing, the next load that can issue ahead does. One whose own translation is not held does
not (log entry 41). -/
def State.seekLoad (s : State) (key idx : Nat) : Nat → State → Ahead → Option State
  | 0, _, _ => none
  | n + 1, g, a =>
    let pc := ((g.stand key).path idx).pc
    let on := fun (u : Stand) => s.seekLoad key idx n (g.setStand key u) (a.push pc (u.path idx).pc none)
    match (g.fetch key pc).2 with
    | .ok i => match i with
      | .bra _ _ _ tgt jn => if jn ≠ 0 then none else (g.aheadBra key idx i tgt).bind on
      | .ld .. | .sld .. => if (g.aheadMiss key idx i).isSome then none else s.aheadLoad g key idx a i
      | i => if registersOnly i then (g.aheadPlain key idx i).bind on else none
    | _ => none

/-- A path is ready at a memory instruction whose translation is pending: the next load that can issue ahead of it does, at most 16 instructions past it
(R22). -/
def State.lookOver (s : State) (key idx : Nat) : Option State :=
  let a := s.aheadOf key idx
  let pc := ((s.stand key).path idx).pc
  if a.squash || decide (Config.aheadMost < a.past.length) then none
  else match s.asReady key idx |>.fetch key pc with
    | (s1, .ok i) => match s1.aheadMiss key idx i with
      | none => none
      | some g => match a.past with
        | [] => s.seekLoad key idx Config.aheadMost g (a.push pc ((g.stand key).path idx).pc none)
        | b :: bs => if b.pc = pc then (g.ghost key idx bs).bind fun g1 => s.seekLoad key idx (Config.aheadMost - bs.length) g1 a else none
    | _ => none

/-- Whether a path may issue ahead: that of a stand with one path, outside deterministic mode (R22, R61; log entry 41). -/
def State.mayLook (s : State) (key : Nat) (st : Stand) (i : Nat) : Bool :=
  let p := st.path i
  s.ctxRuns key st && !(s.core (coreOf key)).det && st.replays.isEmpty && !st.restart && !s.loadsImage st.uid && p.state.runs && !p.held && !p.single
    && p.parked.isNone && p.part.isNone && !st.heldByTrap i && st.alone i

/-- The next issue ahead of a branch or of a memory instruction, if there is one, and its quarter: past a branch on a quarter without a ready path, past a
memory instruction where that would issue next (R22; log entry 41). -/
def State.aheadMove (s : State) : Option (Nat × State) :=
  let quarterOf := fun (key : Nat) => Cand.quarter ⟨key, 0, false, 0⟩
  match s.stands.findSome? fun kv =>
    if kv.2.paths.any (fun p => p.2.wait == some .operand) && !(s.readyPaths.any fun c => c.quarter == quarterOf kv.1) then
      (pathIdx.findSome? fun i => if (kv.2.path i).wait == some .operand && s.mayLook kv.1 kv.2 i then s.lookPast kv.1 i else none).map (quarterOf kv.1, ·)
    else none with
  | some x => some x
  | none => s.pickPath.bind fun c => if !c.replay && s.mayLook c.key (s.stand c.key) c.idx then (s.lookOver c.key c.idx).map (c.quarter, ·) else none

/-! ### When the event resolves -/

/-- What a path issued ahead follows it: an instruction that it has issued is no longer ahead, and where it went another way the rest is to be
squashed, before the path issues again (R24); also where an instruction parks, and so does not commit. -/
def State.settleAhead (s : State) : State :=
  s.ahead.foldl (fun u kv =>
    let (key, idx, a) := (kv.1 / 8, kv.1 % 8, kv.2)
    let drop := { u.unstallSpec key idx with ahead := SMap.erase u.ahead kv.1 }
    let p := (u.stand key).path idx
    if (u.stand key).uid ≠ a.uid then drop
    else if a.squash then (if (u.specOps a.uid idx).isEmpty then drop else u)
    else match a.past with
      | [] => drop
      | b :: rest =>
        if p.state.runs && p.parked.isNone && p.pc == b.pc then u
        else if p.state.runs && p.pc == (rest.head?.map (·.pc)).getD a.next then
          let u1 := match b.op.bind fun op => (SMap.get? u.outs op).map fun o => (op, o) with
            | some x => u.squashOp x.1 x.2
            | none => u
          if rest.isEmpty then { u1.modSlot (coreOf key) (u1.stand key).ctx (unspec key idx) with ahead := SMap.erase u1.ahead kv.1 }
          else { u1 with ahead := SMap.insert u1.ahead kv.1 { a with past := rest } }
        else if (u.specOps a.uid idx).isEmpty then drop
        else { u with ahead := SMap.insert u.ahead kv.1 { a with squash := true } }) s

/-- A path comes to an instruction that it has issued ahead: a load's operation is taken back, to issue anew with what it had found, ahead of the charges
that have stalled since: it holds its own already (R22, R152). These are what it answers. -/
def State.claim (s : State) (c : Cand) (pc : BitVec 17) : State × Option (SMap Byte × List Stall) :=
  if c.replay then (s, none)
  else match SMap.get? s.ahead (aheadKey c.key c.idx) with
    | some a => match a.past with
      | b :: rest => match b.op.bind fun op => (SMap.get? s.outs op).map fun o => (op, o) with
        | some x =>
          if b.pc = pc then
            let ctx := (s.stand c.key).ctx
            let t := (s.squashOp x.1 x.2).modSlot (coreOf c.key) ctx fun y => { y with stalled := [] }
            ({ t with ahead := SMap.insert t.ahead (aheadKey c.key c.idx) { a with past := ⟨b.pc, none⟩ :: rest } },
              some (x.2.seen, (s.ctxSlot (coreOf c.key) ctx).stalled))
          else (s, none)
        | none => (s, none)
      | [] => (s, none)
    | none => (s, none)

/-- The operation that a claimed load has issued anew keeps what it found, and the stalled charges their order. -/
def keepSeen (op key ctx : Nat) (seen : SMap Byte) (stalled : List Stall) : Out? → Out?
  | .next t =>
    let t1 := t.modSlot (coreOf key) ctx fun y => { y with stalled := stalled }
    .next (if seen.isEmpty then t1 else match SMap.get? t1.outs op with
      | some o => t1.setOut op { o with seen := seen }
      | none => t1)
  | o => o

end Sys2Proof.Machine
end

