-- ==== Sys2Proof/Machine/Place.lean ====
section
/-! DEFINITION. A smallest machine state in which a given instruction is the next one to issue: one context, launch, grove and
stand on core 0, and one page that maps its code. It stands for the boot, the admission and the launch through which a
program comes to run (log entry 5). -/

namespace Sys2Proof.Machine

namespace Place

/-- Addresses of the translation tables and of the kernel header, virtual and physical alike. -/
abbrev root : Nat := 0x100000
abbrev header : Nat := 0x200000
/-- PC of the first instruction after a header (R76). -/
abbrev entry : Nat := 16

/-- A kernel that declares every register there is, and a handler for every cause. -/
def kernel : Kernel :=
  { addr := dw header, vregs := 127, sregs := 63, nacc := 16, nslot := 16, nhand := 16, nres := 16, grovemax := 1, scratch := 16384,
    trapoff := 64, trapen := 0x000FFFFE, entries := [entry] }

/-- The context: on die 0, with the widest contract (R140, R286). -/
def ctx : Ctx :=
  { state := .admitted, cbound := dw (65535 + field 2048 16), cplace := dw (1 + field 96 8), croot := dw root,
    csave := [(0, dw 0x40000000)], clocb := [(0, dw 0x80000000)], cstride := dw (0x1000000 + field 0x100000 32), clocal := dw 256 }

end Place

/-- Write a 64-bit table entry. -/
def State.putEntry (s : State) (pa e : Nat) : State := s.putHomes pa (natLe e 8)

/-- Make `bytes` the next instruction: context 1 runs launch 1 on core 0 with one stand at PC 16. -/
def State.place (s : State) (bytes : List Byte) : State :=
  let s1 := (((s.putEntry Place.root (Place.root + 0x1001)).putEntry (Place.root + 0x1000) (Place.root + 0x2001)).putEntry (Place.root + 0x2000)
    (2 + 8 + 16 + 32)).putHomes (Place.header + 4 * Place.entry) bytes
  let uid := s.nextId
  let st : Stand := { uid := uid, ctx := 1, grove := 1, standid := 0, gang := dw (field 1 48),
                      tvec := dw (Place.header + 4 * 64),
                      paths := [(0, { Path.start 0 (BitVec.ofNat 17 Place.entry) (~~~0) 0 with fresh := false })] }
  { s1 with
    power := .on, agenda := [], nextId := uid + 1,
    ctxs := SMap.insert s1.ctxs 1 Place.ctx,
    launches := SMap.insert s1.launches 1 { ctx := 1, kernel := Place.kernel, left := 1 },
    groves := SMap.insert s1.groves 1 { launch := 1, core := 0, units := 1, size := 1 },
    stands := [(0, st)],
    cores := SMap.insert s1.cores 0 { Core.init 0 with slot0 := { ctx := some 1 } },
    copses := SMap.insert s1.copses 0 {},
    dies := SMap.modify s1.dies 0 fun d => { d with cyc := if d.cyc % 64 = 63 then d.cyc + 1 else d.cyc },
    poison := (s1.setPoison (Place.header + 64) false).poison }

end Sys2Proof.Machine
end

