-- ==== Sys2Proof/Machine/Run.lean ====
section
/-! DEFINITION. One issue from end to end: a late GROUPLINE, the breakpoint, the fetch, the instruction's meaning, what the scheduler and
the trace do after it (R19, R208, R272–R275); and which internal event comes next (log entry 2). -/

namespace Sys2Proof.Machine

/-! ### The trace of an issue (R274, R275) -/

/-- What a flow instruction did to its path, if it is one: the kind, the second path, and the PC (log entry 35). -/
def flowOf (i : Instr) (before after : Stand) (idx : Nat) : Option (Nat × Nat × Nat) :=
  let b := before.path idx
  let a := after.path idx
  let made := pathIdx.find? fun j => (before.path j).state == .free && (after.path j).state.runs
  let pc := fun (j : Nat) => (after.path j).pc.toNat
  match i with
  | .bra .. | .brx .. =>
    if a.state == b.state && a.mask == b.mask then
      some (if a.pc = b.pc + BitVec.ofNat 17 i.words then (1, idx, pc idx) else (0, idx, pc idx))
    else some (2, made.getD idx, pc (made.getD idx))
  | .call .. | .ret .. => some (0, idx, pc idx)
  | .join _ =>
    let r := b.parent.toNat
    if (before.path r).state == .record && (after.path r).state.runs then some (3, r, pc r)
    else if b.state == .serialj && a.mask != b.mask then some (3, idx, pc idx)
    else none
  | .exit _ => some (4, idx, b.pc.toNat)
  | _ => none

/-- The FLOW record of an issue. -/
def State.traceFlow (s : State) (key idx : Nat) (i : Instr) (before : Stand) : State :=
  match SMap.get? s.stands key with
  | none => s
  | some after => match flowOf i before after idx with
    | none => s
    | some (kind, second, pc) => s.traceRec key idx Tr.flow (natLe kind 1 ++ natLe second 1 ++ natLe pc 4)

/-- Codes of the reasons of a stall; what waits for a slot, a home or a publication waits for a counter's operation (R274). -/
def Wait.code : Wait → Nat
  | .operand => 1
  | .vacate => 2
  | .baton => 3
  | .counter | .slot | .home | .publication => 4
  | .group => 5

/-- The counter that an instruction raises (R48, R50). -/
def counterOf : Instr → Ctr
  | .ld .. | .sld .. | .tagget .. | .xchg .. | .cbld .. | .ptld .. => .loads
  | .aadd _ d _ _ | .amin _ d _ _ | .amax _ d _ _ | .aand _ d _ _ | .aor _ d _ _ | .axor _ d _ _ | .axch _ d _ _ | .acas _ d _ _ =>
    if d = 127 then .stores else .loads
  | .st .. | .sst .. | .tagset .. | .discard .. | .ptst .. => .stores
  | .cpin .. | .cpout .. | .old .. => .copies
  | .tacc .. | .ast .. | .ald .. | .mma .. => .tiles
  | .gcrt .. | .gjoin .. | .gleave .. | .gbar .. | .gvote .. | .gred .. | .ginfo .. | .gdel .. | .qenq .. | .qdeq .. | .qsteal .. | .tdone ..
  | .tfull .. | .tempty .. | .tstat .. | .chapp .. | .chadv .. | .chseq .. => .detached
  | _ => .none

/-- Whether a WAIT waits for an operation of its stand: for a counter above its threshold, or for a token. -/
def waitsOn (st : Stand) (lit : Word) (o : Out) : Bool :=
  (match o.ctr with
  | .loads => decide (lit.toNat % 64 < st.loads)
  | .stores => decide (lit.toNat / 64 % 64 < st.stores)
  | .copies => decide (lit.toNat / 4096 % 64 < st.copies)
  | .tiles => decide (lit.toNat / 262144 % 64 < st.tiles)
  | _ => false) || (match copyToken o.ins with
  | some k => (BitVec.ofNat 8 (lit.toNat / 2 ^ 24)).getLsbD k
  | none => false)

/-- Whether a copy's range holds back an access of a grove's scratchpad, one that reads or one that writes (R166). -/
def Out.rangeOf (o : Out) (grove : Nat) (reads : Bool) : Bool :=
  match o.work with
  | .copy _ _ (some (g, _, _)) out => g == grove && !(reads && out)
  | _ => false

/-- The oldest operation that holds the counter or the token for which an instruction waits: those of a full counter; for a release, or after a TAGSET, an
earlier access; else the copy in whose range it is (R166, R172, R274). -/
def State.holder (s : State) (e : Env) : Option Out :=
  let first := fun (f : Out → Bool) => ((s.outsOf e.st.uid).find? fun kv => f kv.2).map (·.2)
  let access := first fun o => o.ctr == .loads || o.ctr == .stores
  match e.ins with
  | .wait _ lit => first (waitsOn e.st lit)
  | .phase .. => access
  | i =>
    let c := counterOf i
    if c != .none && e.full s c then first (·.ctr == c)
    else
      let reads := c == .loads || c == .copies
      match if s.tagsHeld e.st.uid || (modeRel e.st.mode && !s.accessesDone e.st.uid) then access else none with
      | some o => some o
      | none => match (s.outs.find? fun kv => kv.2.rangeOf e.st.grove reads).map (·.2) with
        | some o => some o
        | none => first (·.ctr != .none)

/-- The operation that a stalled path blames: the producer of the first pending operand, the oldest that holds the token or the counter, or
the group operation (R274). -/
def State.blamed (s : State) (e : Env) (w : Wait) : Option Out :=
  let outs := s.outsOf e.st.uid
  let first := fun (f : Out → Bool) => (outs.find? fun kv => f kv.2).map (·.2)
  match w with
  | .operand =>
    let regs := e.sources.map (true, ·) ++ (roles e.ins).dsts.map (false, ·)
    regs.findSome? fun x => first fun o => o.pendingDsts.any fun q => meets e x.1 x.2 q o.lanes
  | .counter | .slot | .home | .publication => s.holder e
  | .group => first fun o => (groupRegOf o.ins).isSome
  | _ => none

/-- Why a path stalls, as a code, and the PC that it blames: for one that waits, by the instruction at its PC (R274). -/
def State.stallOf (s : State) (key idx : Nat) : Nat × Nat :=
  let st := s.stand key
  let p := st.path idx
  let none_ := 0xFFFFFFFF
  if p.held || st.heldByTrap idx then (8, none_)
  else if p.parked.isSome then (7, p.pc.toNat)
  else match p.wait with
    | some w => (w.code, match (s.fetch key p.pc).2 with
        | .ok i => ((s.blamed ({ s with cur := ⟨key, idx, false⟩ }.env i) w).map (·.pc.toNat)).getD none_
        | _ => none_)
    | none => ((if (SMap.get {} (s.core (coreOf key)).quarters (idxOf key % 4)).greedy = some (key, idx) then 0 else 6), none_)

/-- The SAMPLE record of a path (R274, R275). -/
def State.traceSample (s : State) (key idx : Nat) : State :=
  let st := s.stand key
  let p := st.path idx
  let (code, blame) := s.stallOf key idx
  s.traceRec key idx Tr.sample
    (natLe (s.cycOf (coreOf key) / 65536) 6 ++ natLe st.ctx 4 ++ natLe (s.gsi key) 2 ++ natLe idx 1 ++ natLe code 1 ++ natLe p.pc.toNat 4
      ++ natLe blame 4 ++ natLe p.mask.toNat 4 ++ natLe (st.em idx).toNat 4)

/-- When a path cannot issue, every running path of its stand is sampled (log entry 35). -/
def State.traceStall (s : State) (key : Nat) : State :=
  if (s.core (coreOf key)).trace.on then
    (pathIdx.filter fun i => ((s.stand key).path i).state.runs).foldl (fun u i => u.traceSample key i) s
  else s

/-! ### One issue -/

/-- What follows every step: charges of RFLUSHes that are due are released (R197, R293), stands that restart their region resume (R265), caches
keep to their capacity (R1), and what was issued ahead follows its path (R24). -/
def State.settleStep (s : State) : State := s.releaseFlushes.settleRestarts.trimCaches.settleAhead

/-- The instruction's meaning. A load that was issued ahead is speculative no longer: its charge is taken anew, and it keeps what it found (R22, R24). -/
def State.perform (s : State) (c : Cand) (pc : BitVec 17) (i : Instr) : Out? :=
  match s.claim c pc with
  | (s1, none) => exec i s1
  | (s1, some (seen, stalled)) => keepSeen s1.nextId c.key (s.stand c.key).ctx seen stalled (exec i s1)

/-- A store of the path that met a live line, once its instruction has completed in every lane: the operation, address and lanes (R208). -/
def State.lateLine (s : State) (c : Cand) : Option (Nat × DWord × Mask) :=
  let p := (s.stand c.key).path c.idx
  if c.replay || (p.part.map (·.exact)).getD false then none else p.glines.find? fun x => (SMap.get? s.outs x.1).isNone

/-- Where a path, or the replay record, stands. -/
def State.pcOf (s : State) (c : Cand) : BitVec 17 :=
  let st := s.stand c.key
  if c.replay then (st.replays.headD { pc := 0, path := 0, lanes := 0 }).pc else (st.path c.idx).pc

/-- What a path would wait for if it issued now; none where it is ready (R20). -/
def State.wouldWait (s : State) (c : Cand) : Option Wait :=
  let s0 := { s with cur := ⟨c.key, c.idx, c.replay⟩ }
  if (s.lateLine c).isSome then none
  else match s0.fetch c.key (s.pcOf c) with
    | (s1, .ok i) => match s1.perform c (s.pcOf c) i with
      | .next t => (t.whyNot c).join
      | _ => none
    | _ => none

/-- Whether a core may switch between two contexts by itself (R21). -/
def Core.mayTurn (c : Core) : Bool := c.slot0.ctx.isSome && c.slot1.ctx.isSome && (c.slice != 0 || c.idleSw)

/-- What has become ready: the age of a path that never was counts from now (R19); and which stands would issue nothing, on a core that may switch (R21). -/
def State.probe (s : State) : State :=
  { s with stands := s.stands.map fun kv =>
      let (key, st) := kv
      let turns := (s.core (coreOf key)).mayTurn
      let runs := s.ctxRuns key st
      let new := fun (c : Cand) => runs && !c.replay && (st.path c.idx).fresh
      let ok := ((Stand.ready key st).filter fun c => (turns || new c) && (c.replay || !s.trapComing c)).filter fun c => (s.wouldWait c).isNone
      let st1 := { st with blocked := turns && ok.isEmpty }
      (key, (ok.filter new).foldl (fun u c => u.modPath c.idx fun p => { p with fresh := false, age := s.cycOf (coreOf key) }) st1) }

/-- Something has happened: what waited may be ready (R19–R21). -/
def State.rouse (s : State) : State := s.wake.probe

/-- After an instruction's meaning: the scheduler (R19), the single step (R273), the trace, and, if it has issued, every path may be ready
again (R20). -/
def State.finishIssue (s0 : State) (c : Cand) (i : Option Instr) : Out? → Out?
  | .next t =>
    let issued := (t.whyNot c).isNone
    let t1 := (t.settleAge c issued).afterIssue c issued (match i with
      | some i => yieldsAfter i
      | none => false)
    if !issued then .next (if c.replay then t1 else t1.traceStall c.key).settleStep
    else
      let before := s0.stand c.key
      let t2 := if (before.path c.idx).single then t1.modStand? c.key fun st => before.endSingle st c.idx else t1
      let t3 := match i with
        | some i => t2.traceFlow c.key c.idx i before
        | none => t2
      .next (t3.modCore (coreOf c.key) fun x => { x with idleFrom := t3.cycOf (coreOf c.key) }).settleStep.rouse
  | o => o

/-- The path, or the replay record, parks because its word, or its literal, has no translation (R378, R379). -/
def State.parkFetch (s : State) (c : Cand) (va : DWord) : Out? :=
  let e := s.env (.illegal 0)
  .next ((s.modStand c.key fun st =>
    if c.replay then st.modRecord fun r => { r with parked := some (va, true) }
    else st.modPath c.idx fun p => { p with parked := some { lanes := e.act, first := e.first, va := va, fetch := true } }).tell (.pageFault e.st.ctx (s.gsi c.key) va))

/-- GROUPLINE at the path's next issue (R208). -/
def State.raiseLine (s : State) (c : Cand) (x : Nat × DWord × Mask) : State :=
  let s1 := s.modStand c.key fun st => st.modPath c.idx fun p => { p with glines := p.glines.erase x }
  s1.takeTrap c.key c.idx ((s.stand c.key).path c.idx).pc false { cause := Cause.groupline, tval := x.2.1, tmask := x.2.2, imprec := true }

/-- A word that is no instruction: ILLEGAL, with the lanes that the word's own traps name (R58, R367). -/
def State.badWord (s : State) (tval : DWord) : Out? :=
  let e := s.env (.illegal 0)
  let op := (Raw.ofWord (lo32 tval)).op
  e.trapFor s Cause.illegal tval (if op = 0x47 ∨ op = 0x48 then e.em else e.em &&& e.g)


/-- Whether a quarter's greedy path has had its turn (R19). -/
def State.greedyDone (s : State) (c : Cand) : Bool :=
  let q := s.quarter c.quarter
  !(s.core (coreOf c.key)).det && decide (Config.greedyRun ≤ q.run) && q.greedy == some (c.key, c.idx)

/-- One path issues. -/
def State.issueNext (s : State) (c : Cand) : Out? :=
  let st := s.stand c.key
  let pc := s.pcOf c
  if s.greedyDone c then exec (.greedyRunLimit (coreOf c.key) (c.quarter % 4)) s
  else
    let s0 := s.beginIssue c
    match s0.lateLine c with
    | some x => s0.finishIssue c none (.next (s0.raiseLine c x))
    | none =>
      if s0.atBreakpoint c pc then exec (.breakpointHit c.key c.idx) s0
      else
        let s1 := if (st.path c.idx).pass then s0.modStand c.key fun t => t.modPath c.idx fun p => { p with pass := false } else s0
        match s1.fetch c.key pc with
        | (s2, .ok i) => s1.finishIssue c (some i) (s2.perform c pc i)
        | (s2, .bad tval) => s1.finishIssue c none (s2.badWord tval)
        | (s2, .fault va) => s1.finishIssue c none (s2.parkFetch c va)
        | (s2, .trap cause va) => s1.finishIssue c none ((s2.env (.illegal 0)).trapFor s2 cause va (s2.env (.illegal 0)).em)

/-! ### Events -/

/-- Whether a Pelfold that has not booted takes an event: the boot itself, and in recovery the SPDM request (R291). -/
def Power.takes : Power → Instr → Bool
  | .on, _ => true
  | .reset, .boot => true
  | .recovery, .spdmMeasurementsRequest => true
  | _, _ => false

/-- The next step of the agenda: an event from outside, or the unit that moves next. An encoded instruction comes from memory
alone. -/
def State.takeEvent (s : State) (i : Instr) (rest : List Instr) : Out? :=
  if i.isEncoded || !s.power.takes i then .next { s with agenda := rest }
  else match exec i { s with agenda := rest } with
    | .next t => .next t.settleStep.rouse
    | o => o

/-- The events that an outstanding operation may still bring. -/
def opEvents (op : Nat) (o : Out) : List Instr :=
  let reply : List Instr := if o.redirect.isSome then [.replySlotWrite o.ctx op] else []
  match o.work with
  | .load .. | .sload _ | .tagget _ | .pref | .ptld _ => [.loadDataReturn op]
  | .store .. | .discard .. => [.storePerformed op]
  | .atomic ws .. => .storePerformed op :: (upFrom 0 ws.length).map (fun k => .atomicAtHome op k) ++ [.atomicReply op] ++ reply
  | .cbld .. => [.cbldTableWrite op]
  | .copy .. => [.copyComplete op]
  | .old .. => [.oldFillComplete op]
  | .ald _ => [.aldComplete op]
  | .mma .. => [.mmaArrayStart op, .mmaFinish op]
  | .tile t => [.tileHeaderAtHome op, .tileGrant op, .tileRefused op, .flushRequestAtHome op, .tileApply t.home op, .astPerformed op]
  | .rflush _ => []
  | .det .. =>
    [.groupOpAtController op, .queueOpAtController op, .remoteQenqMessage op, .counterDecrementAtHome op, .bufferBitAtHome op, .groupReply op] ++ reply

/-- The dies. -/
def allDies : List Nat := upFrom 0 Config.dies

/-- The homes of this Pelfold for which some copse offers a request: their tokens go round (R277). -/
def State.tokensAsked (s : State) : List Nat :=
  (s.outs.flatMap fun kv =>
    if s.limited (dieOfCore (coreOf kv.2.st)) kv.2.ctx then [] else
    ((s.asks kv.1 kv.2).filter fun x => x.1 / 128 == s.devid && !(s.home x.1).holds kv.1 x.2 && s.mayAsk kv.1 kv.2 x.2).map (·.1 % 128)).eraseDups

/-- The operations that send to another Pelfold, each in the next place of its core's sequence (R178). -/
def State.sending (s : State) : List Instr :=
  (s.outs.filter fun kv => s.links kv.2.remote && !s.limited (dieOfCore (coreOf kv.2.st)) kv.2.ctx && !(s.sends kv.1 kv.2).isEmpty).map fun kv =>
    let k := coreOf kv.2.st
    .packetArrival k (SMap.get 0 s.fab.next k) kv.1

/-- The events of the units of the Pelfold, timers and steals apart. An entry of an I/O chain that needs no answer of a device is
completed here; an answer comes with its event, from outside. -/
def State.unitEvents (s : State) : List Instr :=
  s.outs.flatMap (fun kv => opEvents kv.1 kv.2) ++ s.tokensAsked.map (fun h => .tokenTapVisit h) ++ s.sending ++ s.pubs.map (fun p => .publicationComplete p.id) ++ s.enqs.map (fun e => .remoteQenqMessage e.id)
    ++ (SMap.keys s.cores).map (fun k => .tileOffer k) ++ (SMap.keys s.stands).map (fun k => .standRetire k)
    ++ (SMap.keys s.launches).map (fun l => .completionCounterDecrement l) ++ (SMap.keys s.ctxs).map (fun c => .vacateComplete c)
    ++ (SMap.keys s.chains).map (fun k => .ioEntryStart k) ++ (SMap.keys s.cores).flatMap (fun k => [.contextSwitchIdle k, .contextSwitchTimeslice k])
    ++ (s.ahead.filter fun kv => kv.2.squash).map (fun kv => .speculationSquash (kv.1 / 8) (kv.1 % 8))
    ++ s.chains.flatMap (fun kv => (kv.2.flight.filter fun x => !s.needsDevice kv.2.ctx x).map fun x => .ioEntryComplete kv.1 x.n (.done []))
    ++ (allDies.filter fun d => (s.restoreOne d false).isSome).map (fun d => .restoreGrovePlacement d)
    ++ allDies.flatMap fun d => [.grovePlacement d, .colevelLaunchPlacement d, .gredCellsFree d, .tlbInvalidationComplete d]

/-- Steals that bring a grove to a core, and what comes with time alone. -/
def State.timedEvents (s : State) : List Instr :=
  (allDies.filter fun d => ((evStealMessage d s).bind (evGrovePlacement d)).isSome).map (fun d => .stealMessage d)
    ++ s.enqs.map (fun e => .successorEnqueueRetry e.id)
    ++ (SMap.keys s.cores).map (fun k => .tileReofferTimer k)
    ++ s.stands.flatMap (fun kv => (SMap.keys kv.2.residuals).map fun n => .residualRetryTimer kv.1 n)
    ++ (SMap.keys s.cores).map (fun k => .combineEntryTimeout k 0)
    ++ allDies.flatMap fun d => (s.die d).limiters.filterMap fun l => if s.limited d l.1 then some (.limiterRefill d l.1) else none

/-- Whether an event is due and changes something. -/
def State.changes (s : State) (i : Instr) : Bool :=
  match exec i s with
  | .next t => decide (t ≠ s)
  | _ => true

/-- The internal event that comes next: of those due, the first from a place that moves with the operations issued, so that none is left out
for ever; timers only when nothing else is due (log entry 2). -/
def State.dueEvent (s : State) : Option Instr :=
  let l := s.unitEvents
  let k := s.nextId % (l.length + 1)
  match (l.drop k ++ l.take k).find? s.changes with
  | some i => some i
  | none => s.timedEvents.find? s.changes

/-- What moves next. -/
inductive Move where
  | event (i : Instr)
  | issue (c : Cand)
  /-- A path of a quarter issues speculatively, and leaves this state. -/
  | ahead (q : Nat) (t : State)
  | idle

/-- Every 64 cycles, when the next issue would begin a cycle, the events that are due come before it (log entry 2; R152, R294). -/
def State.eventTurn (s : State) (c : Cand) : Bool := s.cycOf (coreOf c.key) % 64 == 63 && decide (c.quarter ≤ s.turn)

/-- An event that leaves the clock where it is: one may come before the issue of a path that stays ready (R293). -/
def State.inCycle (s : State) (i : Instr) : Bool :=
  match exec i s with
  | .next t => decide (∀ d ∈ allDies, (t.die d).cyc = (s.die d).cyc)
  | _ => true

/-- A ready path issues, but when it is the events' turn (log entry 2). -/
def State.issueMove (s : State) (c : Cand) : Move :=
  if s.eventTurn c then
    match s.dueEvent.filter s.inCycle with
    | some i => .event i
    | none => .issue c
  else .issue c

/-- The quarters have their turns, for what can issue ahead (log entry 41) and for ready paths; without either the next event comes (log entry 2). -/
def State.nextMove (s : State) : Move :=
  match s.aheadMove, s.pickPath with
  | some (q, t), some c => if s.untilTurn c.quarter < s.untilTurn q then s.issueMove c else .ahead q t
  | some (q, t), none => .ahead q t
  | none, some c => s.issueMove c
  | none, none => match s.dueEvent with
    | some i => .event i
    | none => .idle

end Sys2Proof.Machine
end

