-- ==== Sys2Proof/Machine/Step.lean ====
section
/-! DEFINITION. One step of the Pelfold, and where an instruction must stand to be the next one. -/

namespace Sys2Proof.Machine

/-- One step: what the agenda holds, else an issue, else an event that is due, else a cycle in which nothing happens. -/
def step (s : State) : Host.Outcome State Fault Refusal :=
  match s.power with
  | .off => .fault .poweredDown
  | _ =>
    match s.agenda with
    | i :: rest => s.takeEvent i rest
    | [] =>
      match s.nextMove with
      | .event i => s.endCycle.takeEvent i []
      | .issue c => s.issueNext c
      | .ahead q t => .next (t.turnTo q).settleStep
      | .idle => .next s.tick

/-- `s` with an instruction of `nbits` bits `w`, zeros above them, where the next step fetches. -/
def State.withFetchWord (s : State) (nbits w : Nat) : State :=
  s.place (natLe (w % 2 ^ nbits) 8)

end Sys2Proof.Machine
end

