-- ==== Sys2Proof/Machine/HostRead.lean ====
section
/-! DEFINITION. What the host reads over the Vertin Link: the queue windows (R253), the die windows (R287, R288), the context descriptors
(R286) and the tenant interfaces (R285). A read changes nothing; reserved fields and WO registers read as zero (R5, R6). -/

namespace Sys2Proof.Machine

/-- The state code of CSTAT (R286). -/
def CState.code : CState → Nat
  | .free => 0 | .admitted => 1 | .vacating => 2 | .vacated => 3 | .restoring => 4 | .halted => 5

/-- The TDISP state code (R285). -/
def IfState.code : IfState → Nat
  | .unlocked => 0 | .locked => 1 | .run => 2 | .error => 3

/-- A register of queue `q`'s window (R253). -/
def State.readQueueReg (s : State) (q off : Nat) : Nat :=
  if off = 0x40 then match SMap.get? s.queues (queueKey q) with
    | some x => field (b2n x.broken) 34 + field x.recs.length 17
    | none => 0
  else if off = 0x48 then DWord.bits (SMap.get 0 s.qdrop q) 31 0
  else 0

/-- The count register of a log: its capacity, and the index of the next record (R287). -/
def Log.count (l : Log) : Nat := field (l.next % max 1 l.cap) 32 + l.cap % 65536

/-- A core's trace register (R275, R287). -/
def Trace.reg (t : Trace) (n : Nat) : Nat :=
  if n = 0 then t.base.toNat else if n = 8 then t.size.toNat else if n = 16 then b2n t.on else t.off

/-- A register of a die window (R279, R287, R288). -/
def State.readDieReg (s : State) (d off : Nat) : Nat :=
  let x := s.die d
  let core := fun (k : Nat) => s.core (d * Config.physPerDie + k)
  if off = 0 then d + field 2 4 + field (s.devid % 64) 8
  else if off = 0x08 then x.ddir
  else if off = 0x18 then x.tlbva.toNat
  else if off = 0x20 then b2n x.tlbBusy
  else if off = 0x40 then x.elog.base
  else if off = 0x48 then x.elog.count
  else if off = 0x50 then x.dlog.base
  else if off = 0x58 then x.dlog.count
  else if 0x10000 ≤ off ∧ off < 0x12000 then
    let l := SMap.get {} x.limiters ((off - 0x10000) / 8)
    field l.burst 32 + l.rate
  else if 0x20000 ≤ off ∧ off < 0x20000 + 8 * Config.physPerDie then
    let c := core ((off - 0x20000) / 8)
    field (b2n c.idleSw) 16 + c.slice
  else if 0x30000 ≤ off ∧ off < 0x30000 + 32 * Config.physPerDie then (core ((off - 0x30000) / 32)).trace.reg (off % 32)
  else if off = 0x40008 then x.obja.toNat
  else if off = 0x40010 then x.objb.toNat
  else if off = 0x40018 then x.objc.toNat
  else if off = 0x40020 then x.objres.toNat
  else 0

/-- CMREC: the 32 bytes of the latest machine-check record; zero before the first (log entry 94). -/
def Ctx.cmrecBytes (x : Ctx) : List Byte :=
  match x.cmrec with
  | some r => r.bytes
  | none => List.replicate 32 0

/-- A register of a context descriptor (R286). -/
def Ctx.readReg (x : Ctx) (off : Nat) : Nat :=
  if off = 0x08 then field x.result 8 + field (b2n x.debugger) 3 + x.state.code
  else if off = 0x10 then x.cbound.toNat
  else if off = 0x18 then x.cplace.toNat
  else if off = 0x20 then x.croot.toNat
  else if off = 0x28 then x.clocal.toNat
  else if off = 0x40 then x.cgroup.toNat
  else if off = 0x48 then x.clogsz.toNat
  else if off = 0x50 then x.clogdrop.toNat
  else if off = 0x58 then x.cwdog.toNat
  else if 0x60 ≤ off ∧ off < 0x80 then (SMap.get 0 x.csave ((off - 0x60) / 8)).toNat
  else if 0x80 ≤ off ∧ off < 0xA0 then (SMap.get 0 x.clocb ((off - 0x80) / 8)).toNat
  else if off = 0xA0 then x.cstride.toNat
  else if off = 0xA8 then x.cirq.toNat
  else if 0xC0 ≤ off ∧ off < 0xE0 then leNat ((x.cmrecBytes.drop (off - 0xC0)).take 8)
  else 0

/-- A register of a tenant interface (R285). -/
def TenantIf.readReg (x : TenantIf) (off : Nat) : Nat :=
  if off < 0x30 then (SMap.get 0 x.bars (off / 8)).toNat
  else if 0x100 ≤ off ∧ off < 0x300 then (SMap.get 0 x.queues ((off - 0x100) / 8)).toNat
  else if 0x300 ≤ off ∧ off < 0x380 then (SMap.get 0 x.ctxs ((off - 0x300) / 8)).toNat
  else if off = 0x400 then x.state.code
  else 0

/-- What a host read of the configuration space gives; none where the access is dropped (R285). -/
def State.hostRead (s : State) (addr size : Nat) : Option DWord :=
  if size ≠ 8 ∨ addr % 8 ≠ 0 ∨ s.power ≠ .on then none
  else if 0x100000000000 ≤ addr ∧ addr < 0x100001000000 then
    some (dw (s.readQueueReg ((addr - 0x100000000000) / 0x1000) (addr % 0x1000)))
  else if 0x100100000000 ≤ addr ∧ addr < 0x100104000000 then
    some (dw (s.readDieReg ((addr - 0x100100000000) / 0x1000000) (addr % 0x1000000)))
  else if 0x100200000000 ≤ addr ∧ addr < 0x100200400000 then
    some (dw ((s.ctx ((addr - 0x100200000000) / 0x1000)).readReg (addr % 0x1000)))
  else if 0x100300000000 ≤ addr ∧ addr < 0x100300040000 then
    some (dw ((s.iface ((addr - 0x100300000000) / 0x1000)).readReg (addr % 0x1000)))
  else if 0x100000000000 ≤ addr ∧ addr < 0x200000000000 then some 0
  else none

end Sys2Proof.Machine
end

