-- ==== Sys2Proof/Safety.lean ====
section
/-! DEFINITION. The terms in which statements about the machine are made: what a safe run is, what a stand's registers read as, when the
checks before every instruction let it through, and what an instruction that has committed leaves unchanged. -/

namespace Sys2Proof

/-- Memory in its canonical form. -/
def Machine.State.MemOk (s : Machine.State) : Prop := Machine.Memory.wf s.mem = true

/-- A step that goes on. -/
def SafeStep (s : Machine.State) : Prop := ∃ t, Machine.step s = .next t

/-- A run of `k` steps that goes on, and ends with memory in its canonical form. -/
def SafeRun (k : Nat) (s : Machine.State) : Prop := ∃ t, Host.Core.run core k s = .next t ∧ Machine.State.MemOk t

namespace Machine

/-! ### What registers read as (R40) -/

/-- Lane `l` of a vector register; `vz` reads 0. -/
def Stand.vreg (st : Stand) (r : VReg) (l : Nat) : Word := if r = 127 then 0 else SMap.get 0 st.vregs (32 * r.toNat + l)
/-- A scalar; `sz` reads 0. -/
def Stand.sreg (st : Stand) (r : SReg) : DWord := if r = 63 then 0 else SMap.get 0 st.sregs r.toNat
/-- A 64-bit value in a vector pair, its low half in the named register. -/
def Stand.pair (st : Stand) (r : VReg) (l : Nat) : DWord := st.vreg (r + 1) l ++ st.vreg r l
/-- A handle register. -/
def Stand.hreg (st : Stand) (r : HReg) : DWord := SMap.get 0 st.hregs r.toNat
/-- Element [i][j] of an accumulator. -/
def Stand.acc (st : Stand) (a : AReg) (i j : Nat) : Word := SMap.get 0 st.accs (1024 * a.toNat + 32 * i + j)

/-- The stand at the issue position, and its path there. -/
def State.me (s : State) : Stand := s.stand s.cur.st
def State.myPath (s : State) : Path := s.me.path s.cur.path
/-- The core of the stand at the issue position. -/
def State.myCore (s : State) : Nat := coreOf s.cur.st
/-- `em` of the path that issues (R17). -/
def State.em (s : State) : Mask := s.me.em s.cur.path
/-- A predicate as the path that issues reads it: `em` is number 16 (R17, R40). -/
def State.pred (s : State) (n : Nat) : Mask := if n = 16 then s.em else s.me.predVal n
/-- The lanes an instruction acts on when it issues: `em` ∧ G or `em`, or what is left of an instruction that has performed in part
(R44, R132, R255). -/
def State.acts (s : State) (i : Instr) : Mask := (s.env i).act

/-! ### The checks before an instruction, and what commitment does -/

/-- Nothing holds the instruction at the issue position back: the kernel declares the registers it names (R41), no failed remote
operation is due (R271), deterministic mode does not refuse it by name (R61), and no operand is pending (R20). -/
structure Passes (i : Instr) (s : State) : Prop where
  declared : declaredOk (s.env i).ker i = true
  armed : s.me.armed.find? (consumes (s.env i)) = none
  det : ((s.core s.myCore).det && detRefused i) = false
  ready : s.operandPending (s.env i) = false

/-- The PC after an instruction that goes on at the next word (R36). -/
def State.nextPc (s : State) (i : Instr) : BitVec 17 := s.myPath.pc + BitVec.ofNat 17 i.words

/-- What commitment counts: the instruction is retired, the region that it lies outside of ends, and a replay record that has issued is gone
(R221, R258, R270, R379). -/
structure Counted (s t : State) : Prop where
  cur : t.cur = s.cur
  retcnt : t.me.retcnt = if (if s.cur.replay = true then s.me.firstReplay.counts else s.me.inHandler.isNone) = true then s.me.retcnt + 1 else s.me.retcnt
  lastRet : t.me.lastRet = if s.cur.replay = true then s.me.lastRet else s.cycOf s.myCore
  region : s.cur.replay = false →
    t.me.region = s.me.region.filter fun r => decide (r.ientry ≤ s.myPath.pc.toNat ∧ s.myPath.pc.toNat < r.iend)
  replays : t.me.replays = if s.cur.replay = true then s.me.replays.drop 1 else s.me.replays

/-- The path at the issue position has committed an instruction and goes on at `pc`; for a replay record the path stays as it is (R36, R379). -/
structure Advances (s t : State) (pc : BitVec 17) : Prop where
  counted : Counted s t
  goes : s.cur.replay = false → t.myPath = { s.myPath with pc := pc, part := none, parked := none }
  stays : s.cur.replay = true → t.myPath = s.myPath
  paths : ∀ j, j ≠ s.cur.path → t.me.path j = s.me.path j

/-- Nothing has changed but the stand at the issue position; every byte of memory reads as before. -/
structure OnlyMe (s t : State) : Prop where
  world : { t with stands := s.stands } = s
  others : ∀ k, k ≠ s.cur.st → t.stand k = s.stand k
  memory : ∀ a, t.homeByte a = s.homeByte a
  seen : ∀ k a, t.coreByte k a = s.coreByte k a

/-- A stand without its vector registers, scalars, predicates, `mode`, `flags` and `dis`, and without what commitment changes. -/
def Stand.rest (st : Stand) : Stand :=
  { st with vregs := [], sregs := [], preds := [], mode := 0, flags := 0, dis := 0, paths := [], retcnt := 0, lastRet := 0, region := none,
            replays := [] }

/-- An instruction that touches vector registers, scalars, predicates, `mode` and `flags` at most has committed. -/
structure RegStep (i : Instr) (s t : State) : Prop where
  advance : Advances s t (s.nextPc i)
  frame : OnlyMe s t
  rest : t.me.rest = s.me.rest

/-- Which of these registers an instruction leaves alone. -/
structure KeepsS (s t : State) : Prop where
  sregs : t.me.sregs = s.me.sregs
structure KeepsV (s t : State) : Prop where
  vregs : t.me.vregs = s.me.vregs
structure KeepsP (s t : State) : Prop where
  preds : t.me.preds = s.me.preds
  dis : t.me.dis = s.me.dis
structure KeepsMode (s t : State) : Prop where
  mode : t.me.mode = s.me.mode
structure KeepsFlags (s t : State) : Prop where
  flags : t.me.flags = s.me.flags

/-- Nothing but the path table, and what commitment counts, has changed. -/
structure Quiet (s t : State) : Prop where
  frame : OnlyMe s t
  rest : t.me.rest = s.me.rest
  keepV : KeepsV s t
  keepS : KeepsS s t
  keepP : KeepsP s t
  keepM : KeepsMode s t
  keepF : KeepsFlags s t

/-- The path goes on at `pc`, and nothing else has changed. -/
structure Jumps (s t : State) (pc : BitVec 17) : Prop where
  advance : Advances s t pc
  quiet : Quiet s t

/-- A vector register has taken `f l` in each lane `l` that the instruction acts on, and nothing else has changed but `flags`, which has
collected `fl`; `vz` takes nothing (R40, R44, R110, R306). -/
structure WritesV (i : Instr) (s t : State) (d : VReg) (f : Nat → Word) (fl : BitVec 4) : Prop where
  step : RegStep i s t
  value : ∀ l, l < 32 → t.me.vreg d l = if d ≠ 127 ∧ (s.acts i).getLsbD l = true then f l else s.me.vreg d l
  others : ∀ r l, l < 32 → r ≠ d → t.me.vreg r l = s.me.vreg r l
  flags : t.me.flags = s.me.flags ||| fl
  keepS : KeepsS s t
  keepP : KeepsP s t
  keepM : KeepsMode s t

/-- A predicate has taken `f l` in each lane `l` of `m`: `pt` takes nothing, `em` only within MASK (R17, R40, R44). -/
structure WritesP (i : Instr) (s t : State) (n : Nat) (m : Mask) (f : Nat → Bool) : Prop where
  step : RegStep i s t
  value : n < 15 → ∀ l, l < 32 → (t.me.predVal n).getLsbD l = if m.getLsbD l = true then f l else (s.me.predVal n).getLsbD l
  others : ∀ j, j ≠ n → t.me.predVal j = s.me.predVal j
  dis : n ≠ 16 → t.me.dis = s.me.dis
  em : n = 16 → ∀ l, l < 32 → t.em.getLsbD l = (s.myPath.mask.getLsbD l && if m.getLsbD l = true then f l else s.em.getLsbD l)
  outside : n = 16 → ∀ l, l < 32 → s.myPath.mask.getLsbD l = false → t.me.dis.getLsbD l = s.me.dis.getLsbD l
  keepV : KeepsV s t
  keepS : KeepsS s t
  keepM : KeepsMode s t
  keepF : KeepsFlags s t

/-- A scalar has taken `x`; `sz` takes nothing (R40). -/
structure WritesS (i : Instr) (s t : State) (d : SReg) (x : DWord) : Prop where
  step : RegStep i s t
  value : t.me.sreg d = if d = 63 then 0 else x
  others : ∀ r, r ≠ d → t.me.sreg r = s.me.sreg r
  keepV : KeepsV s t
  keepP : KeepsP s t
  keepM : KeepsMode s t
  keepF : KeepsFlags s t

/-- The mask that a trap of the instruction at the issue position records: `em` for SLD and SST (R357, R367), every lane that is left of an
instruction that issues again (R132, R254), and `m` else. -/
def State.trapMask (s : State) (i : Instr) (m : Mask) : Mask :=
  if scalarAccess i = true then s.em else if s.cur.replay = true ∨ (s.env i).again = true then s.acts i else m

/-- The instruction at the issue position traps with a cause, a `tval` and the mask `m`: the region that it lies outside of ends, the trap is
taken for its path, and nothing of its own happens (R254–R258). -/
def Traps (i : Instr) (s : State) (cause : Nat) (tval : DWord) (m : Mask) : Prop :=
  exec i s = .next (((s.env i).leave s).takeTrap s.cur.st s.cur.path (s.env i).pc s.cur.replay
    { cause := cause, tval := tval, tmask := s.trapMask i m, part := (s.env i).partDone })

/-- The stand's registers are as they were, `flags` apart. -/
structure KeepsRegs (s t : State) : Prop where
  vregs : t.me.vregs = s.me.vregs
  sregs : t.me.sregs = s.me.sregs
  preds : t.me.preds = s.me.preds
  dis : t.me.dis = s.me.dis
  mode : t.me.mode = s.me.mode
  hregs : t.me.hregs = s.me.hregs
  accs : t.me.accs = s.me.accs
  scloff : t.me.scloff = s.me.scloff
  gang : t.me.gang = s.me.gang
  traps : (t.me.tcause, t.me.tepc, t.me.tval, t.me.tmask, t.me.tvec, t.me.tscratch) =
    (s.me.tcause, s.me.tepc, s.me.tval, s.me.tmask, s.me.tvec, s.me.tscratch)

/-- The instruction at the issue position has committed and left an outstanding operation, counted by the counter that the operation names; its
effect is still to come: no register, no other stand and no byte of memory has changed (R48, R145). -/
structure Issues (i : Instr) (s t : State) (op : Nat) (o : Out) : Prop where
  fresh : s.nextId ≤ op
  out : SMap.get? t.outs op = some o
  ins : o.ins = i
  owner : (o.st, o.uid, o.ctx, o.path, o.rpl, o.orphan) = (s.cur.st, s.me.uid, s.me.ctx, s.cur.path, s.cur.replay, false)
  counted : o.ctr ≠ .none → t.me.count o.ctr = s.me.count o.ctr + 1
  advance : Advances s t (s.nextPc i)
  regs : KeepsRegs s t
  others : ∀ k, k ≠ s.cur.st → t.stand k = s.stand k
  memory : ∀ a, t.homeByte a = s.homeByte a

/-! ### Numbers (R91, R93, R102 to R109) -/

end Machine

namespace Rule
open Machine

/-- Fraction bits of a floating format, by its code: 1 FP32, 2 FP16, 3 BF16, 4 E4M3, 5 E5M2, 6 E2M1 (R91). -/
def frac (et : Nat) : Nat := match et with | 2 => 10 | 3 => 7 | 4 => 3 | 5 => 2 | 6 => 1 | _ => 23
/-- The exponent of two of its smallest subnormal. -/
def least (et : Nat) : Int := match et with | 2 => -24 | 3 => -133 | 4 => -9 | 5 => -16 | 6 => -1 | _ => -149
/-- The weight of its sign bit. -/
def signBit (et : Nat) : Nat := match et with | 2 | 3 => 0x8000 | 4 | 5 => 0x80 | 6 => 8 | _ => 0x80000000
/-- Its largest finite code, without the sign. -/
def largest (et : Nat) : Nat := match et with | 2 => 0x7BFF | 3 => 0x7F7F | 4 => 0x7E | 5 => 0x7B | 6 => 7 | _ => 0x7F7FFFFF
/-- The code of its infinity, without the sign; E4M3 and E2M1 have none. -/
def infinity (et : Nat) : Nat := match et with | 2 => 0x7C00 | 3 => 0x7F80 | 5 => 0x7C | _ => 0x7F800000
def hasInf (et : Nat) : Bool := et != 4 && et != 6
/-- The NaN that is written; E2M1 has none, and takes +0 for it (R104). -/
def canonical (et : Nat) : Nat := match et with | 2 => 0x7E00 | 3 => 0x7FC0 | 4 => 0x7F | 5 => 0x7E | 6 => 0 | _ => 0x7FC00000

/-- A code with its sign. -/
def code (et : Nat) (neg : Bool) (c : Nat) : Nat := if neg then signBit et + c else c

/-- The magnitude of a code without its sign, in units of the smallest subnormal, the exponent unbounded above (R91, R102). -/
def mag (et c : Nat) : Nat := if c < 2 ^ frac et then c else (2 ^ frac et + c % 2 ^ frac et) * 2 ^ (c / 2 ^ frac et - 1)

/-- Whether a code is a NaN (R91). -/
def isNan (et c : Nat) : Bool := if et = 4 then c % signBit et == 0x7F else hasInf et && decide (infinity et < c % signBit et)

/-- The value that a code of a floating format has (R91, R92). -/
def IsValue (et c : Nat) : FVal → Prop
  | .nan => isNan et c = true
  | .inf neg => hasInf et = true ∧ c % signBit et = infinity et ∧ neg = decide (signBit et ≤ c)
  | .fin neg m e => c % signBit et ≤ largest et ∧ neg = decide (signBit et ≤ c) ∧ least et ≤ e ∧ m * 2 ^ (e - least et).toNat = mag et (c % signBit et)

/-- Whether a rounding mode takes a value of this sign toward zero: 1 always, 2 (down) a positive one, 3 (up) a negative one (R107). -/
def toward (rm : Nat) (neg : Bool) : Bool := rm == 1 || (rm == 2 && !neg) || (rm == 3 && neg)

/-- `c` is the rounding, under mode `rm`, of a positive magnitude on the grid `g` (R107). The magnitude is given by how it compares: it lies below
`n / 4` when `a < b n`. In modes 0 and 4 the nearest point of the grid is taken, and of two equally near ones the even one or the greater one. -/
def Rounds (g : Nat → Nat) (rm : Nat) (neg : Bool) (a : Nat) (b : Nat → Nat) (c : Nat) : Prop :=
  let below := b (2 * (g (c - 1) + g c))
  let above := b (2 * (g c + g (c + 1)))
  if rm = 0 ∨ rm = 4 then
    a ≤ above ∧ (0 < c → below ≤ a) ∧ (if rm = 0 then c % 2 = 1 → a ≠ below ∧ a ≠ above else a ≠ above)
  else if toward rm neg then b (4 * g c) ≤ a ∧ a < b (4 * g (c + 1))
  else a ≤ b (4 * g c) ∧ (0 < c → b (4 * g (c - 1)) < a)

/-- Whether a magnitude, so given, is tiny after rounding: rounded with one more bit it stays below the smallest normal (R109). -/
def tiny (et rm : Nat) (neg : Bool) (a : Nat) (b : Nat → Nat) : Bool :=
  decide (if rm = 0 ∨ rm = 4 then a < b (2 ^ (frac et + 2) - 1) else if toward rm neg then a < b (2 ^ (frac et + 2)) else a ≤ b (2 ^ (frac et + 2) - 2))

/-- A nonzero magnitude, in units of the smallest subnormal, written in a floating format: rounded once; beyond the largest finite value it
saturates (R103), or overflows to infinity in the modes that do not round toward zero (R108); with its flags (R109). -/
def Written (et rm : Nat) (sat neg : Bool) (a : Nat) (b : Nat → Nat) (r : Res) : Prop :=
  ∃ c, Rounds (mag et) rm neg a b c ∧ r =
    if c ≤ largest et then
      ⟨code et neg c, if a = b (4 * mag et c) then 0 else if tiny et rm neg a b then Flag.nx ||| Flag.unf else Flag.nx⟩
    else ⟨code et neg (if sat = false ∧ hasInf et = true ∧ toward rm neg = false then infinity et else largest et), Flag.ovf ||| Flag.nx⟩

/-- `m × 2^e` compared with `n / 4` units of `2^u`: the two sides. -/
def left (u : Int) (m : Nat) (e : Int) : Nat := 4 * m * 2 ^ (e - u).toNat
def right (u : Int) (e : Int) (n : Nat) : Nat := n * 2 ^ (u - e).toNat

/-- The sign of an exact zero result: that of the terms where all are zeros of one sign, else minus under `rdn` alone (R330). -/
def zeroSign (rm : Nat) (vs : List FVal) : Bool :=
  let zero := fun (neg : Bool) (v : FVal) => match v with | .fin s m _ => s == neg && m == 0 | _ => false
  vs.all (zero true) || (rm == 2 && !vs.all (zero false))

/-- The exact sum of some values, rounded once (R108, R330): NaN for a NaN and, with NV, for infinities of both signs. The sum `t` of the finite ones is
formed in units of a power of two that divides each. -/
def Summed (et rm : Nat) (vs : List FVal) (zero : Bool) (r : Res) : Prop :=
  if FVal.nan ∈ vs then r = ⟨canonical et, 0⟩
  else if FVal.inf true ∈ vs then (if FVal.inf false ∈ vs then r = ⟨canonical et, Flag.nv⟩ else r = ⟨code et true (infinity et), 0⟩)
  else if FVal.inf false ∈ vs then r = ⟨code et false (infinity et), 0⟩
  else ∃ e0 : Int, (∀ s m e, FVal.fin s m e ∈ vs → m ≠ 0 → e0 ≤ e) ∧
    let t := vs.foldl (fun x v => x + v.at e0) 0
    if t = 0 then r = ⟨code et zero 0, 0⟩ else Written et rm false (decide (t < 0)) (left (least et) t.natAbs e0) (right (least et) e0) r

/-- The exact product of two values that are no NaN; none for 0 × ∞ (R330). -/
def product : FVal → FVal → Option FVal
  | .fin s m e, .fin t n k => some (.fin (s != t) (m * n) (e + k))
  | .inf s, .inf t => some (.inf (s != t))
  | .inf s, .fin t m _ => if m = 0 then none else some (.inf (s != t))
  | .fin s m _, .inf t => if m = 0 then none else some (.inf (s != t))
  | _, _ => some .nan

/-- The exact sum of products and addends, rounded once: `none` stands for 0 × ∞ (R111, R333, R334). A NaN input is no invalid operation. -/
def Combined (et rm : Nat) (inputs : List FVal) (terms : List (Option FVal)) (r : Res) : Prop :=
  if FVal.nan ∈ inputs then r = ⟨canonical et, 0⟩
  else if none ∈ terms then r = ⟨canonical et, Flag.nv⟩
  else Summed et rm (terms.filterMap id) (zeroSign rm (terms.filterMap id)) r

/-- What MMA makes of an FP32 element and the 32 products of a chunk: their exact sum, rounded once in RNE, a zero sum being +0 (R114). -/
def Chunked (d : FVal) (xs ys : List FVal) (r : Res) : Prop :=
  let ps := List.zipWith product xs ys
  if FVal.nan ∈ d :: (xs ++ ys) then r = ⟨canonical 1, 0⟩
  else if none ∈ ps then r = ⟨canonical 1, Flag.nv⟩
  else Summed 1 0 (d :: ps.filterMap id) false r

/-- How a code that is no NaN is ordered, −0 below +0 (R335). -/
def key (et c : Nat) : Int := if signBit et ≤ c then -1 - Int.ofNat (c % signBit et) else Int.ofNat c

end Rule

namespace Machine

/-- The path at the issue position, or the replay record, is marked with what it waits for; only a path that waits for the vacate check stands
in its core's list of stalled charges (R20, R152). Nothing else has happened. -/
def Waits (i : Instr) (s : State) (w : Wait) : Prop :=
  exec i s = .next ((s.modSlot s.myCore s.me.ctx fun x => if w = .vacate then x else unstall s.cur.st s.cur.path x).modStand s.cur.st fun st =>
    if s.cur.replay = true then st.modRecord fun r => { r with wait := some w } else st.modPath s.cur.path fun p => { p with wait := some w })

end Machine
end Sys2Proof
end

