-- ==== Sys2Proof/Certificates/Slice0/Obligations.lean ====
section
/-! DEFINITION. The statements about the machine. -/

section
open Sys2Proof Sys2Proof.Machine

/-! ## The registers and the lanes of one instruction -/

namespace Sys2Proof.Rule

/-- Width and signedness of the elements of an integer lane instruction, by the code of `mode.ET` (R325): 7 is I32, 8 I16, 9 I8, 10 I4,
12 U16, 13 U8; every other format is read as U32. -/
def shape (et : Nat) : Nat × Bool :=
  if et = 7 then (32, true) else if et = 8 then (16, true) else if et = 9 then (8, true) else if et = 10 then (4, true)
  else if et = 12 then (16, false) else if et = 13 then (8, false) else (32, false)

/-- The low bits of a register as a number (R325). -/
def elem (et : Nat) (w : Word) : Int :=
  if (shape et).2 then (w.setWidth (shape et).1).toInt else Int.ofNat (w.setWidth (shape et).1).toNat

/-- A result reduced to its low bits, the rest of the register filled with copies of the sign or with zeros (R90, R325). -/
def fill (et : Nat) (w : Word) : Word :=
  if (shape et).2 then (w.setWidth (shape et).1).signExtend 32 else (w.setWidth (shape et).1).setWidth 32

/-- What the integer lane instructions write (R337, R338, R339, R341). -/
def integer (st : Stand) (i : Instr) : Option (VReg × (Nat → Word)) :=
  let et := st.mode.toNat % 32
  match i with
  | .iadd _ d a b => some (d, fun l => fill et (st.vreg a l + st.vreg b l))
  | .isub _ d a b => some (d, fun l => fill et (st.vreg a l - st.vreg b l))
  | .imul _ d a b => some (d, fun l => fill et (st.vreg a l * st.vreg b l))
  | .imulh _ d a b => some (d, fun l => fill et (BitVec.ofInt 32 (elem et (st.vreg a l) * elem et (st.vreg b l) / 2 ^ (shape et).1)))
  | .imad _ d a b => some (d, fun l => fill et (st.vreg a l * st.vreg b l + st.vreg d l))
  | .imin _ d a b => some (d, fun l => fill et (if elem et (st.vreg a l) ≤ elem et (st.vreg b l) then st.vreg a l else st.vreg b l))
  | .imax _ d a b => some (d, fun l => fill et (if elem et (st.vreg a l) ≤ elem et (st.vreg b l) then st.vreg b l else st.vreg a l))
  | .iabs _ d a => some (d, fun l => fill et (if 0 ≤ elem et (st.vreg a l) then st.vreg a l else 0 - st.vreg a l))
  | .ineg _ d a => some (d, fun l => fill et (0 - st.vreg a l))
  | .iaddk _ d a lit => some (d, fun l => fill et (st.vreg a l + lit))
  | _ => none

/-- What the bitwise instructions, the shifts and the counts write (R298, R313, R316, R348, R350, R351, R353, R364, R376). -/
def bits (st : Stand) (i : Instr) : Option (VReg × (Nat → Word)) :=
  match i with
  | .and _ d a b => some (d, fun l => st.vreg a l &&& st.vreg b l)
  | .or _ d a b => some (d, fun l => st.vreg a l ||| st.vreg b l)
  | .xor _ d a b => some (d, fun l => st.vreg a l ^^^ st.vreg b l)
  | .not _ d a => some (d, fun l => st.vreg a l ^^^ 0xFFFFFFFF#32)
  | .mov _ d a => some (d, fun l => st.vreg a l)
  | .movk _ d lit => some (d, fun _ => lit)
  | .lidx _ d => some (d, fun l => BitVec.ofNat 32 l)
  | .shl _ d a b => some (d, fun l => if (st.vreg b l).toNat < 32 then st.vreg a l <<< (st.vreg b l).toNat else 0)
  | .shr _ d a b => some (d, fun l => if (st.vreg b l).toNat < 32 then st.vreg a l >>> (st.vreg b l).toNat else 0)
  | .sar _ d a b => some (d, fun l =>
      if (st.vreg b l).toNat < 32 then (st.vreg a l).sshiftRight (st.vreg b l).toNat else if (st.vreg a l).msb then 0xFFFFFFFF#32 else 0)
  | .popc _ d a => some (d, fun l => BitVec.ofNat 32 ((List.range 32).countP fun k => (st.vreg a l).getLsbD k))
  | .clz _ d a => some (d, fun l => BitVec.ofNat 32 (if st.vreg a l = 0 then 32 else 31 - Nat.log2 (st.vreg a l).toNat))
  | .lrank _ d a => some (d, fun l => BitVec.ofNat 32 ((List.range l).countP fun k => (st.vreg a l).getLsbD k))
  | _ => none

/-- What the moves between lanes and from a predicate or a scalar write (R344, R361, R365). -/
def moves (s : State) (i : Instr) : Option (VReg × (Nat → Word)) :=
  match i with
  | .sel _ d a p => some (d, fun l => if (s.pred p.toNat).getLsbD l then s.me.vreg a l else s.me.vreg d l)
  | .lshf _ d a b => some (d, fun l => s.me.vreg a ((s.me.vreg b l).toNat % 32))
  | .lbcs _ d a lane => some (d, fun _ => s.me.vreg a lane.toNat)
  | .s2v _ d a hi => some (d, fun _ => if hi then (s.me.sreg a).extractLsb' 32 32 else (s.me.sreg a).extractLsb' 0 32)
  | _ => none

/-- The instructions with a per-lane effect, to which the guard applies (R44). -/
def guarded : Instr → Bool
  | .iadd .. | .isub .. | .imul .. | .imulh .. | .imad .. | .imin .. | .imax .. | .and .. | .or .. | .xor .. | .shl .. | .shr .. | .sar .. | .iset .. | .sel ..
  | .idp4 .. | .iaddk .. | .movk .. => true
  | .fadd .. | .fsub .. | .fmul .. | .ffma .. | .fmin .. | .fmax .. | .fset .. | .fdp2 .. => true
  | .mov .. | .not .. | .iabs .. | .ineg .. | .popc .. | .clz .. | .brev .. | .lrank .. | .lidx .. | .fabs .. | .fneg .. | .frcp .. | .frsq .. | .fsqrt ..
  | .fexp2 .. | .flog2 .. | .fsin .. | .fcos .. | .cvt .. => true
  | .lshf .. | .lbcs .. | .lmatch .. | .lpfx .. | .lred .. | .lvote .. | .s2v .. | .acvt .. | .awin .. | .pand .. | .por .. | .pxor .. | .pandn .. => true
  | .ld .. | .st .. | .pref .. | .tagset .. | .tagget .. | .xchg .. => true
  | .aadd .. | .amin .. | .amax .. | .aand .. | .aor .. | .axor .. | .axch .. | .acas .. => true
  | _ => false

end Sys2Proof.Rule

/-- R325 with R337 to R341: the integer lane instructions complete under every `mode.ET`, wrap to its width, and change nothing but the active lanes of
vD; IDP4 adds the four products of corresponding bytes to vD, signed under I8 and unsigned under U8. -/
def Obligations.IntegerLaneResults : Prop :=
  (∀ i s d f, Rule.integer s.me i = some (d, f) → Passes i s → ∃ t, exec i s = .next t ∧ WritesV i s t d f 0) ∧
  (∀ h d a b s, Passes (.idp4 h d a b) s → (s.me.mode.toNat % 32 = 9 ∨ s.me.mode.toNat % 32 = 13) →
    ∃ t, exec (.idp4 h d a b) s = .next t ∧
      WritesV (.idp4 h d a b) s t d (fun l =>
        let x := fun (r : VReg) (k : Nat) => if s.me.mode.toNat % 32 = 9 then ((s.me.vreg r l).extractLsb' (8 * k) 8).signExtend 32
          else ((s.me.vreg r l).extractLsb' (8 * k) 8).setWidth 32
        s.me.vreg d l + x a 0 * x b 0 + x a 1 * x b 1 + x a 2 * x b 2 + x a 3 * x b 3) 0)

/-- The bitwise instructions, shifts, counts and constants complete, read no `mode.ET`, and change nothing but the active lanes of vD. -/
def Obligations.BitLaneResults : Prop :=
  ∀ i s d f, Rule.bits s.me i = some (d, f) → Passes i s → ∃ t, exec i s = .next t ∧ WritesV i s t d f 0

/-- R297, R316, R344, R361 and R365: SEL, LSHF, LBCS and S2V complete: a source lane is read whatever its state, before any lane is written; LMATCH gives each
active lane the active lanes with the same 32 bits; BREV reverses the bits of a lane. R44 and R306: an ordinary issue acts on `em` and, where the guard
applies, on the lanes of G alone: every lane where `mode.GP` is 0, else those of the guard predicate, or with `mode.GN` the others. -/
def Obligations.LaneMoveResults : Prop :=
  (∀ (i : Instr) (s : State), s.cur.replay = false → s.myPath.part = none →
    let gp := (s.me.mode.extractLsb' 8 4).toNat
    let p : Mask := if gp = 0 then 0xFFFFFFFF#32 else s.pred gp
    let g : Mask := if s.me.mode.getLsbD 12 = true then p ^^^ 0xFFFFFFFF#32 else p
    s.me.guard = g ∧ s.acts i = if Rule.guarded i then s.em &&& g else s.em) ∧
  (∀ i s d f, Rule.moves s i = some (d, f) → Passes i s → ∃ t, exec i s = .next t ∧ WritesV i s t d f 0) ∧
  (∀ h d a s, Passes (.lmatch h d a) s → ∃ t f, exec (.lmatch h d a) s = .next t ∧ WritesV (.lmatch h d a) s t d f 0 ∧
    ∀ l m, l < 32 → m < 32 → (f l).getLsbD m = ((s.acts (.lmatch h d a)).getLsbD m && decide (s.me.vreg a m = s.me.vreg a l))) ∧
  (∀ h d a s, Passes (.brev h d a) s → ∃ t f, exec (.brev h d a) s = .next t ∧ WritesV (.brev h d a) s t d f 0 ∧
    ∀ l k, l < 32 → k < 32 → (f l).getLsbD k = (s.me.vreg a l).getLsbD (31 - k))

namespace Sys2Proof.Rule

/-- The conditions 0 to 5 by name (R336, R342, R369): `eq`, `ne`, `lt`, `le`, `gt`, `ge`. -/
def compare (c : Nat) (x y : Int) : Bool :=
  match c with
  | 0 => decide (x = y)
  | 1 => !decide (x = y)
  | 2 => decide (x < y)
  | 3 => decide (x < y ∨ x = y)
  | 4 => decide (y < x)
  | _ => decide (y < x ∨ x = y)

/-- The outcome of a vote over the lanes `act` (R349): any, all, parity. -/
def vote (kind : Nat) (p act : Mask) : Bool :=
  if kind = 0 then (List.range 32).any fun l => act.getLsbD l && p.getLsbD l
  else if kind = 1 then (List.range 32).all fun l => !act.getLsbD l || p.getLsbD l
  else ((List.range 32).countP fun l => act.getLsbD l && p.getLsbD l) % 2 == 1

/-- The elements that FSET compares, and every other floating-point lane instruction reads (R90, R326). -/
def low (et : Nat) (w : Word) : Nat := w.toNat % 2 ^ (if et = 1 then 32 else 16)

/-- The predicate that an instruction writes, the lanes it writes, and the bit of each (R124, R236, R336, R342, R349, R354, R360, R369);
none where it traps. -/
def predicate (s : State) (i : Instr) : Option (Nat × Mask × (Nat → Bool)) :=
  let et := s.me.mode.toNat % 32
  match i with
  | .iset _ c p a b =>
    if c.toNat < 6 then some (p.toNat, s.acts i, fun l => compare c.toNat (elem et (s.me.vreg a l)) (elem et (s.me.vreg b l))) else none
  | .fset _ c p a b =>
    if et = 1 ∨ et = 2 ∨ et = 3 then
      some (p.toNat, s.acts i, fun l => fpCond et c.toNat (low et (s.me.vreg a l)) (low et (s.me.vreg b l))) else none
  | .pand _ d a b => some (d.toNat, s.acts i, fun l => (s.pred a.toNat).getLsbD l && (s.pred b.toNat).getLsbD l)
  | .por _ d a b => some (d.toNat, s.acts i, fun l => (s.pred a.toNat).getLsbD l || (s.pred b.toNat).getLsbD l)
  | .pxor _ d a b => some (d.toNat, s.acts i, fun l => (s.pred a.toNat).getLsbD l ^^ (s.pred b.toNat).getLsbD l)
  | .pandn _ d a b => some (d.toNat, s.acts i, fun l => (s.pred a.toNat).getLsbD l && !(s.pred b.toNat).getLsbD l)
  | .awin _ d a k => some (d.toNat, s.acts i, fun l =>
      if k.toNat = 3 then decide ((s.me.pair a l).toNat / 2 ^ 60 = 0) else decide ((s.me.pair a l).toNat / 2 ^ 56 = 0xF0 + k.toNat))
  | .lvote _ k p a => if k.toNat < 3 then some (p.toNat, s.acts i, fun _ => vote k.toNat (s.pred a.toNat) (s.acts i)) else none
  | .sset _ c p a b => some (p.toNat, 0xFFFFFFFF#32, fun _ =>
      if c.toNat < 6 then compare c.toNat (s.me.sreg a).toInt (s.me.sreg b).toInt
      else if c.toNat = 6 then decide ((s.me.sreg a).toNat < (s.me.sreg b).toNat) else decide ((s.me.sreg b).toNat ≤ (s.me.sreg a).toNat))
  | .s2p _ d a => some (d.toNat, 0xFFFFFFFF#32, fun l => (s.me.sreg a).getLsbD l)
  | .ktst _ d k => some (d.toNat, 0xFFFFFFFF#32, fun _ => !s.me.tokmask.getLsbD k.toNat)
  | _ => none

/-- The scalar that an instruction writes (R206, R303, R361, R362, R363). -/
def scalar (s : State) (i : Instr) : Option (SReg × DWord) :=
  match i with
  | .sadd _ d a b => some (d, s.me.sreg a + s.me.sreg b)
  | .ssub _ d a b => some (d, s.me.sreg a - s.me.sreg b)
  | .smul _ d a b => some (d, s.me.sreg a * s.me.sreg b)
  | .sand _ d a b => some (d, s.me.sreg a &&& s.me.sreg b)
  | .sor _ d a b => some (d, s.me.sreg a ||| s.me.sreg b)
  | .sxor _ d a b => some (d, s.me.sreg a ^^^ s.me.sreg b)
  | .sshl _ d a b => some (d, if (s.me.sreg b).toNat < 64 then s.me.sreg a <<< (s.me.sreg b).toNat else 0)
  | .sshr _ d a b => some (d, if (s.me.sreg b).toNat < 64 then s.me.sreg a >>> (s.me.sreg b).toNat else 0)
  | .smovk _ d lit => some (d, lit.signExtend 64)
  | .saddk _ d a lit => some (d, s.me.sreg a + lit.signExtend 64)
  | .p2s _ d a => some (d, (s.pred a.toNat).setWidth 64)
  | .v2s _ d a lane => some (d, (s.me.vreg a lane.toNat).setWidth 64)
  | .h2s _ d a => some (d, s.me.hreg a)
  | _ => none

/-- What each two-source or one-source floating-point lane instruction computes from the elements of its lane, under `mode.ET` and
`mode.RM` (R324, R329–R335). -/
def float (st : Stand) (i : Instr) : Option (VReg × Nat × (Nat → Res)) :=
  let et := st.mode.toNat % 32
  let rm := st.mode.toNat / 32 % 8
  let x := fun (r : VReg) (l : Nat) => low et (st.vreg r l)
  let ok := fun (d : VReg) (f : Nat → Res) => if et = 1 ∨ et = 2 ∨ et = 3 then some (d, et, f) else none
  match i with
  | .fadd _ d a b => ok d fun l => fpAdd et rm (x a l) (x b l)
  | .fsub _ d a b => ok d fun l => fpSub et rm (x a l) (x b l)
  | .fmul _ d a b => ok d fun l => fpMul et rm (x a l) (x b l)
  | .ffma _ d a b => ok d fun l => fpFma et rm (x a l) (x b l) (x d l)
  | .fmin _ d a b => ok d fun l => ⟨elemMinMax et false (x a l) (x b l), 0⟩
  | .fmax _ d a b => ok d fun l => ⟨elemMinMax et true (x a l) (x b l), 0⟩
  | .fabs _ d a => ok d fun l => ⟨fpSign et false (x a l), 0⟩
  | .fneg _ d a => ok d fun l => ⟨fpSign et true (x a l), 0⟩
  | .frcp _ d a => ok d fun l => fpFunc et rm 0x12 (x a l)
  | .frsq _ d a => ok d fun l => fpFunc et rm 0x13 (x a l)
  | .fsqrt _ d a => ok d fun l => fpFunc et rm 0x14 (x a l)
  | .fexp2 _ d a => ok d fun l => fpFunc et rm 0x15 (x a l)
  | .flog2 _ d a => ok d fun l => fpFunc et rm 0x16 (x a l)
  | .fsin _ d a => ok d fun l => fpFunc et rm 0x17 (x a l)
  | .fcos _ d a => ok d fun l => fpFunc et rm 0x18 (x a l)
  | .fdp2 _ d a b =>
    if et = 2 ∨ et = 3 then some (d, 1, fun l => fpDp2 et rm (st.vreg a l).toNat (st.vreg b l).toNat (st.vreg d l).toNat) else none
  | _ => none

/-- The lanes of a mask whose flags an instruction collects (R110). -/
def flagsOf (act : Mask) (f : Nat → Res) : BitVec 4 :=
  (List.range 32).foldl (fun x l => if act.getLsbD l then x ||| (f l).flags else x) 0

/-- The running value of the active lanes below `n` (R299): none while there is none. -/
def running (et rm : Nat) (act : Mask) (x : Nat → Nat) : Nat → Option Res
  | 0 => none
  | n + 1 =>
    if act.getLsbD n then
      match running et rm act x n with
      | none => some ⟨x n, 0⟩
      | some r =>
        let y : Res := if et = 1 then fpAdd 1 rm r.code (x n) else ⟨(r.code + x n) % 2 ^ 32, 0⟩
        some ⟨y.code, r.flags ||| y.flags⟩
    else running et rm act x n

/-- A node of LRED's tree from its children (R112, R301). -/
def node (f : Res → Res → Res) : Option Res → Option Res → Option Res
  | some p, some q => some ⟨(f p q).code, p.flags ||| q.flags ||| (f p q).flags⟩
  | some p, none => some p
  | none, q => q

/-- The tree over the `2 ^ k` lanes from `n` on: neighbours combine, level by level (R112). -/
def tree (f : Res → Res → Res) (leaf : Nat → Option Res) : Nat → Nat → Option Res
  | 0, n => leaf n
  | k + 1, n => node f (tree f leaf k n) (tree f leaf k (n + 2 ^ k))

/-- The bit of MODE's write mask that governs a bit of `mode` (R46); none for a reserved bit. -/
def modeBit (j : Nat) : Option Nat :=
  if j < 5 then some 0 else if j < 8 then some 1 else if j < 13 then some 2 else if j < 16 then some 3 else if j < 18 then some 4
  else if j < 21 then some 5 else if j = 21 ∨ j = 23 ∨ j = 24 then some 6 else none

/-- Whether MODE refuses its literal (R46). -/
def modeRefused (msk : BitVec 7) (lit : Word) : Prop :=
  2 ^ 25 ≤ lit.toNat ∨ lit.getLsbD 22 = true ∨ (msk.getLsbD 0 = true ∧ 0x10 ≤ lit.toNat % 32) ∨ (msk.getLsbD 1 = true ∧ 5 ≤ lit.toNat / 32 % 8)
    ∨ (msk.getLsbD 3 = true ∧ 6 ≤ lit.toNat / 8192 % 8)

/-- CSRs that show a field of the stand, its grove, its launch, its kernel, its context or its die (R52, R100, R109, R115, R142, R143, R150, R153, R156,
R202, R229, R231, R255, R322, R323); `accres` where the residual slots are listed in order, `coreid` where the core is a working one. -/
def csr (s : State) (n : Nat) : Option DWord :=
  let x := s.ctx s.me.ctx
  let g := s.grove s.me.grove
  let l := s.launchOf s.me
  let vxctx := if ((List.range 4).countP fun d => x.cplace.getLsbD d) ≤ 1 then 2 else 5
  match n with
  | 0x011 => some (BitVec.ofNat 64 (g.g % l.gx))
  | 0x012 => some (BitVec.ofNat 64 (g.g / l.gx % l.gy))
  | 0x013 => some (BitVec.ofNat 64 (g.g / (l.gx * l.gy)))
  | 0x015 => (s.core s.myCore).work.map (BitVec.ofNat 64)
  | 0x016 => some (BitVec.ofNat 64 (s.myCore / 9 % 12))
  | 0x01C => some ((x.clocal.extractLsb' 0 17).setWidth 64)
  | 0x030 => some ((x.cbound.extractLsb' 0 16).setWidth 64)
  | 0x031 => some (BitVec.ofNat 64 ((x.cbound.extractLsb' 0 16).toNat - vxctx))
  | 0x032 =>
    let y := s.ctxSlot s.myCore s.me.ctx
    let rho := (x.cbound.extractLsb' 16 12).toNat
    some (BitVec.ofNat 64 (5 + (y.s + y.p + rho - 1) / rho + y.c + y.q))
  | 0x033 => some ((x.cbound.extractLsb' 16 12).setWidth 64)
  | 0x034 => some 0x00F43210#64
  | 0x035 => some (0#32 ++ (BitVec.ofNat 16 s.me.lent ++ BitVec.ofNat 16 s.me.avail))
  | 0x036 => some (BitVec.ofNat 64 ((if s.me.vxTrap then 1 else 0) + (if s.me.stalled then 2 else 0) + if s.me.hopeless then 4 else 0))
  | 0x037 => some (BitVec.ofNat 64 vxctx)
  | 0x041 =>
    if SMap.sortedFrom 0 s.me.residuals = true ∧ ∀ kv ∈ s.me.residuals, kv.1 < 16 then
      some (BitVec.ofNat 64 (((List.range 16).map fun i => if (SMap.get? s.me.residuals i).isSome then 2 ^ i else 0).sum
        + 65536 * s.me.residuals.length)) else none
  | 0x042 => some (BitVec.ofNat 64 (65536 * (s.kernelOf s.me).nres + 0x8122))
  | 0x051 => some (BitVec.ofNat 64 ((if s.me.standid < (s.kernelOf s.me).ring then s.me.standid else 0xFF)
      + (if g.sbat = some s.me.standid then 256 else 0) + if g.mbat = some s.me.standid then 512 else 0))
  | 0x200 => some (BitVec.ofNat 64 ((s.kernelOf s.me).partw.toNat % 2 ^ 21))
  | 0x000 => some (s.me.mode.setWidth 64)
  | 0x001 => some (s.me.flags.setWidth 64)
  | 0x010 => some (BitVec.ofNat 64 s.me.standid)
  | 0x014 => some (BitVec.ofNat 64 (s.grove s.me.grove).size)
  | 0x017 => some (BitVec.ofNat 64 (s.myCore / 108))
  | 0x018 => some (BitVec.ofNat 64 s.devid)
  | 0x019 => some s.me.taskrec
  | 0x01A => some (s.launchOf s.me).arg
  | 0x01B => some (s.kernelOf s.me).addr
  | 0x020 => some (BitVec.ofNat 64 s.me.loads)
  | 0x021 => some (BitVec.ofNat 64 s.me.stores)
  | 0x022 => some (BitVec.ofNat 64 s.me.copies)
  | 0x023 => some (BitVec.ofNat 64 s.me.tiles)
  | 0x024 => some (s.me.tokmask.setWidth 64)
  | 0x040 => some (s.me.accref.setWidth 64)
  | 0x050 => some s.me.gang
  | 0x070 => some (s.me.scloff.setWidth 64)
  | 0x080 => some s.me.retcnt
  | 0x081 => some (BitVec.ofNat 64 (s.cycOf s.myCore))
  | 0x100 => some s.me.tcause
  | 0x101 => some s.me.tepc
  | 0x102 => some s.me.tval
  | 0x103 => some s.me.tmask
  | 0x104 => some s.me.tvec
  | 0x105 => some s.me.tscratch
  | _ => none

/-- A dword in which the bits of `m` come from `x` and the others from `old`. -/
def merge (old x m : DWord) (k : Nat) : Bool := if m.getLsbD k then x.getLsbD k else old.getLsbD k

end Sys2Proof.Rule

/-- R124, R236, R336, R342, R349, R354, R360 and R369: the instructions that write a predicate complete, write the lanes that their rule
names, and change nothing else. -/
def Obligations.PredicateResults : Prop :=
  ∀ i s n m f, Rule.predicate s i = some (n, m, f) → Passes i s → ∃ t, exec i s = .next t ∧ WritesP i s t n m f

/-- R206, R303, R361, R362 and R363: the scalar instructions and the moves into a scalar complete, whatever `em` and the guard are, and change
nothing but sD. -/
def Obligations.ScalarResults : Prop :=
  ∀ i s d x, Rule.scalar s i = some (d, x) → Passes i s → ∃ t, exec i s = .next t ∧ WritesS i s t d x

namespace Sys2Proof.Rule

/-- R91, R93 and R94: the value of each code of a floating format, an integer format and UE8. -/
def Codes : Prop :=
  (∀ et c, 1 ≤ et → et ≤ 6 → c < 2 * signBit et → IsValue et c (decodeVal et c)) ∧
  (∀ et (w : Word), 7 ≤ et → et ≤ 13 → decodeVal et w.toNat = .fin (decide (elem et w < 0)) (elem et w).natAbs 0) ∧
  (∀ c, c < 256 → decodeVal 15 c = if c = 255 then .nan else .fin false 1 (Int.ofNat c - 127))

/-- R102 to R109: a value written in a floating format, `sat` telling a conversion (R103) from an arithmetic result (R108); in an integer format,
where it saturates; and in UE8 (R106), where what lies below 2^-127 is rounded as if there were lower powers of two (the model's reading: log entry 89),
and overflow is judged after rounding, an infinity taken as a value beyond 2^127 (the model's reading: log entry 20). -/
def Encodings : Prop :=
  (∀ et rm sat, 1 ≤ et → et ≤ 6 → rm ≤ 4 →
    encodeFloat et rm sat .nan = ⟨canonical et, if et = 6 then Flag.nv else 0⟩ ∧
    (∀ neg, encodeFloat et rm sat (.inf neg) =
      if sat = false ∧ hasInf et = true then ⟨code et neg (infinity et), 0⟩ else ⟨code et neg (largest et), Flag.ovf ||| Flag.nx⟩) ∧
    (∀ neg e, encodeFloat et rm sat (.fin neg 0 e) = ⟨code et neg 0, 0⟩) ∧
    ∀ neg m e, m ≠ 0 → Written et rm sat neg (left (least et) m e) (right (least et) e) (encodeFloat et rm sat (.fin neg m e))) ∧
  (∀ et rm, 7 ≤ et → et ≤ 13 → rm ≤ 4 →
    let n := (shape et).1
    let hi : Int := if (shape et).2 then 2 ^ (n - 1) - 1 else 2 ^ n - 1
    let lo : Int := if (shape et).2 then -2 ^ (n - 1) else 0
    let put := fun (i : Int) => (i % 2 ^ n).toNat
    encodeInt et rm .nan = ⟨0, Flag.nv⟩ ∧ (∀ neg, encodeInt et rm (.inf neg) = ⟨put (if neg then lo else hi), Flag.ovf ||| Flag.nx⟩) ∧
    ∀ neg m e, ∃ q, Rounds id rm neg (left 0 m e) (right 0 e) q ∧
      let i : Int := if neg then -Int.ofNat q else Int.ofNat q
      encodeInt et rm (.fin neg m e) =
        if hi < i then ⟨put hi, Flag.ovf ||| Flag.nx⟩ else if i < lo then ⟨put lo, Flag.ovf ||| Flag.nx⟩
        else ⟨put i, if left 0 m e = right 0 e (4 * q) then 0 else Flag.nx⟩) ∧
  (∀ rm, rm ≤ 4 → encodeUe8 rm .nan = ⟨0xFF, 0⟩ ∧ encodeUe8 rm (.inf false) = ⟨0xFE, Flag.ovf ||| Flag.nx⟩ ∧
    (∀ neg e, encodeUe8 rm (.fin neg 0 e) = ⟨0, Flag.unf ||| Flag.nx⟩) ∧
    (∀ m e, m ≠ 0 → encodeUe8 rm (.fin true m e) = ⟨0, Flag.unf ||| Flag.nx ||| Flag.nv⟩) ∧
    ∀ (m : Nat) (e : Int) (n : Nat), 2 ^ n ≤ m → m < 2 ^ (n + 1) →
      let up := m ≠ 2 ^ n ∧ (rm = 3 ∨ ((rm = 0 ∨ rm = 4) ∧ 2 ^ n + 2 ^ (n + 1) ≤ 2 * m))
      let k : Int := if up then e + n + 1 else e + n
      encodeUe8 rm (.fin false m e) =
        if k < -127 then ⟨0, Flag.unf ||| Flag.nx⟩ else if 127 < k then ⟨0xFE, Flag.ovf ||| Flag.nx⟩
        else ⟨(k + 127).toNat, if m = 2 ^ n then 0 else Flag.nx⟩)

/-- R101 and R102: a conversion copies B32; it leaves an unscaled value of the same format as it is, but for a NaN; else it writes the exact scaled
value in the other format, saturating. -/
def Conversions : Prop :=
  ∀ x y rm c, x ≤ 15 → y ≤ 15 → x ≠ 14 → y ≠ 14 → rm ≤ 4 →
    let put := fun (v : FVal) => if 7 ≤ y ∧ y ≤ 13 then encodeInt y rm v else if y = 15 then encodeUe8 rm v else encodeFloat y rm true v
    (x = 0 ∨ y = 0 → ∀ sc, convert x y rm sc c = ⟨c % 2 ^ 32, 0⟩) ∧
    (x ≠ 0 → y ≠ 0 →
      (x = y → convert x y rm .none c =
        if decodeVal x c = .nan then ⟨if x = 15 then 0xFF else canonical x, 0⟩ else ⟨c % 2 ^ etBits x, 0⟩) ∧
      (x ≠ y → convert x y rm .none c = put (decodeVal x c)) ∧
      convert x y rm .nan c = put .nan ∧
      ∀ k, convert x y rm (.pow k) c = put (match decodeVal x c with | .fin neg m e => .fin neg m (e + k) | v => v))

/-- R108, R111, R330, R333 and R334: each sum, difference, product and fused combination is the exact one, rounded once. -/
def Arithmetic : Prop :=
  (∀ et rm a b c, 1 ≤ et → et ≤ 3 → rm ≤ 4 → a < 2 * signBit et → b < 2 * signBit et → c < 2 * signBit et →
    let x := decodeVal et a
    let y := decodeVal et b
    let z := decodeVal et c
    let minus := match y with | .fin s m e => FVal.fin (!s) m e | .inf s => .inf (!s) | .nan => .nan
    Combined et rm [x, y] [some x, some y] (fpAdd et rm a b) ∧ Combined et rm [x, y] [some x, some minus] (fpSub et rm a b) ∧
    Combined et rm [x, y] [product x y] (fpMul et rm a b) ∧ Combined et rm [x, y, z] [product x y, some z] (fpFma et rm a b c)) ∧
  (∀ et rm a b d, et = 2 ∨ et = 3 → rm ≤ 4 → a < 2 ^ 32 → b < 2 ^ 32 → d < 2 ^ 32 →
    let lo := fun (x : Nat) => decodeVal et (x % 2 ^ 16)
    let hi := fun (x : Nat) => decodeVal et (x / 2 ^ 16)
    let z := decodeVal 1 d
    Combined 1 rm [lo a, hi a, lo b, hi b, z] [product (lo a) (lo b), product (hi a) (hi b), some z] (fpDp2 et rm a b d))

/-- R329, R335 and R336: the sign functions, the lesser and the greater of two elements, and the conditions of FSET. -/
def Comparisons : Prop :=
  ∀ et a b, 1 ≤ et → et ≤ 3 → a < 2 * signBit et → b < 2 * signBit et →
    (∀ neg, fpSign et neg a = if isNan et a then canonical et else if neg then (a + signBit et) % (2 * signBit et) else a % signBit et) ∧
    (∀ max, elemMinMax et max a b =
      if isNan et a || isNan et b then canonical et
      else if max then (if key et b ≤ key et a then a else b) else (if key et a ≤ key et b then a else b)) ∧
    ∀ c, c < 8 →
      let x : Int := if signBit et ≤ a then -Int.ofNat (a % signBit et) else Int.ofNat a
      let y : Int := if signBit et ≤ b then -Int.ofNat (b % signBit et) else Int.ofNat b
      fpCond et c a b =
        if c = 6 then isNan et a || isNan et b else if c = 7 then !(isNan et a || isNan et b)
        else if isNan et a || isNan et b then c == 1 else compare c x y

/-- R331 and R332: the special inputs of the seven functions, and the correct rounding of reciprocals and roots, which compare exactly with a
fraction. -/
def Functions : Prop :=
  ∀ et rm a, 1 ≤ et → et ≤ 3 → rm ≤ 4 → a < 2 * signBit et →
    let f := fun (fn : Nat) => fpFunc et rm fn a
    let inf := fun (neg : Bool) => code et neg (infinity et)
    let bad : Res := ⟨canonical et, Flag.nv⟩
    let one := encodeFloat et rm false (.fin false 1 0)
    match decodeVal et a with
    | .nan => ∀ fn, 0x12 ≤ fn → fn ≤ 0x18 → f fn = ⟨canonical et, 0⟩
    | .inf neg => f 0x12 = ⟨code et neg 0, 0⟩ ∧ f 0x13 = (if neg then bad else ⟨0, 0⟩) ∧ f 0x14 = (if neg then bad else ⟨inf false, 0⟩) ∧
        f 0x15 = (if neg then ⟨0, 0⟩ else ⟨inf false, 0⟩) ∧ f 0x16 = (if neg then bad else ⟨inf false, 0⟩) ∧ f 0x17 = bad ∧ f 0x18 = bad
    | .fin neg m e =>
      if m = 0 then f 0x12 = ⟨inf neg, Flag.ovf⟩ ∧ f 0x13 = ⟨inf neg, Flag.ovf⟩ ∧ f 0x14 = ⟨code et neg 0, 0⟩ ∧ f 0x15 = one ∧
        f 0x16 = ⟨inf true, Flag.ovf⟩ ∧ f 0x17 = ⟨code et neg 0, 0⟩ ∧ f 0x18 = one
      else
        let u := least et
        Written et rm false neg (4 * 2 ^ (-e - u).toNat) (fun n => n * m * 2 ^ (u + e).toNat) (f 0x12) ∧
        (neg = true → f 0x13 = bad ∧ f 0x14 = bad ∧ f 0x16 = bad) ∧
        (neg = false →
          Written et rm false false (16 * 2 ^ (-2 * u - e).toNat) (fun n => n * n * m * 2 ^ (2 * u + e).toNat) (f 0x13) ∧
          Written et rm false false (16 * m * 2 ^ (e - 2 * u).toNat) (fun n => n * n * 2 ^ (2 * u - e).toNat) (f 0x14))

/-- R114: an element of an MMA's accumulator, chunk by chunk: an integer sum that wraps, or one rounding to FP32 for each chunk. -/
def Elements : Prop :=
  ∀ (x y : Nat → FVal) c n (d : Word),
    let ks := (List.range 32).map (· + 32 * c)
    (mmaElem true x y c 0 d = (d, 0) ∧ mmaElem false x y c 0 d = (d, 0)) ∧
    mmaElem true x y c (n + 1) d =
      mmaElem true x y (c + 1) n (d + BitVec.ofInt 32 (ks.foldl (fun t k => t + (x k).at 0 * (y k).at 0) 0)) ∧
    ∃ r : Res, Chunked (decodeVal 1 d.toNat) (ks.map x) (ks.map y) r ∧
      mmaElem false x y c (n + 1) d =
        ((mmaElem false x y (c + 1) n (BitVec.ofNat 32 r.code)).1, r.flags ||| (mmaElem false x y (c + 1) n (BitVec.ofNat 32 r.code)).2)

end Sys2Proof.Rule

/-- R324, R326 and R329 to R335: the floating-point lane instructions complete under the formats they accept, write the result of each active
lane in the low bits with zeros above, and collect its flags. CVT, where neither side is CB2, copies raw bits if either side is B32; where a side is
CB2 it raises FORMAT (R58). R91 to R94, R101 to R109 and R329 to R336: what the results are, from the value of each code, the rounding modes, and
where a result saturates, overflows or is invalid; R114 the same of MMA's elements. The rounding of FEXP2, FLOG2, FSIN and FCOS of an ordinary input
is left out: it rests on log entry 21. That UE8 judges overflow after rounding to a power of two, where R106 speaks of a value above 2^127, and what it
takes for an infinity, are the model's reading (log entry 20), as are the powers of two below 2^-127 that it rounds to (log entry 89). -/
def Obligations.FloatLaneResults : Prop :=
  (∀ i s d et f, Rule.float s.me i = some (d, et, f) → Passes i s → ∃ t, exec i s = .next t ∧
    WritesV i s t d (fun l => BitVec.ofNat 32 ((f l).code % 2 ^ (if et = 1 then 32 else 16))) (Rule.flagsOf (s.acts i) f)) ∧
  (∀ h src d a s, Passes (.cvt h src d a) s → src.toNat ≠ 14 → s.me.mode.toNat % 32 ≠ 14 → ∃ t, exec (.cvt h src d a) s = .next t ∧
    if src = 0 ∨ s.me.mode.toNat % 32 = 0 then WritesV (.cvt h src d a) s t d (fun l => s.me.vreg a l) 0
    else
      let f := fun (l : Nat) => convert src.toNat (s.me.mode.toNat % 32) (s.me.mode.toNat / 32 % 8) .none ((s.me.vreg a l).toNat % 2 ^ etBits src.toNat)
      WritesV (.cvt h src d a) s t d (fun l => fillReg (s.me.mode.toNat % 32) (f l).code) (Rule.flagsOf (s.acts (.cvt h src d a)) f)) ∧
  (∀ h src d a s, Passes (.cvt h src d a) s → src.toNat = 14 ∨ s.me.mode.toNat % 32 = 14 →
    Traps (.cvt h src d a) s 0x0E (s.me.mode.setWidth 64) (s.em &&& s.me.guard)) ∧
  Rule.Codes ∧ Rule.Encodings ∧ Rule.Conversions ∧ Rule.Arithmetic ∧ Rule.Comparisons ∧ Rule.Functions ∧ Rule.Elements

/-- R110, R112, R299 and R301: LPFX is a left fold over the active lanes, inclusive or exclusive; LRED is the pairwise tree over lane numbers. `flags`
collects those of every sum, of an exclusive LPFX the last sum too, which no lane receives: that is the model's choice (log entry 17). -/
def Obligations.FoldResults : Prop :=
  (∀ h d a excl s, Passes (.lpfx h d a excl) s → (s.me.mode.toNat % 32 = 1 ∨ s.me.mode.toNat % 32 = 7 ∨ s.me.mode.toNat % 32 = 11) →
    let run := Rule.running (s.me.mode.toNat % 32) (s.me.mode.toNat / 32 % 8) (s.acts (.lpfx h d a excl)) fun l => (s.me.vreg a l).toNat
    ∃ t, exec (.lpfx h d a excl) s = .next t ∧
      WritesV (.lpfx h d a excl) s t d (fun l => BitVec.ofNat 32 (((run (if excl then l else l + 1)).map (·.code)).getD 0)) (((run 32).map (·.flags)).getD 0)) ∧
  (∀ h d a kind s, Passes (.lred h d a kind) s → kind.toNat < 3 →
    (s.me.mode.toNat % 32 = 1 ∨ s.me.mode.toNat % 32 = 7 ∨ s.me.mode.toNat % 32 = 11) →
    let et := s.me.mode.toNat % 32
    let f := fun (x y : Res) =>
      if kind = 0 then (if et = 1 then fpAdd et (s.me.mode.toNat / 32 % 8) x.code y.code else ⟨(x.code + y.code) % 2 ^ 32, 0⟩)
      else ⟨elemMinMax et (kind == 2) x.code y.code, 0⟩
    let r := (Rule.tree f (fun l => if (s.acts (.lred h d a kind)).getLsbD l then some ⟨(s.me.vreg a l).toNat, 0⟩ else none) 5 0).getD ⟨0, 0⟩
    ∃ t, exec (.lred h d a kind) s = .next t ∧ WritesV (.lred h d a kind) s t d (fun _ => BitVec.ofNat 32 r.code) r.flags)

/-- R46: MODE writes each bit of the fields that its mask selects from its literal, keeps every other bit, and changes nothing else; a literal
that it refuses raises ILLMODE and leaves `mode` as it is. -/
def Obligations.ModeFields : Prop :=
  ∀ h msk lit s, Passes (.mode h msk lit) s →
    (¬ Rule.modeRefused msk lit → ∃ t, exec (.mode h msk lit) s = .next t ∧ RegStep (.mode h msk lit) s t ∧
      (∀ j, j < 32 → t.me.mode.getLsbD j = if (match Rule.modeBit j with
        | some k => msk.getLsbD k
        | none => false) = true then lit.getLsbD j else s.me.mode.getLsbD j) ∧
      KeepsV s t ∧ KeepsS s t ∧ KeepsP s t ∧ KeepsFlags s t) ∧
    (Rule.modeRefused msk lit → Traps (.mode h msk lit) s 0x02 (lit.setWidth 64) (s.em &&& s.me.guard))

/-- R321: CSRR writes sD with the CSR's value at issue, which its map gives (R52, R115, R142, R143, R153, R156, R202, R229, R231, R255, R322, R323); a
number that names no CSR raises ILLEGAL. -/
def Obligations.CsrReads : Prop :=
  ∀ h d n s, Passes (.csrr h d n) s →
    (∀ x, Rule.csr s n.toNat = some x → ∃ t, exec (.csrr h d n) s = .next t ∧ WritesS (.csrr h d n) s t d x) ∧
    (∀ x, s.csr (s.env (.csrr h d n)) n.toNat = some x → ∃ t, exec (.csrr h d n) s = .next t ∧ WritesS (.csrr h d n) s t d (BitVec.ofNat 64 x)) ∧
    (s.csr (s.env (.csrr h d n)) n.toNat = none → Traps (.csrr h d n) s 0x01 (Instr.tvalWord (.csrr h d n)) (s.em &&& s.me.guard))

/-- A stand without the fields that a CSRW can write, and without what commitment changes. -/
def Sys2Proof.Rule.csrRest (st : Stand) : Stand :=
  { st with flags := 0, taskrec := 0, vxTrap := false, stalled := false, hopeless := false, accref := 0, scloff := 0, tcause := 0, tepc := 0, tval := 0,
            tmask := 0, tscratch := 0, paths := [], retcnt := 0, lastRet := 0, region := none, replays := [] }

/-- R5, R43, R255 and R321: CSRW writes the writable bits of a CSR from the scalar, clears bits that are cleared by writing one, and leaves
every read-only and reserved bit, and every other CSR, as it was. -/
def Obligations.CsrWrites : Prop :=
  ∀ h d n s, Passes (.csrw h d n) s → (s.csr (s.env (.csrw h d n)) n.toNat).isSome = true →
    let x := s.me.sreg d
    ∃ t, exec (.csrw h d n) s = .next t ∧ Advances s t (s.nextPc (.csrw h d n)) ∧ OnlyMe s t ∧ Rule.csrRest t.me = Rule.csrRest s.me ∧
      t.me.flags = (if n = 0x001 then x.extractLsb' 0 4 else s.me.flags) ∧
      t.me.taskrec = (if n = 0x019 then x else s.me.taskrec) ∧
      t.me.vxTrap = (if n = 0x036 then x.getLsbD 0 else s.me.vxTrap) ∧
      t.me.stalled = (if n = 0x036 ∧ x.getLsbD 1 = true then false else s.me.stalled) ∧
      t.me.hopeless = (if n = 0x036 ∧ x.getLsbD 2 = true then false else s.me.hopeless) ∧
      t.me.accref = (if n = 0x040 then x.extractLsb' 0 32 else s.me.accref) ∧
      t.me.scloff = (if n = 0x070 then x.extractLsb' 0 32 else s.me.scloff) ∧
      (∀ k, k < 64 → t.me.tcause.getLsbD k = if n = 0x100 ∧ (32 ≤ k ∨ k = 9) then x.getLsbD k else s.me.tcause.getLsbD k) ∧
      (∀ k, k < 64 → t.me.tepc.getLsbD k = if n = 0x101 ∧ k < 17 then x.getLsbD k else s.me.tepc.getLsbD k) ∧
      t.me.tval = (if n = 0x102 then x else s.me.tval) ∧
      (∀ k, k < 64 → t.me.tmask.getLsbD k = if n = 0x103 ∧ k < 32 then x.getLsbD k else s.me.tmask.getLsbD k) ∧
      t.me.tscratch = (if n = 0x105 then x else s.me.tscratch)

/-- R123: ACVT converts the 64-bit addresses of the active lanes between window-relative and generic form; an address of another kind gives all
ones. -/
def Obligations.AddressConversion : Prop :=
  ∀ h gen win d a s, Passes (.acvt h gen win d a) s → win.toNat < 3 → d.toNat ≤ 125 → a.toNat ≤ 125 →
    let i : Instr := .acvt h gen win d a
    ∃ t, exec i s = .next t ∧ RegStep i s t ∧ KeepsS s t ∧ KeepsP s t ∧ KeepsMode s t ∧ KeepsFlags s t ∧
      (∀ l, l < 32 → (s.acts i).getLsbD l = true →
        t.me.pair d l =
          let x := s.me.pair a l
          if gen then (if x.extractLsb' 56 8 = 0 then BitVec.ofNat 8 (0xF0 + win.toNat) ++ x.extractLsb' 0 56 else 0xFFFFFFFFFFFFFFFF#64)
          else (if x.extractLsb' 56 8 = BitVec.ofNat 8 (0xF0 + win.toNat) then (x.extractLsb' 0 56).setWidth 64 else 0xFFFFFFFFFFFFFFFF#64)) ∧
      (∀ l, l < 32 → (s.acts i).getLsbD l = false → t.me.pair d l = s.me.pair d l) ∧
      (∀ r l, l < 32 → r ≠ d → r ≠ d + 1 → t.me.vreg r l = s.me.vreg r l)

/-- R45, R59, R124, R299, R301, R324, R326, R333, R340, R342, R349 and R321: where the register instructions trap, with which cause and `tval`,
and that nothing of their own happens then. -/
def Obligations.RegisterTraps : Prop :=
  ∀ i s, Passes i s →
    let et := s.me.mode.toNat % 32
    let illmode := Traps i s 0x02 (s.me.mode.setWidth 64) (s.em &&& s.me.guard)
    let illegal := Traps i s 0x01 (Instr.tvalWord i) (s.em &&& s.me.guard)
    match i with
    | .iset _ c _ _ _ => 6 ≤ c.toNat → illegal
    | .lvote _ k _ _ => k = 3 → illegal
    | .acvt _ _ w _ _ => w = 3 → illegal
    | .lred _ _ _ k => (k = 3 → illegal) ∧ (k ≠ 3 → et ≠ 1 → et ≠ 7 → et ≠ 11 → illmode)
    | .lpfx .. => et ≠ 1 → et ≠ 7 → et ≠ 11 → illmode
    | .idp4 .. => et ≠ 9 → et ≠ 13 → illmode
    | .fdp2 .. => et ≠ 2 → et ≠ 3 → illmode
    | .fadd .. | .fsub .. | .fmul .. | .ffma .. | .fmin .. | .fmax .. | .fset .. | .fabs .. | .fneg .. | .frcp .. | .frsq .. | .fsqrt ..
    | .fexp2 .. | .flog2 .. | .fsin .. | .fcos .. => et ≠ 1 → et ≠ 2 → et ≠ 3 → illmode
    | .cvt _ src _ _ => (src = 14 ∨ et = 14) → Traps i s 0x0E (s.me.mode.setWidth 64) (s.em &&& s.me.guard)
    | .csrw _ _ n => s.csr (s.env i) n.toNat = none → illegal
    | _ => True

/-- A stand without its accumulators and handle registers as well. -/
def Sys2Proof.Rule.bare (st : Stand) : Stand := { st.rest with accs := [], hregs := [] }

/-- R302 and R314: AZERO clears an accumulator, AMOV reads a row or a column of one into the active lanes of a vector register, AMOVV writes a row
or a column from them, when no MMA and no ALD of the stand that names the accumulator is outstanding. -/
def Obligations.AccumulatorMoves : Prop :=
  (∀ h d s, Passes (.azero h d) s → s.accBusy s.me.uid d = false →
    ∃ t, exec (.azero h d) s = .next t ∧ Advances s t (s.nextPc (.azero h d)) ∧ OnlyMe s t ∧ Rule.bare t.me = Rule.bare s.me ∧
      KeepsV s t ∧ KeepsS s t ∧ KeepsP s t ∧ KeepsMode s t ∧ KeepsFlags s t ∧ t.me.hregs = s.me.hregs ∧
      ∀ a i j, i < 32 → j < 32 → t.me.acc a i j = if a = d then 0 else s.me.acc a i j) ∧
  (∀ h d a col n s, Passes (.amov h d a col n) s → s.accBusy s.me.uid a = false →
    ∃ t, exec (.amov h d a col n) s = .next t ∧
      WritesV (.amov h d a col n) s t d (fun l => if col then s.me.acc a l n.toNat else s.me.acc a n.toNat l) 0) ∧
  (∀ h d a col n s, Passes (.amovv h d a col n) s → s.accBusy s.me.uid d = false →
    ∃ t, exec (.amovv h d a col n) s = .next t ∧ Advances s t (s.nextPc (.amovv h d a col n)) ∧ OnlyMe s t ∧ Rule.bare t.me = Rule.bare s.me ∧
      KeepsV s t ∧ KeepsS s t ∧ KeepsP s t ∧ KeepsMode s t ∧ KeepsFlags s t ∧ t.me.hregs = s.me.hregs ∧
      ∀ b i j, i < 32 → j < 32 → t.me.acc b i j =
        let lane := if col then i else j
        let row := if col then j else i
        if b = d ∧ row = n.toNat ∧ (s.acts (.amovv h d a col n)).getLsbD lane = true then s.me.vreg a lane else s.me.acc b i j)

/-! ## Control and the path table -/

/-- The PCs that a branch may go to (R315). -/
def Sys2Proof.Rule.pcRange (x : Int) : Prop := 16 ≤ x ∧ x < 131072

/-- R352 and R377: NOP and YIELD complete and change nothing but the PC, whatever `em` holds. R53: WAIT completes, with no other effect, exactly
when each counter is at or below its limit and no token of its mask is pending; otherwise the path waits at it. -/
def Obligations.NopYieldWait : Prop :=
  (∀ h s, Passes (.nop h) s → ∃ t, exec (.nop h) s = .next t ∧ Jumps s t (s.nextPc (.nop h))) ∧
  (∀ h s, Passes (.yield h) s → ∃ t, exec (.yield h) s = .next t ∧ Jumps s t (s.nextPc (.yield h))) ∧
  (∀ h lit s, Passes (.wait h lit) s →
    let ok := s.me.loads ≤ (lit.extractLsb' 0 6).toNat ∧ s.me.stores ≤ (lit.extractLsb' 6 6).toNat ∧ s.me.copies ≤ (lit.extractLsb' 12 6).toNat ∧
      s.me.tiles ≤ (lit.extractLsb' 18 6).toNat ∧ s.me.tokmask &&& lit.extractLsb' 24 8 = 0
    (ok → ∃ t, exec (.wait h lit) s = .next t ∧ Jumps s t (s.nextPc (.wait h lit))) ∧ (¬ ok → Waits (.wait h lit) s .counter))

/-- R320 and R359: CALL puts the offset of the word after its literal into sD and jumps, RET jumps to the offset in sA; a target outside 16 to
2^17 - 1 raises ILLEGAL before anything moves, and with an empty `em` both fall through. -/
def Obligations.CallAndReturn : Prop :=
  (∀ h d lit s, Passes (.call h d lit) s → s.cur.replay = false →
    (¬ Rule.pcRange (s.myPath.pc.toNat + lit.toInt) → Traps (.call h d lit) s 0x01 (Instr.tvalWord (.call h d lit)) (s.em &&& s.me.guard)) ∧
    (Rule.pcRange (s.myPath.pc.toNat + lit.toInt) → s.em = 0 → ∃ t, exec (.call h d lit) s = .next t ∧ Jumps s t (s.myPath.pc + 2)) ∧
    (Rule.pcRange (s.myPath.pc.toNat + lit.toInt) → s.em ≠ 0 → ∃ t, exec (.call h d lit) s = .next t ∧
      Advances s t (BitVec.ofInt 17 (s.myPath.pc.toNat + lit.toInt)) ∧ OnlyMe s t ∧ t.me.rest = s.me.rest ∧ KeepsV s t ∧ KeepsP s t ∧ KeepsMode s t ∧
      KeepsFlags s t ∧ (d ≠ 63 → t.me.sreg d = BitVec.ofNat 64 (s.myPath.pc.toNat + 2)) ∧ ∀ r, r ≠ d → t.me.sreg r = s.me.sreg r)) ∧
  (∀ h a s, Passes (.ret h a) s → s.cur.replay = false →
    (¬ Rule.pcRange (s.me.sreg a).toNat → Traps (.ret h a) s 0x01 (Instr.tvalWord (.ret h a)) (s.em &&& s.me.guard)) ∧
    (Rule.pcRange (s.me.sreg a).toNat → ∃ t, exec (.ret h a) s = .next t ∧
      Jumps s t (if s.em = 0 then s.myPath.pc + 1 else (s.me.sreg a).setWidth 17)))

/-- A path as a split starts it (R11, R13). -/
def Sys2Proof.Rule.branchPath (parent : Nat) (pc : BitVec 17) (mask : Mask) (age : Nat) : Path :=
  { state := .active, parent := BitVec.ofNat 3 parent, pc := pc, mask := mask, age := age, fresh := true }

/-- Overflow slot `i` of the stand at the issue position has been written as data where the stand's image place keeps it: its core holds the 16 bytes,
not yet published; no other byte and no other stand has changed (R14). -/
structure Sys2Proof.Rule.SlotWritten (s t : State) (i : Nat) : Prop where
  others : ∀ k, k ≠ s.cur.st → t.stand k = s.stand k
  memory : ∀ a, t.homeByte a = s.homeByte a
  bytes : i < 32 → t.me.overSlot i ≠ s.me.overSlot i →
    ∀ j, j < 16 → t.coreByte s.myCore (s.overPlace s.cur.st i + j) = BitVec.ofNat 8 ((t.me.overSlot i).bits / 2 ^ (8 * j))
  seen : ∀ k a, (k ≠ s.myCore ∨ a < s.overPlace s.cur.st i ∨ s.overPlace s.cur.st i + 16 ≤ a) → t.coreByte k a = s.coreByte k a

/-- R13 and R315: what a BRA does to its path. T are the lanes of `em` that take it. -/
def Obligations.BranchMoves : Prop :=
  ∀ h neg p tgt jn s, Passes (.bra h neg p tgt jn) s → s.cur.replay = false →
    let i : Instr := .bra h neg p tgt jn
    let me := s.cur.path
    let pc := s.myPath.pc
    let inRange := Rule.pcRange (pc.toNat + tgt.toInt) ∧ (jn = 0 ∨ Rule.pcRange (pc.toNat + jn.toInt))
    let target : BitVec 17 := pc + tgt.signExtend 17
    let join : BitVec 17 := pc + jn.signExtend 17
    let pr := s.pred p.toNat
    let taken := s.em &&& (if neg then pr ^^^ 0xFFFFFFFF#32 else pr)
    let rest := s.myPath.mask &&& (taken ^^^ 0xFFFFFFFF#32)
    let mixed := taken ≠ 0 ∧ taken ≠ s.em
    let now := s.cycOf s.myCore
    let illegal := Traps i s 0x01 (Instr.tvalWord i) (s.em &&& s.me.guard)
    (¬ inRange → illegal) ∧
    (inRange → taken = 0 → ∃ t, exec i s = .next t ∧ Jumps s t (pc + 2)) ∧
    (inRange → taken ≠ 0 → taken = s.em → ∃ t, exec i s = .next t ∧ Jumps s t target) ∧
    (inRange → mixed → jn = 0 → illegal) ∧
    (∀ f g more, inRange → mixed → jn ≠ 0 → s.myPath.state = .active → s.me.freePaths = f :: g :: more →
      ∃ t, exec i s = .next t ∧ Counted s t ∧ Quiet s t ∧
        t.myPath = { s.myPath with state := .record, jt := join, aux := 0, part := none, parked := none } ∧
        t.me.path f = Rule.branchPath me target taken now ∧ t.me.path g = Rule.branchPath me (pc + 2) rest now ∧
        ∀ j, j ≠ me → j ≠ f → j ≠ g → t.me.path j = s.me.path j) ∧
    (inRange → mixed → jn ≠ 0 → s.myPath.state = .active → s.me.freePaths.length < 2 →
      ∃ t, exec i s = .next t ∧ Counted s t ∧ Quiet s t ∧
        t.myPath = { s.myPath with state := .serial, pc := target, mask := taken, xpc := pc + 2, aux := rest, jt := join, link := 0,
                                   part := none, parked := none } ∧
        ∀ j, j ≠ me → t.me.path j = s.me.path j) ∧
    (∀ slot, inRange → mixed → jn ≠ 0 → (s.myPath.state = .serial ∨ s.myPath.state = .serialj) → SMap.lowestFree s.me.ovf 0 32 = some slot →
      ∃ t, exec i s = .next t ∧ Counted s t ∧ Rule.SlotWritten s t slot ∧ { t.me.rest with ovf := [] } = { s.me.rest with ovf := [] } ∧
        KeepsV s t ∧ KeepsS s t ∧ KeepsP s t ∧ KeepsMode s t ∧ KeepsFlags s t ∧
        t.myPath = { s.myPath with state := .serial, pc := target, mask := taken, xpc := pc + 2, aux := rest, jt := join,
                                   link := BitVec.ofNat 6 (slot + 1), part := none, parked := none } ∧
        t.me.overSlot slot = s.myPath.entry ∧ (∀ j, j ≠ slot → t.me.overSlot j = s.me.overSlot j) ∧
        ∀ j, j ≠ me → t.me.path j = s.me.path j)

/-- The groups of an indexed branch: the lanes of `em` by their targets `t`, ordered by their lowest lanes, the first with the disabled lanes of the path
as well (R318). -/
structure Sys2Proof.Rule.Grouped (em mask : Mask) (t : Nat → Option Nat) (gs : List (Nat × Mask)) : Prop where
  distinct : (gs.map (·.1)).Nodup
  named : ∀ g ∈ gs, ∃ l, l < 32 ∧ em.getLsbD l = true ∧ t l = some g.1
  covered : ∀ l, l < 32 → em.getLsbD l = true → ∃ g ∈ gs, t l = some g.1
  lanes : ∀ i g, gs[i]? = some g → ∀ l, l < 32 →
    g.2.getLsbD l = ((em.getLsbD l && t l == some g.1) || (decide (i = 0) && mask.getLsbD l && !em.getLsbD l))
  order : gs.Pairwise fun (g h : Nat × Mask) =>
    ∃ l, l < 32 ∧ em.getLsbD l = true ∧ t l = some g.1 ∧ ∀ m, m < 32 → em.getLsbD m = true → t m = some h.1 → l < m

/-- R317 to R319: where every lane of `em` names one target, BRX moves the whole path there; where they name several it splits it, into entries of the
table or serially, on the join J or one word lower on the ladder, and raises ILLEGAL where it was declared uniform or the ladder is used up. With an
empty `em` it falls through; with no entries it raises ILLEGAL. The table is read in the issue cycle: `accs` are its checked places, `val` what they
hold. -/
def Obligations.IndexedBranchMoves : Prop :=
  ∀ h n a b s, Passes (.brx h n a b) s → s.cur.replay = false →
    let i : Instr := .brx h n a b
    (n = 0 → Traps i s 0x01 (Instr.tvalWord i) (s.em &&& s.me.guard)) ∧
    (n ≠ 0 → s.em = 0 → ∃ t, exec i s = .next t ∧ Jumps s t (s.myPath.pc + 1)) ∧
    (∀ s1 accs low j, n ≠ 0 → s.em ≠ 0 →
      let used := (Mask.toList s.em).filter fun l => decide ((s.me.vreg a l).toNat < n.toNat)
      let ask := (32, s.me.sreg b) :: used.map fun l => (l, BitVec.ofNat 64 ((s.me.sreg b).toNat + 8 * (1 + (s.me.vreg a l).toNat)))
      let bytes := accs.flatMap fun x => x.pl.span 8
      let s2 := accs.foldl (fun u x => u.readFill s.myCore none x.pl) s1
      let val := fun (l : Nat) => (accs.find? fun x => x.lane == l).map fun x => leNat ((x.pl.span 8).map (s2.readPlace s.myCore none))
      let code := fun (a : Nat) => let w := (a - (s.kernelOf s.me).addr.toNat) / 4
        if (s.kernelOf s.me).addr.toNat ≤ a ∧ (a - (s.kernelOf s.me).addr.toNat) % 4 = 0 ∧ 16 ≤ w ∧ w < 131072 then some w else none
      let goes := fun (l : Nat) => match val l with
        | none => some (s.myPath.pc.toNat + 1)
        | some w => code w
      let me := s.cur.path
      let p := s.myPath
      let ladder := p.state = .serialj ∧ j + 1 ≤ p.jt.toNat + min n.toNat 31 ∧ p.jt.toNat ≤ j
      let illegal := exec i s = .next (((s.env i).leave s2).takeTrap s.cur.st me p.pc false
        { cause := 0x01, tval := Instr.tvalWord i, tmask := s.trapMask i (s.em &&& s.me.guard), part := (s.env i).partDone })
      let frame := fun (t : State) => Counted s t ∧ KeepsV s t ∧ KeepsS s t ∧ KeepsP s t ∧ KeepsMode s t ∧ KeepsFlags s t ∧
        (∀ k, k ≠ s.cur.st → t.stand k = s.stand k) ∧ ∀ x, t.homeByte x = s.homeByte x
      (s.env i).accessWait s true false = none → s.access s.cur.st true brxNeed ask = (s1, .go accs 0 low) → accs.length = ask.length →
      s1.earlierAccess s.me.uid s1.nextId bytes = false → bytes.any (s1.rangeHeld .load) = false → (s1.core s.myCore).combine = [] →
      s1.earlier s.me.uid s1.nextId Out.ownScratch = false → s.me.failedInto bytes [] = none → (∀ x ∈ accs, s1.poisonedAt x.pl = false) →
      ((val 32 = some 0 ∧ j = 0) ∨ ∃ w, val 32 = some w ∧ w ≠ 0 ∧ code w = some j) → (∀ l ∈ Mask.toList s.em, (goes l).isSome = true) →
      ∃ gs : List (Nat × Mask), Rule.Grouped s.em p.mask goes gs ∧
        (∀ g, gs = [g] → ∃ t, exec i s = .next t ∧ Advances s t (BitVec.ofNat 17 g.1) ∧ t.me.rest = s.me.rest ∧ frame t) ∧
        (2 ≤ gs.length → j = 0 → illegal) ∧
        (2 ≤ gs.length → j ≠ 0 → ladder → p.jt.toNat + min n.toNat 31 = j + 1 → illegal) ∧
        (2 ≤ gs.length → j ≠ 0 → p.state = .active → gs.length ≤ s.me.freePaths.length → ∃ t, exec i s = .next t ∧ t.me.rest = s.me.rest ∧ frame t ∧
          t.myPath = { p with state := .record, jt := BitVec.ofNat 17 j, aux := 0, part := none, parked := none } ∧
          (∀ (k : Nat) (g : Nat × Mask) (f : Nat), gs[k]? = some g → s.me.freePaths[k]? = some f → t.me.path f = Rule.branchPath me (BitVec.ofNat 17 g.1) g.2 (s.cycOf s.myCore)) ∧
          ∀ k, k ≠ me → k ∉ s.me.freePaths.take gs.length → t.me.path k = s.me.path k) ∧
        (∀ g more, gs = g :: more → more ≠ [] → j ≠ 0 → p.state = .active → s.me.freePaths.length < gs.length → ∃ t, exec i s = .next t ∧
          t.me.rest = s.me.rest ∧ frame t ∧
          t.myPath = { p with state := .serial, pc := BitVec.ofNat 17 g.1, mask := g.2, xpc := p.pc, aux := p.mask &&& (g.2 ^^^ 0xFFFFFFFF#32),
                              jt := BitVec.ofNat 17 j, link := 0, part := none, parked := none } ∧
          ∀ k, k ≠ me → t.me.path k = s.me.path k) ∧
        (∀ g more slot, gs = g :: more → more ≠ [] → j ≠ 0 → (p.state = .serial ∨ p.state = .serialj) → ¬ (ladder ∧ p.jt.toNat + min n.toNat 31 = j + 1) →
          SMap.lowestFree s.me.ovf 0 32 = some slot → ∃ t, exec i s = .next t ∧ { t.me.rest with ovf := [] } = { s.me.rest with ovf := [] } ∧ frame t ∧
          (ladder → t.myPath = { p with state := .serial, pc := BitVec.ofNat 17 g.1, mask := g.2, xpc := p.pc, aux := p.mask &&& (g.2 ^^^ 0xFFFFFFFF#32),
                                        jt := p.jt - 1, link := BitVec.ofNat 6 (slot + 1), part := none, parked := none }) ∧
          (¬ ladder → t.myPath = { p with state := .serial, pc := BitVec.ofNat 17 g.1, mask := g.2, xpc := p.pc, aux := p.mask &&& (g.2 ^^^ 0xFFFFFFFF#32),
                                          jt := BitVec.ofNat 17 j, link := BitVec.ofNat 6 (slot + 1), part := none, parked := none }) ∧
          t.me.overSlot slot = p.entry ∧ (∀ k, k ≠ slot → t.me.overSlot k = s.me.overSlot k) ∧ ∀ k, k ≠ me → t.me.path k = s.me.path k))

/-- R15: what JOIN does to the executing entry, by its state. With a LINK the displaced content comes back from its overflow slot, where R261 places it,
and an uncorrectable error there halts the context (R14). That the GROUPLINEs which a path has still to raise go on with its lanes is the model's
choice (log entry 45). -/
def Obligations.JoinMerges : Prop :=
  ∀ h s, Passes (.join h) s → s.cur.replay = false →
    let i : Instr := .join h
    let me := s.cur.path
    let p := s.myPath
    let r := p.parent.toNat
    let q := s.me.path r
    let now := s.cycOf s.myCore
    (p.state = .active → (q.state ≠ .record ∨ r = me ∨ p.pc ≠ q.jt) → ∃ t, exec i s = .next t ∧ Jumps s t (p.pc + 1)) ∧
    (p.state = .active → q.state = .record → r ≠ me → p.pc = q.jt → ∃ t, exec i s = .next t ∧ Counted s t ∧ Quiet s t ∧ t.myPath = {} ∧
      t.me.path r = (if q.aux ||| p.mask = q.mask then
          { q with state := .active, pc := q.jt + 1, aux := 0, jt := 0, age := now, wait := none, glines := q.glines ++ p.glines }
        else { q with aux := q.aux ||| p.mask, glines := q.glines ++ p.glines }) ∧
      ∀ j, j ≠ me → j ≠ r → t.me.path j = s.me.path j) ∧
    (p.state = .serial → p.pc ≠ p.jt → ∃ t, exec i s = .next t ∧ Jumps s t (p.pc + 1)) ∧
    (p.state = .serial → p.pc = p.jt → ∃ t, exec i s = .next t ∧ Counted s t ∧ Quiet s t ∧
      t.myPath = { p with state := .serialj, aux := p.mask, mask := p.aux, pc := p.xpc, xpc := 0, part := none, parked := none } ∧
      ∀ j, j ≠ me → t.me.path j = s.me.path j) ∧
    (p.state = .serialj → p.pc ≠ p.jt → ∃ t, exec i s = .next t ∧ Jumps s t (p.pc + 1)) ∧
    (p.state = .serialj → p.pc = p.jt → p.link = 0 → ∃ t, exec i s = .next t ∧ Counted s t ∧ Quiet s t ∧
      t.myPath = { p with state := .active, mask := p.mask ||| p.aux, pc := p.jt + 1, aux := 0, jt := 0, xpc := 0, age := now, wait := none,
                          part := none, parked := none } ∧
      ∀ j, j ≠ me → t.me.path j = s.me.path j) ∧
    (p.state = .serialj → p.pc = p.jt → p.link ≠ 0 → s.poisonedAt (.mem (s.overPlace s.cur.st (p.link.toNat - 1))) = true → p.link.toNat ≤ 32 →
      s.me.overSlot (p.link.toNat - 1) ≠ {} → exec i s = .next (s.fatal (dieOfCore s.myCore)
        ⟨s.me.ctx, s.gsi s.cur.st, 0x21, me * 2 ^ 17 + p.pc.toNat, BitVec.ofNat 64 (s.overPlace s.cur.st (p.link.toNat - 1)), now⟩)) ∧
    (p.state = .serialj → p.pc = p.jt → p.link ≠ 0 → s.poisonedAt (.mem (s.overPlace s.cur.st (p.link.toNat - 1))) = false →
      ∃ t, exec i s = .next t ∧ Counted s t ∧ Rule.SlotWritten s t (p.link.toNat - 1) ∧
      { t.me.rest with ovf := [] } = { s.me.rest with ovf := [] } ∧ KeepsV s t ∧ KeepsS s t ∧ KeepsP s t ∧ KeepsMode s t ∧ KeepsFlags s t ∧
      (let o := s.me.overSlot (p.link.toNat - 1)
       t.myPath.state = o.state ∧ t.myPath.held = o.held ∧ t.myPath.parent = o.parent ∧ t.myPath.link = o.link ∧ t.myPath.jt = o.jt ∧ t.myPath.xpc = o.xpc ∧
       t.myPath.aux = o.aux ∧ t.myPath.mask = p.mask ||| p.aux ∧ t.myPath.pc = p.jt + 1) ∧
      t.me.overSlot (p.link.toNat - 1) = {} ∧ ∀ j, j ≠ me → t.me.path j = s.me.path j)

/-- R16, R327 and R328: with an empty `em` EXIT falls through; where lanes of the path remain it takes the others out of the entry, out of its records and
out of the content that its LINK reaches, and goes on; where none remain, a root entry becomes FREE; an entry under a record becomes FREE and the record
loses the lanes, merges where those that have joined are all it has left, and becomes FREE where it has none; the suspended lanes of a SERIAL entry
run, those of a SERIALJ entry go on behind the join, with the displaced content where there is a LINK. Any EXIT with a lane ends the stand's region. In the
handler it ends the handler where the running group of the handler's entry has no lane left, and does not count in `retcnt` (R221). -/
def Obligations.ExitRemovesLanes : Prop :=
  ∀ h s, Passes (.exit h) s → s.cur.replay = false →
    let i : Instr := .exit h
    let me := s.cur.path
    let p := s.myPath
    let r := p.parent.toNat
    let q := s.me.path r
    let out := s.em ^^^ 0xFFFFFFFF#32
    let now := s.cycOf s.myCore
    let slot := p.link.toNat - 1
    let o := s.me.overSlot slot
    let goes : State → Prop := fun t => exec i s = .next t ∧ OnlyMe s t ∧ KeepsV s t ∧ KeepsS s t ∧ KeepsP s t ∧ KeepsMode s t ∧ KeepsFlags s t ∧
      t.me.region = none ∧ t.me.hregs = s.me.hregs ∧ t.me.accs = s.me.accs ∧
      t.me.retcnt = (if s.me.inHandler = none then s.me.retcnt + 1 else s.me.retcnt) ∧
      (t.me.tcause, t.me.tepc, t.me.tval, t.me.tmask) = (s.me.tcause, s.me.tepc, s.me.tval, s.me.tmask) ∧
      (s.me.inHandler = none → t.me.inHandler = none) ∧
      (s.em = p.mask → s.me.inHandler = some me → t.me.inHandler = none ∧ t.me.deferred = false ∧ t.me.kept = none) ∧
      (∀ e, s.em ≠ p.mask → s.me.inHandler = some e → (s.me.path e).state ≠ .free → t.me.inHandler = some e)
    let linked := p.link.toNat ≤ 32 ∧ p.link ≠ 0 ∧ o.link = 0 ∧ s.poisonedAt (.mem (s.overPlace s.cur.st slot)) = false
    (s.em = 0 → ∃ t, exec i s = .next t ∧ Jumps s t (p.pc + 1)) ∧
    (s.em ≠ 0 → s.em ≠ p.mask → (p.state = .serial ∨ p.state = .serialj) → p.link = 0 → r = me → ∃ t, goes t ∧
      t.myPath = { p with mask := p.mask &&& out, pc := p.pc + 1, part := none, parked := none } ∧ ∀ j, j ≠ me → t.me.path j = s.me.path j) ∧
    (s.em ≠ 0 → s.em = p.mask → p.state = .serial → p.aux ≠ 0 → p.link = 0 → r = me → ∃ t, goes t ∧
      t.myPath = { p with state := .serialj, mask := p.aux, aux := 0, pc := p.xpc, xpc := 0, part := none, parked := none } ∧
      ∀ j, j ≠ me → t.me.path j = s.me.path j) ∧
    (s.em ≠ 0 → s.em = p.mask → p.state = .serialj → p.aux ≠ 0 → p.link = 0 → r = me → ∃ t, goes t ∧
      t.myPath = { p with state := .active, mask := p.aux, aux := 0, pc := p.jt + 1, jt := 0, xpc := 0, age := now, wait := none, part := none, parked := none } ∧
      ∀ j, j ≠ me → t.me.path j = s.me.path j) ∧
    (s.em ≠ 0 → s.em = p.mask → (p.state = .serial ∨ p.state = .serialj) → p.aux = 0 → p.link = 0 → r = me → ∃ t, exec i s = .next t ∧ KeepsRegs s t ∧
      t.me.flags = s.me.flags ∧ t.me.region = none ∧ t.myPath = {} ∧ ∀ j, j ≠ me → t.me.path j = s.me.path j) ∧
    (s.em ≠ 0 → s.em ≠ p.mask → (p.state = .serial ∨ p.state = .serialj) → linked → r = me → ∃ t, exec i s = .next t ∧ KeepsRegs s t ∧
      t.me.flags = s.me.flags ∧ t.me.region = none ∧ t.myPath = { p with mask := p.mask &&& out, pc := p.pc + 1, part := none, parked := none } ∧
      t.me.overSlot slot = { o with mask := o.mask &&& out } ∧ (∀ j, j ≠ slot → t.me.overSlot j = s.me.overSlot j) ∧
      (∀ j, j ≠ me → t.me.path j = s.me.path j) ∧ ∀ a, t.homeByte a = s.homeByte a) ∧
    (s.em ≠ 0 → s.em = p.mask → p.state = .serialj → p.aux ≠ 0 → linked → r = me → ∃ t, exec i s = .next t ∧ KeepsRegs s t ∧
      t.me.flags = s.me.flags ∧ t.me.region = none ∧
      (t.myPath.state, t.myPath.mask, t.myPath.pc, t.myPath.jt, t.myPath.xpc, t.myPath.aux, t.myPath.link) = (o.state, p.aux, p.jt + 1, o.jt, o.xpc, o.aux, o.link) ∧
      t.me.overSlot slot = {} ∧ (∀ j, j ≠ slot → t.me.overSlot j = s.me.overSlot j) ∧ (∀ j, j ≠ me → t.me.path j = s.me.path j) ∧
      ∀ a, t.homeByte a = s.homeByte a) ∧
    (s.em ≠ 0 → s.em = p.mask → p.state = .active → p.link = 0 → r ≠ me → q.state = .record → q.parent.toNat = r → q.link = 0 →
      q.mask &&& out ≠ 0 → q.aux = q.mask &&& out → p.glines = [] → ∃ t, goes t ∧ t.myPath = {} ∧
      t.me.path r = { q with state := .active, mask := q.mask &&& out, pc := q.jt + 1, aux := 0, jt := 0, age := now, wait := none } ∧
      ∀ j, j ≠ me → j ≠ r → t.me.path j = s.me.path j) ∧
    (s.em ≠ 0 → s.em = p.mask → p.state = .active → p.link = 0 → r ≠ me → q.state = .record → q.parent.toNat = r → q.link = 0 →
      q.mask &&& out = 0 → ∃ t, exec i s = .next t ∧ KeepsRegs s t ∧ t.me.flags = s.me.flags ∧ t.me.region = none ∧ t.myPath = {} ∧ t.me.path r = {} ∧
      ∀ j, j ≠ me → j ≠ r → t.me.path j = s.me.path j) ∧
    (s.em ≠ 0 → s.em ≠ p.mask → p.state = .active → p.link = 0 → r = me → ∃ t, goes t ∧
      t.myPath = { p with mask := p.mask &&& out, pc := p.pc + 1, part := none, parked := none }) ∧
    (s.em ≠ 0 → s.em = p.mask → p.state = .active → p.link = 0 → r = me → p.glines = [] → (∃ j, j < 8 ∧ j ≠ me ∧ (s.me.path j).state ≠ .free) →
      ∃ t, goes t ∧ t.myPath = {} ∧ ∀ j, j ≠ me → t.me.path j = s.me.path j) ∧
    (s.me.inHandler = none →
    (s.em ≠ 0 → s.em ≠ p.mask → p.state = .active → p.link = 0 → r = me → ∃ t, exec i s = .next t ∧ Quiet s t ∧
      t.me.region = none ∧ t.me.retcnt = s.me.retcnt + 1 ∧ t.myPath = { p with mask := p.mask &&& (s.em ^^^ 0xFFFFFFFF#32), pc := p.pc + 1, part := none, parked := none } ∧
      ∀ j, j ≠ me → t.me.path j = s.me.path j) ∧
    (s.em ≠ 0 → s.em = p.mask → p.state = .active → p.link = 0 → r = me → ∃ t, exec i s = .next t ∧ KeepsRegs s t ∧ t.me.flags = s.me.flags ∧
      t.me.region = none ∧ t.myPath = {} ∧ (∀ j, j ≠ me → t.me.path j = s.me.path j) ∧ t.me.retcnt = s.me.retcnt + 1) ∧
    (s.em ≠ 0 → s.em = p.mask → p.state = .active → p.link = 0 → r ≠ me → q.state = .record → q.parent.toNat = r → q.link = 0 →
      q.mask &&& out ≠ 0 → q.aux ≠ q.mask &&& out → ∃ t, exec i s = .next t ∧ KeepsRegs s t ∧ t.me.flags = s.me.flags ∧
      (p.glines = [] → (∀ a, t.homeByte a = s.homeByte a) ∧ ∀ k, k ≠ s.cur.st → t.stand k = s.stand k) ∧
      t.me.region = none ∧ t.myPath = {} ∧ t.me.path r = { q with mask := q.mask &&& out } ∧
      ∀ j, j ≠ me → j ≠ r → t.me.path j = s.me.path j))

/-- R258: IDEM records the region of the kernel's table that starts at its PC when the path runs alone and unlinked, is passed over when it does
not, and raises ILLEGAL where no region starts. -/
def Obligations.RegionEntry : Prop :=
  ∀ h s, Passes (.idem h) s → s.cur.replay = false →
    let i : Instr := .idem h
    let found := (s.kernelOf s.me).idems.find? fun r => r.1 == s.myPath.pc.toNat
    let alone := s.myPath.state = .active ∧ s.myPath.link = 0 ∧ ∀ j, j < 8 → j ≠ s.cur.path → (s.me.path j).state = .free
    (found = none → Traps i s 0x01 (Instr.tvalWord i) (s.em &&& s.me.guard)) ∧
    (∀ r, found = some r → ¬ alone → ∃ t, exec i s = .next t ∧ Jumps s t (s.myPath.pc + 1)) ∧
    (∀ r, found = some r → alone → ∃ t, exec i s = .next t ∧ Quiet s t ∧ t.myPath = { s.myPath with pc := s.myPath.pc + 1, part := none, parked := none } ∧
      (∀ j, j ≠ s.cur.path → t.me.path j = s.me.path j) ∧ t.me.retcnt = (if s.me.inHandler.isSome = true then s.me.retcnt else s.me.retcnt + 1) ∧
      t.me.region = if s.myPath.pc.toNat < r.2 then some ⟨r.1, r.2, s.myPath.mask, s.em⟩ else none)

/-! ## Traps -/

/-- R254, R255, R256, R379: where a trap is delivered, what it saves and where the path goes on; `mode`, `em` and every other register stay; a trap of a
replayed operation takes its record and keeps what the path itself had left to do; a hopeless charge is marked (R153). The operation whose parked
lanes trap completes without them, and its flags count then (R132). A record that traps while the handler serves an earlier one waits for that handler's
ERET (log entry 23, the model's choice). While a stand is in its handler, every path that the handler does not run on is held. -/
def Obligations.TrapEntry : Prop :=
  (∀ (s : State) (key idx : Nat) (oppc : BitVec 17) (rpl : Bool) (r : TrapRec),
     let st := s.stand key
     let k := s.kernelOf st
     let t := s.takeTrap key idx oppc rpl r
     let u := t.stand key
     idx < 8 → r.cause < 32 → r.info < 256 → (rpl = true → st.deferred = false) → st.inHandler = none → k.trapoff ≠ 0 → (k.trapen.getLsbD r.cause = true ∨ r.cause = 0x04) →
     (s.core (coreOf key)).trace.on = false →
     u.tcause.extractLsb' 32 32 = st.mode ∧ (u.tcause.extractLsb' 16 8).toNat = r.info ∧ u.tcause.getLsbD 10 = rpl ∧ u.tcause.getLsbD 9 = r.part ∧
     u.tcause.getLsbD 8 = r.imprec ∧ (u.tcause.extractLsb' 0 8).toNat = r.cause ∧
     (u.tepc.extractLsb' 17 3).toNat = idx ∧ u.tepc.extractLsb' 0 17 = (if rpl then (st.path idx).pc else oppc) ∧
     u.tval = r.tval ∧ u.tmask.extractLsb' 0 32 = r.tmask ∧ (rpl = true → u.tmask.extractLsb' 32 17 = oppc) ∧
     u.inHandler = some idx ∧ (u.path idx).pc = BitVec.ofNat 17 k.trapoff ∧ (u.path idx).mask = (st.path idx).mask ∧
     (u.path idx).part = none ∧ (u.path idx).parked = none ∧ u.replays = (if rpl then st.replays.drop 1 else st.replays) ∧
     u.deferred = rpl ∧ u.recount = (rpl && st.firstReplay.counts) ∧ u.kept = (if rpl then (st.path idx).left else none) ∧
     u.hopeless = (st.hopeless || (r.cause == 0x0A && r.tval.getLsbD 19)) ∧
     u.mode = st.mode ∧ u.dis = st.dis ∧ u.vregs = st.vregs ∧ u.sregs = st.sregs ∧ u.preds = st.preds ∧ u.hregs = st.hregs ∧ u.accs = st.accs ∧
     u.retcnt = st.retcnt ∧ u.tvec = st.tvec ∧ u.tscratch = st.tscratch ∧ (∀ j, j ≠ idx → u.path j = st.path j) ∧
     ((if rpl then st.replays.head?.bind (·.op) else (st.path idx).lead) = none → u.flags = st.flags ∧ ∀ j, j ≠ key → t.stand j = s.stand j) ∧
     (∀ op o, (if rpl then st.replays.head?.bind (·.op) else (st.path idx).lead) = some op → SMap.get? s.outs op = some o → o.work.idle = true →
       o.orphan = false → o.st = key → (SMap.get? s.stands key).isSome = true → o.acq = none → (∀ kv ∈ s.outs, kv.2.lead ≠ some op) →
       u.flags = st.flags ||| o.fl ∧ SMap.get? t.outs op = none) ∧
     ∀ a, t.homeByte a = s.homeByte a) ∧
  (∀ (s : State) (key idx : Nat) (oppc : BitVec 17) (r : TrapRec) (x : Replay) (xs : List Replay),
     let st := s.stand key
     let u := (s.takeTrap key idx oppc true r).stand key
     st.deferred = true → st.replays = x :: xs → r.cause ≠ 0x0A →
     u.replays = { x with wait := some .operand } :: xs ∧ u.inHandler = st.inHandler ∧ u.paths = st.paths ∧ u.deferred = true ∧
     (u.tcause, u.tepc, u.tval, u.tmask) = (st.tcause, st.tepc, st.tval, st.tmask)) ∧
  ∀ (st : Stand) (i j : Nat), st.inHandler = some i → st.pathReady j = true → st.underEntry i j 9 = true

/-- R256 and R257: a trap in the handler is a double trap, and a trap whose cause is not enabled, or that has no handler, a fatal machine check of
that kind: the context halts, and the record names the context, the stand, the kind, the PC and `tval`. -/
def Obligations.FatalTraps : Prop :=
  ∀ (s : State) (key idx : Nat) (oppc : BitVec 17) (r : TrapRec),
    let st := s.stand key
    let k := s.kernelOf st
    let t := s.takeTrap key idx oppc false r
    (s.ctx st.ctx).state ≠ .free → (s.ctx st.ctx).state ≠ .halted →
    (st.inHandler ≠ none → (t.ctx st.ctx).state = .halted ∧
      (t.ctx st.ctx).cmrec = some ⟨st.ctx, s.gsi key, 0x20, idx * 2 ^ 17 + oppc.toNat, r.tval, s.cycOf (coreOf key)⟩) ∧
    (st.inHandler = none → (k.trapoff = 0 ∨ (k.trapen.getLsbD r.cause = false ∧ r.cause ≠ 0x04)) → (t.ctx st.ctx).state = .halted ∧
      (t.ctx st.ctx).cmrec = some ⟨st.ctx, s.gsi key, r.cause, idx * 2 ^ 17 + oppc.toNat, r.tval, s.cycOf (coreOf key)⟩)

/-- R58, R59 and R258: ILLEGAL, TRAP and BRK raise their causes: an ILLEGAL word ILLEGAL with the word, TRAP SOFT with the scalar and the code,
and BRK, with no debugger attached, BREAK. With a debugger attached BRK leaves the path HELD before it and tells the debugger. -/
def Obligations.SoftwareTraps : Prop :=
  (∀ w s, Passes (.illegal w) s → Traps (.illegal w) s 0x01 (w.setWidth 64) (s.em &&& s.me.guard)) ∧
  (∀ h a code s, Passes (.trap h a code) s → exec (.trap h a code) s = .next (((s.env (.trap h a code)).leave s).takeTrap s.cur.st s.cur.path (s.env (.trap h a code)).pc s.cur.replay
    { cause := 0x10, tval := s.me.sreg a, tmask := s.em &&& s.me.guard, info := code.toNat })) ∧
  (∀ h s, Passes (.brk h) s →
    ((s.ctx s.me.ctx).debugger = false → Traps (.brk h) s 0x09 0 s.em) ∧
    ((s.ctx s.me.ctx).debugger = true → ∃ t, exec (.brk h) s = .next t ∧ t.myPath = { s.myPath with held := true, single := false } ∧
      t.sent = s.sent ++ [.debugStop s.me.ctx (s.gsi s.cur.st) s.cur.path] ∧ Quiet s { t with sent := s.sent } ∧
      t.me.retcnt = s.me.retcnt ∧ ∀ j, j ≠ s.cur.path → t.me.path j = s.me.path j))

/-- R258: ERET in a handler restores `mode` from `tcause`, ends the handler and goes on at `tepc`, once for the lanes of `tmask` when PART is set,
and issues a replayed operation again when RPL is set, after which the path goes on with what it had left. Outside a handler it raises ILLEGAL; a saved mode that MODE would refuse is a double trap. -/
def Obligations.ReturnFromTrap : Prop :=
  ∀ h s, Passes (.eret h) s → s.cur.replay = false →
    let i : Instr := .eret h
    let m := s.me.tcause.extractLsb' 32 32
    let bad := 2 ^ 25 ≤ m.toNat ∨ m.getLsbD 22 = true ∨ 0x10 ≤ m.toNat % 32 ∨ 5 ≤ m.toNat / 32 % 8 ∨ 6 ≤ m.toNat / 8192 % 8
    (s.me.inHandler = none →
      exec i s = .next (((s.env i).leave s).takeTrap s.cur.st s.cur.path s.myPath.pc false
        { cause := 0x01, tval := Instr.tvalWord i, tmask := s.em &&& s.me.guard })) ∧
    (s.me.inHandler ≠ none → bad → exec i s = .next (((s.env i).leave s).fatal (dieOfCore s.myCore)
      ⟨s.me.ctx, s.gsi s.cur.st, 0x20, s.cur.path * 2 ^ 17 + s.myPath.pc.toNat, Instr.tvalWord i, s.cycOf s.myCore⟩)) ∧
    (s.me.inHandler ≠ none → ¬ bad → ∃ t, exec i s = .next t ∧ OnlyMe s t ∧ t.me.mode = m ∧ t.me.inHandler = none ∧
      t.myPath.pc = s.me.tepc.setWidth 17 ∧ t.myPath.mask = s.myPath.mask ∧
      t.myPath.part = (if s.me.tcause.getLsbD 10 = true then s.me.kept else if s.me.tcause.getLsbD 9 = true then
        some { lanes := s.me.tmask.setWidth 32, exact := false } else none) ∧
      t.me.replays = (if s.me.tcause.getLsbD 10 = true then
        { pc := s.me.tmask.extractLsb' 32 17, path := s.cur.path, lanes := s.me.tmask.setWidth 32, counts := s.me.recount } :: s.me.replays
        else s.me.replays) ∧ t.me.recount = false ∧
      t.me.deferred = false ∧ t.me.kept = none ∧ t.me.region = regionAt s.myPath.pc s.me.region ∧
      KeepsV s t ∧ KeepsS s t ∧ KeepsP s t ∧ KeepsFlags s t ∧ t.me.hregs = s.me.hregs ∧ t.me.accs = s.me.accs ∧ t.me.retcnt = s.me.retcnt ∧
      t.me.tcause = s.me.tcause ∧ t.me.tepc = s.me.tepc ∧ t.me.tval = s.me.tval ∧ t.me.tmask = s.me.tmask ∧
      ∀ j, j ≠ s.cur.path → t.me.path j = s.me.path j)

/-! ## Instructions that leave an operation outstanding -/

/-- A memory access as its rule describes it: whether it is scalar, the checks that it asks of its places, the lanes with their addresses, whether
it reads, whether `mode.ORD` orders it, how it meets copies in flight, its vacate class and charge, its counter, the width of a lane's access, the
operation, its lanes, and the flags it sets as it commits. -/
structure Sys2Proof.Rule.Access where
  scalar : Bool
  need : Need
  ask : List (Nat × DWord)
  read : Bool
  ordered : Bool
  meet : Meet
  cls : Nat
  vu : Nat
  ctr : Ctr
  width : Acc → Nat
  work : List Acc → Work
  lanes : List Acc → Mask
  flags : List Acc → BitVec 4 := fun _ => 0

namespace Sys2Proof.Rule

/-- Bits of an element of a format, by its code (R89); a CB2 index has 16. -/
def width (f : Nat) : Nat := if f ∈ [0, 1, 7, 11] then 32 else if f ∈ [2, 3, 8, 12, 14] then 16 else if f ∈ [6, 10] then 4 else 8

/-- Bytes of an element of `mode.ET` in a window or on a B32 page, else of the page's format; of a 4-bit format the byte that holds it (R119, R345, R370). -/
def bytes (et fmt : Nat) : Nat := (width (if fmt = 0 then et else fmt) + 7) / 8

/-- The words that lanes name, each with its lanes (R308). -/
def words (accs : List Acc) : List AWord := groupWords accs

/-- Whether an atomic accepts `mode.ET` (R307). -/
def atomicEt (i : Instr) (et : Nat) : Bool :=
  match i with
  | .aadd .. | .amin .. | .amax .. => et == 1 || et == 7 || et == 11
  | .aand .. | .aor .. | .axor .. => et == 0 || et == 7 || et == 11
  | _ => et == 0 || et == 1 || et == 7 || et == 11

/-- An atomic of destination `d`, address pair `a` and operand `b` (R308). -/
def atomic (s : State) (i : Instr) (d a b : VReg) (swap : Bool) : Option Access :=
  let et := s.me.mode.toNat % 32
  let vals := fun (r : VReg) (accs : List Acc) => SMap.tabulate 0 (fun l => if (laneMask accs).getLsbD l then s.me.vreg r l else 0) 0 32
  if atomicEt i et then
    some { scalar := false, need := atomicNeed i et, ask := (Mask.toList (s.acts i)).map fun l => (l, s.me.pair a l), read := d != 127, ordered := true,
           meet := .store, cls := if d = 127 then 0 else 2, vu := if d = 127 then 0 else Config.chargeDetach, ctr := if d = 127 then .stores else .loads, width := fun _ => 4,
           work := fun accs => .atomic (words accs) et (s.me.mode.toNat / 32 % 8) (vals b accs) (if swap then vals (b + 1) accs else []) [] 0 0,
           lanes := laneMask }
  else none

/-- The accesses of LD, SLD, TAGGET, ST, SST, TAGSET and the atomics (R307, R308, R345, R346, R366, R367, R370, R371, R373); none where
`mode.ET` makes them trap. -/
def access (s : State) (i : Instr) : Option Access :=
  let et := s.me.mode.toNat % 32
  let rm := s.me.mode.toNat / 32 % 8
  let lanes := Mask.toList (s.acts i)
  match i with
  | .ld _ _ a b => if et = 14 then none else
      some { scalar := false, need := ldNeed et, ask := lanes.map fun l => (l, s.me.sreg b + (s.me.vreg a l).signExtend 64), read := true,
             ordered := true, meet := .load, cls := 1, vu := Config.chargeReplay, ctr := .loads, width := fun x => bytes et x.fmt,
             work := fun accs => .load accs s.me.scloff.toNat, lanes := laneMask }
  | .sld _ _ a =>
      some { scalar := true, need := scalNeed true, ask := [(0, s.me.sreg a)], read := true, ordered := true, meet := .load, cls := 1,
             vu := Config.chargeReplay, ctr := .loads, width := fun _ => 8,
             work := fun accs => .sload (accs.headD ⟨0, s.me.sreg a, .mem 0, 0, 0, 0, 0⟩), lanes := fun _ => 1 }
  | .tagget _ _ a =>
      some { scalar := false, need := tagNeed true, ask := lanes.map fun l => (l, s.me.pair a l), read := true, ordered := false, meet := .load,
             cls := 1, vu := Config.chargeReplay, ctr := .loads, width := fun _ => 1, work := .tagget, lanes := laneMask }
  | .st _ d a b => if et = 14 then none else
      some { scalar := false, need := stNeed et, ask := lanes.map fun l => (l, s.me.sreg b + (s.me.vreg a l).signExtend 64), read := false,
             ordered := true, meet := .store, cls := 0, vu := 0, ctr := .stores, width := fun x => bytes et x.fmt,
             work := fun accs => .store (accs.flatMap fun x => stBytes et rm x (s.me.vreg d x.lane)) (orderedScope s.me.mode), lanes := laneMask,
             flags := fun accs => orFlags (accs.map fun x => stRes et rm x.fmt (s.me.vreg d x.lane)) }
  | .sst _ d a =>
      some { scalar := true, need := scalNeed false, ask := [(0, s.me.sreg a)], read := false, ordered := true, meet := .store, cls := 0, vu := 0,
             ctr := .stores, width := fun _ => 8,
             work := fun accs => .store (accs.flatMap fun x =>
               (upFrom 0 8).map fun k => ⟨x.pl.add k, x.va, (s.me.sreg d).extractLsb' (8 * k) 8, 0xFF⟩) (orderedScope s.me.mode),
             lanes := fun _ => s.em }
  | .tagset _ a b =>
      some { scalar := false, need := tagNeed false, ask := lanes.map fun l => (l, s.me.pair a l), read := false, ordered := false, meet := .store,
             cls := 0, vu := 0, ctr := .stores, width := fun _ => 1,
             work := fun accs => .store (accs.map fun x => ⟨x.pl.tag, x.va, (s.me.vreg b x.lane).setWidth 8 &&& 0x0F, 0xFF⟩) none, lanes := laneMask }
  | .aadd _ d a b => atomic s i d a b false
  | .amin _ d a b => atomic s i d a b false
  | .amax _ d a b => atomic s i d a b false
  | .aand _ d a b => atomic s i d a b false
  | .aor _ d a b => atomic s i d a b false
  | .axor _ d a b => atomic s i d a b false
  | .axch _ d a b => atomic s i d a b false
  | .acas _ d a b => atomic s i d a b true
  | _ => none

end Sys2Proof.Rule

/-- What lets the lanes `accs` of an access issue, while those of `rest` have no translation: no ordering rule, copy in flight, failed copy, full
counter or charge holds it back, and no lane fails a check of R131. Lanes of an instruction that has issued in part before are charged and counted with
its first (R49, R131, R132, R151, R166, R172, R173, R271). -/
structure Sys2Proof.Rule.Issuable (i : Instr) (s s1 : State) (m : Rule.Access) (accs : List Acc) (rest : Mask) (low : DWord) : Prop where
  order : (s.env i).accessWait s m.read (m.ordered && modeRel s.me.mode) = none
  checks : s.access s.cur.st m.scalar m.need m.ask = (s1, .go accs rest low)
  free : (accs.any fun a => (a.pl.span (m.width a)).any (s1.rangeHeld m.meet)) = false
  sound : m.read = true → s.me.failedInto (accs.flatMap fun a => a.pl.span (m.width a)) ((s.env i).tablesRead m.ordered accs) = none
  room : (s.env i).own = none → (s.env i).full s1 m.ctr = false
  charge : (s.env i).own = none → ∃ drawn, chargeAns s1 s.cur.st s.cur.path m.cls m.vu 0 = .ok drawn

/-- R132, R307, R308, R345, R346, R366, R367, R370, R371 and R373: loads, stores, atomics and tag accesses issue: they leave an operation that carries
what they will read or write, with its class, charge and counter, and change no register and no byte of memory yet; ST sets the flags of its
conversions as it commits. The last lanes of an instruction of which others have issued before leave an operation that belongs to its first, which holds
the charge and the count. -/
def Obligations.AccessesIssue : Prop :=
  ∀ i s s1 m accs low, Rule.access s i = some m → Passes i s → Rule.Issuable i s s1 m accs 0 low →
    (∀ l, (s.env i).own = some l → l < s.nextId) →
    ∃ t op o, exec i s = .next t ∧ Issues i s t op o ∧ o.work = m.work accs ∧ o.lanes = m.lanes accs ∧ o.cls = m.cls ∧ o.lead = (s.env i).own ∧
      o.more = false ∧ (o.vu, o.ctr) = (if (s.env i).own = none then (m.vu, m.ctr) else (0, .none)) ∧ o.grow = 0 ∧
      o.mode = (if m.ordered then s.me.mode else 0) ∧
      o.acq = (if m.ordered && modeAcq s.me.mode then some (modeScope s.me.mode) else none) ∧ t.me.flags = s.me.flags ||| m.flags accs

/-- The instruction at the issue position parks with the lanes `left`, its first operation being `op`: the path, or the replay record, is where it was,
system software is told of the lowest address `low` that has no translation, and nothing is retired (R132, R133, R379). -/
structure Sys2Proof.Rule.Parks (i : Instr) (s s1 t : State) (left : Mask) (low : DWord) (op : Option Nat) : Prop where
  path : s.cur.replay = false → t.me.replays = s.me.replays ∧
    t.myPath = { s.myPath with parked := some { lanes := left, first := (s.env i).first, va := low, fetch := false, op := op, ins := some i }, part := none }
  record : s.cur.replay = true → t.myPath = s.myPath ∧ t.me.replays.head? = s.me.replays.head?.map fun r =>
    { r with lanes := left, part := r.part || decide (left ≠ r.lanes), parked := some (low, false), op := op, ins := some i }
  sent : t.sent = s1.sent ++ [.pageFault s.me.ctx (s1.gsi s.cur.st) low]
  regs : KeepsRegs s t
  retcnt : t.me.retcnt = s.me.retcnt
  memory : ∀ a, t.homeByte a = s.homeByte a

/-- R48, R131, R132, R133, R254, R367, R379: an access whose checks find a trap raises it and performs for no lane; one of which lanes fault on their
pages issues for the others, if any, counted and charged, and parks with these, which its operation waits for, and system software is told; what is left
of an instruction parks again, a scalar access parks whole; CB2 and an ET that an atomic does not accept trap before any address is formed. That WATCH of
a scalar access has `em` in its `tval` is log entry 25, that a scalar access parks with `em` log entry 47, and that `retcnt` does not rise while lanes are
left log entry 49: the model's choices. -/
def Obligations.AccessesTrapOrPark : Prop :=
  (∀ i s s1 m c v ls, Rule.access s i = some m → Passes i s → (s.env i).accessWait s m.read (m.ordered && modeRel s.me.mode) = none →
    s.access s.cur.st m.scalar m.need m.ask = (s1, .trap c v ls) →
    exec i s = .next (((s.env i).leave s1).takeTrap s.cur.st s.cur.path (s.env i).pc s.cur.replay
      { cause := c, tval := if m.scalar = true ∧ c = 0x08 then v.extractLsb' 32 32 ++ s.em else v, tmask := s.trapMask i ls,
        part := (s.env i).partDone })) ∧
  (∀ i s s1 m rest low, Rule.access s i = some m → Passes i s → (s.env i).accessWait s m.read (m.ordered && modeRel s.me.mode) = none →
    s.access s.cur.st m.scalar m.need m.ask = (s1, .go [] rest low) → rest ≠ 0 → (m.scalar = true ∨ (s.env i).own ≠ none) →
    ((s.env i).own = none ∨ ∃ l x, (s.env i).own = some l ∧ SMap.get? s1.outs l = some x) →
    let left := if m.scalar then (if s.cur.replay then s.acts i else s.em) else rest
    ∃ t, exec i s = .next t ∧ Rule.Parks i s s1 t left low (s.env i).own ∧ t.me.flags = s.me.flags ∧
      (∀ op, (s.env i).own ≠ some op → SMap.get? t.outs op = SMap.get? s1.outs op) ∧
      ∀ l x, (s.env i).own = some l → SMap.get? s1.outs l = some x → SMap.get? t.outs l = some { x with more := true }) ∧
  (∀ i s s1 m accs rest low, Rule.access s i = some m → Passes i s → Rule.Issuable i s s1 m accs rest low → m.scalar = false → rest ≠ 0 →
    (s.env i).own = none →
    ∃ t op o, exec i s = .next t ∧ s.nextId ≤ op ∧ SMap.get? t.outs op = some o ∧ o.ins = i ∧ o.uid = s.me.uid ∧ o.work = m.work accs ∧
      o.lanes = m.lanes accs ∧ o.more = true ∧ (o.cls, o.vu, o.ctr) = (m.cls, m.vu, m.ctr) ∧ t.me.count m.ctr = s.me.count m.ctr + 1 ∧
      Rule.Parks i s s1 t rest low (some op) ∧ t.me.flags = s.me.flags ||| m.flags accs) ∧
  (∀ i s, Passes i s → (match i with
    | .ld .. | .st .. => s.me.mode.toNat % 32 = 14 → Traps i s 0x0E (s.me.mode.setWidth 64) (s.em &&& s.me.guard)
    | .aadd .. | .amin .. | .amax .. | .aand .. | .aor .. | .axor .. | .axch .. | .acas .. =>
      Rule.atomicEt i (s.me.mode.toNat % 32) = false → Traps i s 0x02 (s.me.mode.setWidth 64) (s.em &&& s.me.guard)
    | _ => True))

/-- R131, R132: the checks of an access in their order: alignment, then windows and addresses that do not exist, each naming the failing lanes and the
address of the lowest; where these pass, no watchpoint is set and no lane's page is missing, the checks of the pages: protection, then format, poison
and tags, each naming the failing lanes. -/
def Obligations.AccessCheckOrder : Prop :=
  ∀ (s : State) (key : Nat) (nd : Need) (xs : List LaneLoc),
    let mis := xs.filter fun x => decide (1 < x.width ∧ x.va.toNat % x.width ≠ 0)
    let gone := xs.filter fun x => decide (x.loc = .bad)
    let fails := fun (c : Nat) => xs.filter fun x => (s.laneFail key nd x).map (·.1) == some c
    (∀ x ys, mis = x :: ys → s.checkLanes key nd xs = .trap 0x03 x.va (maskOf ((x :: ys).map (·.lane)))) ∧
    (∀ x ys, mis = [] → nd.win = (fun _ => true) → gone = x :: ys → s.checkLanes key nd xs = .trap 0x05 x.va (maskOf ((x :: ys).map (·.lane)))) ∧
    (mis = [] → gone = [] → nd.win = (fun _ => true) → (s.core (coreOf key)).watch = [] → (∀ x ∈ xs, x.loc ≠ .global none) →
      ((∀ x ∈ xs, s.laneFail key nd x = none) → s.checkLanes key nd xs = .go (xs.map (·.acc)) 0 0) ∧
      (∀ c, c ∈ [0x05, 0x0E, 0x07, 0x06] → (fails c) ≠ [] → (∀ b, b ∈ [0x05, 0x0E, 0x07, 0x06].takeWhile (· != c) → fails b = []) →
        ∃ v, s.checkLanes key nd xs = .trap c v (maskOf ((fails c).map (·.lane)))))

/-- R189, R311 and R312: TACC, AST and ALD issue once their stride, ET and address are in order, all 32 rows pass, and an entry of the drain path
(TACC, AST) is free: TACC and AST send the accumulator's values of this cycle and go to the end of the drain path, ALD reads the rows later. -/
def Obligations.TileInstructionsIssue : Prop :=
  ∀ i s s1 accs low (d : AReg) (a : SReg) (lit : Word), Passes i s → lit ≠ 0 → lit.toNat % 128 = 0 → (s.me.sreg a).toNat / 2 ^ 60 = 0 →
    (s.me.sreg a).toNat % 128 = 0 → (s.env i).full s1 .tiles = false →
    let et := s.me.mode.toNat % 32
    let rows := tileRows (s.me.sreg a) lit
    (∀ h, i = .ald h d a lit → (et = 0 ∨ et = 1 ∨ et = 7 ∨ et = 11) → (s.env i).accessWait s true (modeRel s.me.mode) = none →
      s.access s.cur.st true (tileNeed true false rawFmt) rows = (s1, .go accs 0 low) →
      (∃ drawn, chargeAns s1 s.cur.st s.cur.path 1 Config.chargeReplay 0 = .ok drawn) →
      ∃ t op o, exec i s = .next t ∧ Issues i s t op o ∧ o.work = .ald (rowPas accs) ∧ o.cls = 1 ∧ o.ctr = .tiles ∧ t.me.flags = s.me.flags) ∧
    (∀ h, i = .ast h d a lit → (et = 0 ∨ et = 1 ∨ et = 7 ∨ et = 11) → (s.env i).accessWait s false (modeRel s.me.mode) = none →
      s.access s.cur.st true (tileNeed false true rawFmt) rows = (s1, .go accs 0 low) → s1.drainFull s.myCore = false →
      (∃ drawn, chargeAns s1 s.cur.st s.cur.path 4 Config.chargeDrain 0 = .ok drawn) →
      ∃ t op o, exec i s = .next t ∧ Issues i s t op o ∧ o.cls = 4 ∧ o.ctr = .tiles ∧ t.me.flags = s.me.flags ∧
        (t.core s.myCore).drain = (s.core s.myCore).drain ++ [op] ∧
        ∃ w, o.work = .tile w ∧ w.ast = true ∧ w.rows = rowPas accs ∧ ∀ k, k < 1024 → SMap.get 0 w.vals k = SMap.get 0 s.me.accs (1024 * d.toNat + k)) ∧
    (∀ h, i = .tacc h d a lit → (et = 1 ∨ et = 7 ∨ et = 11) → (s.env i).accessWait s false (modeRel s.me.mode) = none →
      s.access s.cur.st true (tileNeed false true fun _ => true) rows = (s1, .go accs 0 low) → s1.drainFull s.myCore = false →
      let rpa := (rowPas accs).headD 0
      let grow := decide (s.me.residuals.length < (s.kernelOf s.me).nres) && (s.me.slotFor rpa lit.toNat et).isNone
      (∀ r ∈ rowPas accs, homeOf r = homeOf rpa) →
      (∀ x ∈ accs, x.fmt = 0 ∨ if et = 1 then x.fmt = 1 else (x.fmt = 7 ∨ x.fmt = 11)) →
      (∀ kv ∈ s.me.residuals, kv.2.rpa = rpa → kv.2.stride = lit.toNat ∧ kv.2.et = et) →
      (∃ drawn, chargeAns s1 s.cur.st s.cur.path 4 Config.chargeDrain (if grow then residualBytes else 0) = .ok drawn) →
      ∃ t op o, exec i s = .next t ∧ Issues i s t op o ∧ o.cls = 4 ∧ o.ctr = .tiles ∧ t.me.flags = s.me.flags ∧
        (t.core s.myCore).drain = (s.core s.myCore).drain ++ [op] ∧
        ∃ w, o.work = .tile w ∧ w.ast = false ∧ w.rows = rowPas accs ∧ w.rpa = rpa ∧ w.grow = grow ∧
          ∀ k, k < 1024 → SMap.get 0 w.vals k = SMap.get 0 s.me.accs (1024 * d.toNat + k))

/-- R155 and R151: the check of a charge of which the reservation leaves `c` uncovered: it issues when nothing is left, traps as hopeless when it
could never fit, and otherwise issues, traps or stalls as `vxest`, the charges stalled before it and `vxstat.TRAP` say. -/
def Obligations.VacateCheck : Prop :=
  ∀ (s : State) (key idx cls c drawn : Nat),
    let st := s.stand key
    let x := s.ctxSlot (coreOf key) st.ctx
    let rho := (s.ctx st.ctx).rho
    let bound := (s.ctx st.ctx).vxcbnd - (s.ctx st.ctx).vxctx
    let up := fun (n : Nat) => (n + rho - 1) / rho
    let vxest := 5 + up (x.s + x.p) + x.c + x.q
    (c = 0 → checkCharge s key idx cls c drawn = .ok drawn) ∧
    (c ≠ 0 → bound < 5 + up x.s + x.q + c →
      checkCharge s key idx cls c drawn = .exceed (BitVec.ofNat 64 (c % 65536 + cls * 2 ^ 16 + 2 ^ 19)) true) ∧
    (c ≠ 0 → ¬ bound < 5 + up x.s + x.q + c → bound < vxest + c → st.vxTrap = true → st.inHandler = none →
      checkCharge s key idx cls c drawn = .exceed (BitVec.ofNat 64 (c % 65536 + cls * 2 ^ 16)) false) ∧
    (c ≠ 0 → ¬ bound < 5 + up x.s + x.q + c → bound < vxest + c → (st.vxTrap = false ∨ st.inHandler ≠ none) →
      checkCharge s key idx cls c drawn = .stall) ∧
    (c ≠ 0 → ¬ bound < 5 + up x.s + x.q + c → ¬ bound < vxest + c →
      checkCharge s key idx cls c drawn = if bound < vxest + stalledBefore key idx x.stalled + c then .stall else .ok drawn)

/-- R155 and R157: VRES adds its amount to what the stand may draw, and to Q, where it fits; VREL gives up what is undrawn, and what is drawn no
longer returns, on whichever member of a gang it lies. Neither changes a register or memory. -/
def Obligations.Reservations : Prop :=
  (∀ h a s b, Passes (.vres h a) s → s.slotOf s.myCore s.me.ctx = some b →
    (∃ d, checkCharge s s.cur.st s.cur.path 5 (s.me.sreg a).toNat 0 = .ok d) →
    ∃ t, exec (.vres h a) s = .next t ∧ Advances s t (s.nextPc (.vres h a)) ∧ KeepsRegs s t ∧ t.me.flags = s.me.flags ∧
      t.me.avail = s.me.avail + (s.me.sreg a).toNat ∧ t.me.lent = s.me.lent ∧
      (t.ctxSlot s.myCore s.me.ctx).q = (s.ctxSlot s.myCore s.me.ctx).q + (s.me.sreg a).toNat ∧ ∀ x, t.homeByte x = s.homeByte x) ∧
  (∀ h s b, Passes (.vrel h) s → s.slotOf s.myCore s.me.ctx = some b →
    ∃ t, exec (.vrel h) s = .next t ∧ Advances s t (s.nextPc (.vrel h)) ∧ KeepsRegs s t ∧ t.me.flags = s.me.flags ∧
      t.me.avail = 0 ∧ t.me.lent = 0 ∧ (t.ctxSlot s.myCore s.me.ctx).q = (s.ctxSlot s.myCore s.me.ctx).q - s.me.avail ∧
      (∀ op o, SMap.get? s.outs op = some o → SMap.get? t.outs op = some (if o.payer.getD o.uid = s.me.uid then { o with drawn := 0 } else o)) ∧
      ∀ x, t.homeByte x = s.homeByte x)

/-- R166, R182, R223, R224, R235: CPIN into scratchpad and CPOUT issue when the stand holds the stream baton (or there is none), the operands are in
order, every word passes its checks on pages of one format, and no copy in flight meets the range; the token becomes pending. CPIN into an operand slot
issues where its rows lie on one page, with the descriptor that the fill will leave: the format, geometry and base of the page, the table that `mode.CB`
names, and, for geometry 1 or 2, where the scales of its first row begin. -/
def Obligations.ScratchCopiesIssue : Prop :=
  (∀ s p s0 s1 page accs low h (k : Tok) (g b : SReg) (rows : BitVec 12),
    let i : Instr := .cpin h true k g b rows 128
    let va := s.me.sreg g
    let stride := s.me.sreg (g + 1)
    let m := rows.toNat
    let far := accs.flatMap fun y => y.pl.span 4
    let a0 := accs.headD ⟨0, va, .mem 0, 0, 0, 0, 0⟩
    let elems := if a0.fmt ∈ [0, 1, 7, 11] then 32 else if a0.fmt ∈ [2, 3, 8, 12] then 64 else if a0.fmt ∈ [6, 10] then 256 else if a0.fmt = 14 then 512 else 128
    let block := if a0.geom = 1 then 32 else 16
    Passes i s → m ≠ 0 → m ≤ 32 → g.toNat < 62 → s.me.boundSlot (s.me.sreg b).toNat = some p → s.lacksStream s.me = false →
    va.toNat / 2 ^ 60 = 0 → va.toNat % 128 = 0 → stride.toNat % 128 = 0 → s.translate s.myCore s.me.ctx va.toNat = (s0, page) →
    (∀ e, page = some e → ∀ r, r < m → let x := (va + BitVec.ofNat 64 (r * stride.toNat)).toNat
      x / 2 ^ 60 = 0 ∧ e.va ≤ x % 2 ^ 56 ∧ x % 2 ^ 56 + 128 ≤ e.va + e.size) →
    (s.env i).accessWait s0 true false = none → s0.access s.cur.st true (copyNeed true) (copyWords va stride m 128) = (s1, .go accs 0 low) →
    (∀ y ∈ accs, y.fmt = a0.fmt) → (s1.core s.myCore).det = false → far.length = 4 * accs.length → a0.fmt < 15 →
    ∀ pa, a0.pl = .mem pa → a0.page ≤ pa →
    let scl := if a0.geom = 1 ∨ a0.geom = 2 then s.me.scloff.toNat + (pa - a0.page) * elems / 128 / block else 0
    let tab := s.me.mode.toNat / 2 ^ 18 % 8
    let desc : OpSlot := { sfmt := a0.fmt, geom := a0.geom, table := tab, rows := m, sscl := scl, sstride := stride.toNat, sppa := a0.page }
    (∀ x ∈ desc.scaleSrc, x < a0.page + a0.psz) → (s.env i).full s1 .copies = false →
    (∃ drawn, chargeAns s1 s.cur.st s.cur.path 1 Config.chargeReplay 0 = .ok drawn) →
    ∃ t op o, exec i s = .next t ∧ Issues i s t op o ∧ t.me.flags = s.me.flags ∧ t.me.tokmask = s.me.tokmask ||| (1#8 <<< k.toNat) ∧ o.cls = 1 ∧
      o.ctr = .copies ∧ ∃ mv, o.work = .copy mv (some (p, desc)) none false ∧ mv.map (·.1) = far ∧
      ∀ j, j < far.length → (mv[j]?).map (·.2) = some (.scr 0 j)) ∧
  ∀ s s1 accs low (k : Tok) (rows : BitVec 12) (bytes : BitVec 20) (g : SReg) (b : SReg),
    let va := s.me.sreg g
    let stride := s.me.sreg (g + 1)
    let x := (s.me.sreg b).toNat
    let m := rows.toNat
    let n := bytes.toNat
    let token := s.me.tokmask ||| (1#8 <<< k.toNat)
    let near := (Place.scr s.me.grove x).span (4 * accs.length)
    let far := accs.flatMap fun y => y.pl.span 4
    let same := ∀ y ∈ accs, y.fmt = (accs.headD ⟨0, va, .mem 0, 0, 0, 0, 0⟩).fmt
    m ≠ 0 → n ≠ 0 → g.toNat < 62 → s.lacksStream s.me = false → va.toNat / 2 ^ 60 = 0 → va.toNat % 4 = 0 → stride.toNat % 4 = 0 → n % 4 = 0 →
    x % 4 = 0 → x + m * n ≤ (s.kernelOf s.me).scratch → (∃ drawn, chargeAns s1 s.cur.st s.cur.path 1 Config.chargeReplay 0 = .ok drawn) →
    (∀ h, Passes (.cpin h false k g b rows bytes) s → (s.env (.cpin h false k g b rows bytes)).accessWait s true false = none →
      s.access s.cur.st true (copyNeed true) (copyWords va stride m n) = (s1, .go accs 0 low) → same → near.any (s1.rangeHeld .copyIn) = false →
      far.length = near.length → (s.env (.cpin h false k g b rows bytes)).full s1 .copies = false →
      ∃ t op o, exec (.cpin h false k g b rows bytes) s = .next t ∧ Issues (.cpin h false k g b rows bytes) s t op o ∧ t.me.flags = s.me.flags ∧
        t.me.tokmask = token ∧ o.cls = 1 ∧ o.ctr = .copies ∧
        o.work = .copy (far.zip near) none (some (s.me.grove, x, x + m * n - 1)) false) ∧
    (∀ h, stride.toNat ≥ n → Passes (.cpout h k b g rows bytes) s → (s.env (.cpout h k b g rows bytes)).accessWait s false false = none →
      s.access s.cur.st true (copyNeed false) (copyWords va stride m n) = (s1, .go accs 0 low) → same → near.any (s1.rangeHeld .copyOut) = false → s.me.failedInto near [] = none →
      far.length = near.length → (s.env (.cpout h k b g rows bytes)).full s1 .copies = false →
      ∃ t op o, exec (.cpout h k b g rows bytes) s = .next t ∧ Issues (.cpout h k b g rows bytes) s t op o ∧ t.me.flags = s.me.flags ∧
        t.me.tokmask = token ∧ o.cls = 1 ∧ o.ctr = .copies ∧
        o.work = .copy (near.zip far) none (some (s.me.grove, x, x + m * n - 1)) true)

/-- R98, R224, R225: OLD and CBLD issue as class REPLAY: OLD with the descriptor that its fill will leave, counted with the copies, CBLD with the
1,024 bytes it will read, counted with the loads. -/
def Obligations.FillsIssue : Prop :=
  (∀ h (d : OReg) (a : SReg) (rows : BitVec 7) s p,
    let i : Instr := .old h d a rows
    let x := (s.me.sreg a).toNat
    let n := rows.toNat
    let et := s.me.mode.toNat % 32
    let src := (Place.scr s.me.grove x).span (128 * n)
    Passes i s → 1 ≤ n → n ≤ 32 → s.me.boundSlot d.toNat = some p → et ∈ [2, 3, 4, 5, 6, 9, 10, 14] → x % 128 = 0 →
    x + 128 * n ≤ (s.kernelOf s.me).scratch → (s.env i).accessWait s true false = none → src.any (s.rangeHeld .load) = false →
    s.me.failedInto src [] = none → (s.env i).full s .copies = false → (∃ drawn, chargeAns s s.cur.st s.cur.path 1 Config.chargeReplay 0 = .ok drawn) →
    ∃ t op o, exec i s = .next t ∧ Issues i s t op o ∧ t.me.flags = s.me.flags ∧ o.cls = 1 ∧ o.ctr = .copies ∧
      o.work = .old p { sfmt := et, geom := 0, table := s.me.mode.toNat / 2 ^ 18 % 8, rows := n, sscl := 0, sstride := 128, sppa := 0 } src) ∧
  (∀ h (tab : BitVec 3) (a : SReg) s s1 s2 drawn accs low,
    let i : Instr := .cbld h tab a
    Passes i s → (s.me.sreg a).toNat / 2 ^ 60 ≠ 15 → (s.me.sreg a).toNat % 1024 = 0 → (s.env i).accessWait s true false = none →
    (s.env i).full s .loads = false → chargeAns s s.cur.st s.cur.path 1 Config.chargeReplay 0 = .ok drawn →
    s1 = s.takeCharge s.cur.st s.cur.path Config.chargeReplay 0 drawn → s1.access s.cur.st true cbldNeed [(0, s.me.sreg a)] = (s2, .go accs 0 low) →
    ∃ t op o, exec i s = .next t ∧ Issues i s t op o ∧ t.me.flags = s.me.flags ∧ o.cls = 1 ∧ o.ctr = .loads ∧
      o.work = .cbld ((rowPas accs).headD 0) (s.me.sreg a))

/-- R147, R222, R229, R231 and R232: GANG, BTAKE, BPASS, OCLM and OREL, where they complete. -/
def Obligations.EngineState : Prop :=
  (∀ h a s,
    let x := s.me.sreg a
    let n := (x.extractLsb' 48 3).toNat
    let member := fun (k : Nat) => (x.extractLsb' (8 * k) 8).toNat
    Passes (.gang h a) s → x.extractLsb' 51 13 = 0 → 1 ≤ n → n ≤ 6 → (∀ k, n ≤ k → k < 6 → member k = 0) →
    (∀ j k, j < n → k < n → j ≠ k → member j ≠ member k) → (∃ k, k < n ∧ member k = s.me.standid) →
    (∀ k, k < n → member k ∈ s.haltedIds s.me.grove ∨ ∃ key st, (key, st) ∈ s.stands ∧ st.grove = s.me.grove ∧ (s.stand key).standid = member k) → s.hasMma s.cur.st s.cur.path = false →
    ∃ t, exec (.gang h a) s = .next t ∧ Advances s t (s.nextPc (.gang h a)) ∧ OnlyMe s t ∧ t.me.gang = x ∧
      { t.me.rest with gang := 0 } = { s.me.rest with gang := 0 } ∧ KeepsV s t ∧ KeepsS s t ∧ KeepsP s t ∧ KeepsMode s t ∧ KeepsFlags s t) ∧
  (∀ h m s, Passes (.btake h m) s → s.me.standid < (s.kernelOf s.me).ring → (s.grove s.me.grove).baton m = some s.me.standid →
    ∃ t, exec (.btake h m) s = .next t ∧ Jumps s t (s.nextPc (.btake h m))) ∧
  (∀ h m s, Passes (.btake h m) s → ((s.grove s.me.grove).baton m = none ∨ (s.kernelOf s.me).ring ≤ s.me.standid) →
    Traps (.btake h m) s 0x0B (Instr.tvalWord (.btake h m)) s.em) ∧
  (∀ h m s, Passes (.bpass h m) s → s.me.standid < (s.kernelOf s.me).ring → (s.grove s.me.grove).baton m = some s.me.standid →
    s.accessesDone s.me.uid = true →
    ∃ t, exec (.bpass h m) s = .next t ∧ Advances s t (s.nextPc (.bpass h m)) ∧ KeepsRegs s t ∧ t.me.flags = s.me.flags ∧
      (t.grove s.me.grove).baton m = (((List.range (s.kernelOf s.me).ring).map fun k => (s.me.standid + (k + 1)) % (s.kernelOf s.me).ring).find?
        fun j => (s.standById s.me.grove j).isSome || (s.haltedIds s.me.grove).contains j) ∧
      (t.grove s.me.grove).baton (!m) = (s.grove s.me.grove).baton (!m) ∧ ∀ x, t.homeByte x = s.homeByte x) ∧
  (∀ h d s, Passes (.oclm h d) s → (s.me.boundSlot d.toNat).isSome = true → ∃ t, exec (.oclm h d) s = .next t ∧ Jumps s t (s.nextPc (.oclm h d))) ∧
  (∀ h d s p, Passes (.oclm h d) s → s.me.boundSlot d.toNat = none → SMap.lowestFree (s.core s.myCore).oslots 0 64 = some p →
    (∃ drawn, chargeAns s s.cur.st s.cur.path 5 0 4096 = .ok drawn) →
    ∃ t, exec (.oclm h d) s = .next t ∧ Advances s t (s.nextPc (.oclm h d)) ∧ KeepsRegs s t ∧ t.me.flags = s.me.flags ∧
      t.me.boundSlot d.toNat = some p ∧ SMap.get? (t.core s.myCore).oslots p = some {} ∧
      (∀ n, n ≠ d.toNat → t.me.boundSlot n = s.me.boundSlot n) ∧ ∀ x, t.homeByte x = s.homeByte x) ∧
  (∀ h d s, Passes (.orel h d) s → s.me.boundSlot d.toNat = none → ∃ t, exec (.orel h d) s = .next t ∧ Jumps s t (s.nextPc (.orel h d))) ∧
  (∀ h d s p, Passes (.orel h d) s → s.me.boundSlot d.toNat = some p → s.fillBefore s.myCore p s.nextId = false → s.mmaNames s.myCore p s.me = false →
    ∃ t, exec (.orel h d) s = .next t ∧ Advances s t (s.nextPc (.orel h d)) ∧ KeepsRegs s t ∧ t.me.flags = s.me.flags ∧
      t.me.boundSlot d.toNat = none ∧ SMap.get? (t.core s.myCore).oslots p = none ∧
      (∀ n, n ≠ d.toNat → t.me.boundSlot n = s.me.boundSlot n) ∧ ∀ x, t.homeByte x = s.homeByte x)

/-- R45, R149, R226 to R231, R312: an MMA of a stand that is its own gang goes to the array when its slots are bound, no fill of them that issued before
is outstanding, no ALD of its accumulator is, the stand holds the matrix baton or there is none, and the formats and the segment fit; it is counted with
the tiles. In a gang of more than one an MMA is lodged at the leader's latch, and its path waits, until every member has one there; with the last they all
go to the array, each with its own A and the leader's B, charged and counted, and their paths go on. -/
def Obligations.MmaIssues : Prop :=
  (∀ h (d : AReg) (a b : OReg) s p,
    let i : Instr := .mma h d a b
    let n := (s.me.gang.extractLsb' 48 3).toNat
    let lead := (s.me.gang.extractLsb' 0 8).toNat
    let at_ := s.latch s.me.grove lead
    Passes i s → s.cur.replay = false → 2 ≤ n → s.me.boundSlot a.toNat = some p → (lead = s.me.standid → (s.me.boundSlot b.toNat).isSome = true) →
    s.aldBusy s.me.uid d = false → s.me.failedInto [] (s.slotTables s.myCore [p, if lead = s.me.standid then (s.me.boundSlot b.toNat).getD p else p]) = none →
    (∀ kv ∈ at_, (s.stand kv.2.st).gang = s.me.gang ∧ kv.2.uid ≠ s.me.uid) → s.me.tiles < depthOf (s.core s.myCore) .tiles → at_.length + 1 < n →
    ∃ t o, exec i s = .next t ∧ SMap.get? t.outs s.nextId = some o ∧ t.nextId = s.nextId + 1 ∧ o.ins = i ∧ o.uid = s.me.uid ∧ o.st = s.cur.st ∧
      o.path = s.cur.path ∧ o.mode = s.me.mode ∧ o.vu = 0 ∧ o.ctr = .none ∧
      o.work = .mma p (if lead = s.me.standid then (s.me.boundSlot b.toNat).getD p else p) .lodged [] [] 0 ∧
      (∀ j, j ≠ s.nextId → SMap.get? t.outs j = SMap.get? s.outs j) ∧ t.myPath = { s.myPath with wait := some .group } ∧
      (∀ j, j ≠ s.cur.path → t.me.path j = s.me.path j) ∧ KeepsRegs s t ∧ t.me.flags = s.me.flags ∧ t.me.retcnt = s.me.retcnt ∧
      t.me.tiles = s.me.tiles ∧ ∀ x, t.homeByte x = s.homeByte x) ∧
  (∀ h (d : AReg) (a b : OReg) s p q,
    let i : Instr := .mma h d a b
    let n := (s.me.gang.extractLsb' 48 3).toNat
    let lead := (s.me.gang.extractLsb' 0 8).toNat
    let at_ := s.latch s.me.grove lead
    let fmt := fun (n : Nat) => (SMap.get ({} : OpSlot) (s.core s.myCore).oslots n).sfmt
    let fits := fun (x : Nat) (m : Word) => ∃ pair, mmaPair (fmt x) (fmt q) = some pair ∧ m.toNat / 2 ^ 23 % 4 < pair.ratio
    let first := ((at_.find? fun kv => (s.stand kv.2.st).standid == lead).map (·.1)).getD s.nextId
    Passes i s → s.cur.replay = false → 2 ≤ n → at_.length + 1 = n → s.me.boundSlot a.toNat = some p →
    (lead = s.me.standid ∧ s.me.boundSlot b.toNat = some q ∨ lead ≠ s.me.standid ∧ ∃ x, ((at_.find? fun kv => (s.stand kv.2.st).standid == lead).map fun kv =>
      kv.2.work) = some (.mma x q .lodged [] [] 0)) →
    s.aldBusy s.me.uid d = false → s.me.failedInto [] (s.slotTables s.myCore [p, if lead = s.me.standid then q else p]) = none →
    (at_.map (·.1)).Nodup → (s.cur.st :: at_.map (·.2.st)).Nodup →
    (∀ kv ∈ at_, SMap.get? s.outs kv.1 = some kv.2 ∧ kv.1 < s.nextId ∧ kv.2.rpl = false ∧ kv.2.path < 8 ∧ (s.stand kv.2.st).gang = s.me.gang ∧
      kv.2.uid ≠ s.me.uid ∧ (s.stand kv.2.st).tiles < depthOf (s.core s.myCore) .tiles ∧ (∃ d' a' b' h', kv.2.ins = .mma h' d' a' b') ∧
      ∃ x y, kv.2.work = .mma x y .lodged [] [] 0 ∧ s.fillBefore s.myCore x kv.1 = false ∧ fits x kv.2.mode) →
    s.me.tiles < depthOf (s.core s.myCore) .tiles → s.fillBefore s.myCore p s.nextId = false → s.fillBefore s.myCore q first = false → fits p s.me.mode →
    (∃ drawn, chargeAns s s.cur.st s.cur.path 3 (3 * n) 0 = .ok drawn) → ((s.grove s.me.grove).mbat = none ∨ (s.grove s.me.grove).mbat = some lead) →
    ∃ t, exec i s = .next t ∧ t.cur = s.cur ∧ (∀ x, t.homeByte x = s.homeByte x) ∧ KeepsRegs s t ∧ t.me.flags = s.me.flags ∧
      t.myPath.pc = s.myPath.pc + 1 ∧ t.me.tiles = s.me.tiles + 1 ∧
      (∃ o, SMap.get? t.outs s.nextId = some o ∧ o.ins = i ∧ o.uid = s.me.uid ∧ o.work = .mma p q .queued [] [] 0 ∧ o.vu = 3 ∧ o.ctr = .tiles) ∧
      (∀ kv ∈ at_, ∀ x y, kv.2.work = .mma x y .lodged [] [] 0 → (∃ o, SMap.get? t.outs kv.1 = some o ∧ o.ins = kv.2.ins ∧ o.uid = kv.2.uid ∧
          o.work = .mma x q .queued [] [] 0 ∧ o.vu = 3 ∧ o.ctr = .tiles) ∧
        ((t.stand kv.2.st).path kv.2.path).pc = ((s.stand kv.2.st).path kv.2.path).pc + 1 ∧ (t.stand kv.2.st).tiles = (s.stand kv.2.st).tiles + 1 ∧
        (t.stand kv.2.st).vregs = (s.stand kv.2.st).vregs ∧ (t.stand kv.2.st).accs = (s.stand kv.2.st).accs)) ∧
  ∀ h (d : AReg) (a b : OReg) s p q pair,
    let i : Instr := .mma h d a b
    let slot := fun (n : Nat) => SMap.get ({} : OpSlot) (s.core s.myCore).oslots n
    Passes i s → s.cur.replay = false → (s.me.gang.extractLsb' 48 3).toNat ≤ 1 → s.me.boundSlot a.toNat = some p → s.me.boundSlot b.toNat = some q →
    s.aldBusy s.me.uid d = false → s.me.failedInto [] (s.slotTables s.myCore [p, q]) = none →
    s.fillBefore s.myCore p s.nextId = false → s.fillBefore s.myCore q s.nextId = false → s.me.tiles < depthOf (s.core s.myCore) .tiles →
    (∃ drawn, chargeAns s s.cur.st s.cur.path 3 Config.chargeArray 0 = .ok drawn) →
    ((s.grove s.me.grove).mbat = none ∨ (s.grove s.me.grove).mbat = some (s.me.gang.extractLsb' 0 8).toNat) →
    mmaPair (slot p).sfmt (slot q).sfmt = some pair → s.me.mode.toNat / 2 ^ 23 % 4 < pair.ratio →
    ∃ t op o, exec i s = .next t ∧ s.nextId ≤ op ∧ SMap.get? t.outs op = some o ∧ o.ins = i ∧ o.uid = s.me.uid ∧ o.work = .mma p q .queued [] [] 0 ∧
      o.vu = Config.chargeArray ∧ o.ctr = .tiles ∧ t.me.tiles = s.me.tiles + 1 ∧ Counted s t ∧ KeepsRegs s t ∧
      t.myPath = { s.myPath with pc := s.myPath.pc + 1, filling := false, part := none, parked := none } ∧ (∀ j, j ≠ s.cur.path → t.me.path j = s.me.path j) ∧
      t.me.flags = s.me.flags ∧ (∀ x, t.homeByte x = s.homeByte x) ∧ ∀ k, k ≠ s.cur.st → t.stand k = s.stand k

/-- R172, R275, R355 and R375: PHASE completes once the stand's earlier accesses have, and starts a publication when it releases at copse scope or
farther; PREF charges, fills and changes nothing that a program can read; TMARK changes nothing at all while the trace is off, and with it on appends a
record of type 3 (the widths of its fields are log entry 35), after the path's SYNC where one is due, if the buffer has room for them. -/
def Obligations.OrderingInstructions : Prop :=
  (∀ h kind scope s,
    let i : Instr := .phase h kind scope
    Passes i s →
    ((kind = 0 ∨ 6 ≤ scope.toNat) → Traps i s 0x01 (Instr.tvalWord i) (s.em &&& s.me.guard)) ∧
    (kind ≠ 0 → scope.toNat < 6 → s.accessesDone s.me.uid = false → Waits i s .counter) ∧
    (kind ≠ 0 → scope.toNat < 6 → s.accessesDone s.me.uid = true →
      ∃ t, exec i s = .next t ∧ Advances s t (s.nextPc i) ∧ KeepsRegs s t ∧ t.me.flags = s.me.flags ∧ (∀ x, t.homeByte x = s.homeByte x) ∧
        ((kind = 1 ∨ scope.toNat ≤ 1) → t.pubs = s.pubs) ∧
        (kind ≠ 1 → 2 ≤ scope.toNat → ∃ p, t.pubs = s.pubs ++ [p] ∧ p.uid = s.me.uid ∧ p.scope = scope.toNat ∧ p.reads = (kind == 3)))) ∧
  (∀ h copse a b s s1 lines drawn,
    let i : Instr := .pref h copse a b
    Passes i s → (s.core s.myCore).det = false →
    s.prefLines s.cur.st ((Mask.toList (s.acts i)).map fun l => (l, s.me.sreg b + (s.me.vreg a l).signExtend 64)) = (s1, lines) →
    (s.env i).accessWait s1 true false = none → chargeAns s1 s.cur.st s.cur.path 1 Config.chargeReplay 0 = .ok drawn →
    ∃ t op o, exec i s = .next t ∧ Issues i s t op o ∧ o.work = .pref ∧ o.cls = 1 ∧ o.ctr = .none ∧ t.me.flags = s.me.flags ∧
      (t.me.loads, t.me.stores, t.me.copies, t.me.tiles) = (s.me.loads, s.me.stores, s.me.copies, s.me.tiles)) ∧
  (∀ h a s, Passes (.tmark h a) s → (s.core s.myCore).trace.on = false → ∃ t, exec (.tmark h a) s = .next t ∧ Jumps s t (s.nextPc (.tmark h a))) ∧
  (∀ h a s,
    let x := (s.core s.myCore).trace
    let due := (match SMap.get? x.since (8 * (s.cur.st % 64) + s.cur.path) with
      | none => true
      | some n => decide (256 ≤ n))
    let sync := if due then s.syncRec s.cur.st s.cur.path else []
    let bytes := sync ++ [BitVec.ofNat 8 (3 + 16 * s.cur.path), BitVec.ofNat 8 (s.cur.st % 64)] ++ natLe s.myPath.pc.toNat 4 ++ [0, 0] ++ natLe (s.me.sreg a).toNat 8
    Passes (.tmark h a) s → s.cur.replay = false → x.on = true → x.lost = 0 →
    ∃ t, exec (.tmark h a) s = .next t ∧ Advances s t (s.nextPc (.tmark h a)) ∧ KeepsRegs s t ∧ t.me.flags = s.me.flags ∧
      (x.off + bytes.length ≤ x.size.toNat → (t.core s.myCore).trace.off = x.off + bytes.length ∧ t.mem = (s.putHomes (x.base.toNat + x.off) bytes).mem) ∧
      (x.size.toNat < x.off + bytes.length → (t.core s.myCore).trace = { x with lost := 1 } ∧ ∀ p, t.homeByte p = s.homeByte p))

/-- R135, R208: DISCARD issues, counted with the stores, when its range is aligned, meets no watchpoint, and every page that it meets may be dropped;
every check is made before any tile is dropped. R197: an RFLUSH for which nothing of the stand is left to wait for completes. -/
def Obligations.DropAndFlush : Prop :=
  (∀ h a b s s1 tiles,
    let i : Instr := .discard h a b
    let x := (s.me.sreg a).toNat
    let n := (s.me.sreg b).toNat
    Passes i s → (s.core s.myCore).det = false → x / 2 ^ 60 = 0 → x % 65536 = 0 → n ≠ 0 → n % 65536 = 0 →
    s.watchHit s.myCore false true (x % 2 ^ 56) n = none → (s.env i).accessWait s false false = none →
    s.discardPages s.cur.st (x % 2 ^ 56) (x % 2 ^ 56 + n) (x % 2 ^ 56) (n / 65536) = (s1, .tiles tiles) → (s.env i).full s1 .stores = false →
    ∃ t op o, exec i s = .next t ∧ Issues i s t op o ∧ o.work = .discard (s.me.sreg a) tiles ∧ o.cls = 0 ∧ o.ctr = .stores ∧ t.me.flags = s.me.flags) ∧
  (∀ h a b s, Passes (.discard h a b) s → (s.core s.myCore).det = false → (s.me.sreg a).toNat / 2 ^ 60 ≠ 0 →
    Traps (.discard h a b) s 0x05 (s.me.sreg a) s.em) ∧
  (∀ h a b s,
    let x := (s.me.sreg a).toNat
    let n := (s.me.sreg b).toNat
    Passes (.discard h a b) s → (s.core s.myCore).det = false → x / 2 ^ 60 = 0 →
    ((x % 65536 ≠ 0 ∨ n = 0 ∨ n % 65536 ≠ 0) → Traps (.discard h a b) s 0x03 (s.me.sreg a) s.em) ∧
    (x % 65536 = 0 → n ≠ 0 → n % 65536 = 0 → s.watchHit s.myCore false true (x % 2 ^ 56) n ≠ none →
      Traps (.discard h a b) s 0x08 (s.me.sreg a) s.em)) ∧
  (∀ h a b s ops, Passes (.rflush h a b) s → s.cur.replay = false → s.myPath.flush = some ops → (∀ op ∈ ops, SMap.get? s.outs op = none) →
    ∃ t, exec (.rflush h a b) s = .next t ∧ Counted s t ∧ Quiet s t ∧
      t.myPath = { s.myPath with pc := s.myPath.pc + 1, flush := none, part := none, parked := none } ∧
      ∀ j, j ≠ s.cur.path → t.me.path j = s.me.path j) ∧
  (∀ h a b s drawn, Passes (.rflush h a b) s → s.cur.replay = false → s.myPath.flush = none → s.me.residuals = [] → s.tilesOf s.me.uid = [] →
    chargeAns s s.cur.st s.cur.path 4 Config.chargeDrain 0 = .ok drawn →
    ∃ t, exec (.rflush h a b) s = .next t ∧ Advances s t (s.myPath.pc + 1) ∧ KeepsRegs s t ∧ t.me.flags = s.me.flags ∧
      (∀ op, op < s.nextId → SMap.get? t.outs op = SMap.get? s.outs op) ∧ (t.core s.myCore).drain = (s.core s.myCore).drain ∧
      ∀ x, t.homeByte x = s.homeByte x)

namespace Sys2Proof.Rule

/-- Outstanding operation `op` of a stand that is on its core, all that its instruction has issued and has left to do; its traffic gets through, and it
may be released (R279, R280, R293). -/
structure Of (s : State) (op : Nat) (o : Out) : Prop where
  out : SMap.get? s.outs op = some o
  own : o.orphan = false
  here : (SMap.get? s.stands o.st).isSome = true
  path : s.carried o = true
  sure : o.spec = false
  whole : o.lead = none ∧ o.more = false ∧ s.followed op = false ∧ o.fl = 0
  ripe : s.ripe o = true

/-- A stand without its counters and its reservation. -/
def calm (st : Stand) : Stand := { st with loads := 0, stores := 0, copies := 0, tiles := 0, detached := 0, avail := 0, lent := 0 }

/-- Operation `op` has completed: it is no longer outstanding, its counter has fallen by one, no other counter and no other stand has changed, but
one whose reservation covers its charge (R48, R155). -/
structure Completed (s t : State) (op : Nat) (o : Out) : Prop where
  gone : SMap.get? t.outs op = none
  kept : ∀ j, j ≠ op → SMap.get? t.outs j = SMap.get? s.outs j
  counted : ∀ c, c ≠ .none → (t.stand o.st).count c = (s.stand o.st).count c - if c = o.ctr then 1 else 0
  others : ∀ k, k ≠ o.st → s.payerOf o ≠ some k → t.stand k = s.stand k

/-- What the writes of a store, in their order, leave of a byte (R370, R371). -/
def written (wr : List Wr) (p : Place) (old : Byte) : Byte :=
  (wr.filter fun w => w.pl == p).foldl (fun x w => (x &&& ~~~w.msk) ||| (w.b &&& w.msk)) old

/-- What `flags` collects of the lanes of a load (R110). -/
def loadFlags (s : State) (o : Out) (scloff : Nat) (accs : List Acc) : BitVec 4 := orFlags (accs.map fun x => s.loadRes o scloff x)

/-- The 32-bit word at a physical address as the core of `k` reads it at the homes (R174). -/
def seenWord (s : State) (k pa : Nat) : Word := BitVec.ofNat 32 (leNat ((upFrom pa 4).map (s.pocByte k 3)))

end Sys2Proof.Rule

/-- R159, R258, R260, R261, R263, R304 and R305. What an image holds and what is checked of one: the fields of its header and its body at their places,
`icrc` over it, and the eight checks in their order, the first that fails giving the reason. PTST waits for the stand's publication; then it issues its image as one store at system scope, the parts
of the stand that it writes with `icrc` over them and what the homes hold of the spilled parts, and its status scalar reads 0; a poisoned spilled byte
raises POISON. PTLD issues the read of an image as a load and no path of the stand issues until it is back: then an image that passes its checks is the
stand's state, and the path goes on where the image's path table says, with the list and the overflow area in the stand's own place; one that fails a check
raises RESTORE with the check's number, and the stand's state is as it was. Both run only for a path that runs alone, with the stand's counters and tokens
settled. That an image is loaded whose reservation lifts the estimate above the bound is the model's choice (log entry 87). -/
def Obligations.ImagesIssue : Prop :=
  (∀ h (d a : SReg) (s s1 : State) pas,
    let i : Instr := .ptst h d a
    let k := s.kernelOf s.me
    let ws := ((s.env i).imageWrites s1 d pas).reverse
    let img := fun (j : Nat) => match ws.find? fun w => w.1 == j with
      | some w => w.2
      | none => s1.homeByte (pieceAddr pas j)
    let n := imgNat img
    s.cur.replay = false → s.cur.path < 8 → s.me.standid < 65536 → s.me.ctx < 2 ^ 32 → (∀ kv ∈ s.me.oslots, kv.1 < k.nslot) →
    (∀ kv ∈ s.me.residuals, kv.1 < k.nres) →
    n 0 4 = 0x3153585A ∧ n 4 2 = 1 ∧ n 6 2 = 3 ∧ n 8 4 = s.me.ctx ∧ n 0x0C 2 = s.me.standid ∧ n 0x0E 2 = s.cur.st % 64 ∧ n 0x10 4 = s.me.mode.toNat ∧
    n 0x14 4 = s.me.dis.toNat ∧ n 0x18 4 = 0 ∧ n 0x24 2 = s.me.flags.toNat ∧ n 0x28 4 = s.me.scloff.toNat ∧ n 0x30 8 = s.me.gang.toNat ∧
    n 0x3A 1 = 0 ∧ n 0x3B 1 = 0 ∧ n 0x3C 2 % 2 = (if s.me.inHandler.isSome then 1 else 0) ∧
    (∀ j, j < 8 → n (0x40 + 16 * j) 16 = (if j = s.cur.path then { s.myPath with pc := s.myPath.pc + 1 } else s.me.path j).bits) ∧
    n 0xC0 8 = s.me.tcause.toNat ∧ n 0xC8 8 = s.me.tepc.toNat ∧ n 0xD0 8 = s.me.tval.toNat ∧ n 0xD8 8 = s.me.tmask.toNat ∧ n 0xE0 8 = s.me.tvec.toNat ∧
    n 0xE8 8 = s.me.tscratch.toNat ∧ n 0xFC 4 = imageCrc k img ∧
    (∀ r : SReg, n (k.offScalars + 8 * r.toNat) 8 = (if r = d ∧ r ≠ 63 then 1 else (s.me.sreg r).toNat)) ∧ n k.offTail 8 = s.me.retcnt.toNat ∧
    (∀ j, j < 16 → SMap.get? s.me.oslots j = none → j < k.nslot → ∀ b, b < 4128 → img (k.offSlots + 4128 * j + b) = 0) ∧
    ∀ j, j < k.imageSize - k.offRecords → img (k.offRecords + j) = 0) ∧
  (∀ (k : Kernel) (c : Ctx) (img : Nat → Byte),
    let n := imgNat img
    let bad := fun (m : Nat) => 2 ^ 25 ≤ m ∨ m.testBit 22 = true ∨ 0x10 ≤ m % 32 ∨ 5 ≤ m / 32 % 8 ∨ 6 ≤ m / 8192 % 8
    let below := fun (q : Path) => (q.state.runs = true ∧ q.pc.toNat < 16) ∨ (q.state = .serial ∧ q.xpc.toNat < 16) ∨
      ((q.state = .record ∨ q.state = .serial ∨ q.state = .serialj) ∧ q.jt.toNat < 16)
    let f1 := n 0 4 ≠ 0x3153585A ∨ n 4 2 ≠ 1
    let f2 := imageCrc k img ≠ n 0xFC 4
    let f5 := bad (n 0x10 4) ∨ bad (n 0xC4 4)
    let f6 := ∃ i, i < 16 ∧ n (k.offHandles + 8 * i) 8 / 2 ^ 32 % 16 ≠ 0 ∧
      n (k.offHandles + 8 * i) 8 / 2 ^ 40 ≠ handleMac c (n (k.offHandles + 8 * i) 8 % 2 ^ 40)
    let f7 := ∃ i, i < n 0x3B 1 ∧ i < 64 ∧ n (k.offReplies + 144 * i + 6) 1 ∉ [1, 2]
    let res := fun (i : Nat) => let b := k.offRes + 4160 * i
      n (b + 0x14) 1 ∈ [0x01, 0x07, 0x0B] ∧ n (b + 0x15) 1 % 2 = 1 ∧ n (b + 0x15) 1 < 4 ∧ ∀ j, j < 40 → img (b + 0x18 + j) = 0
    let slot := fun (i : Nat) => let b := k.offSlots + 4128 * i
      n (b + 1) 1 / 64 = 1 ∧ n (b + 1) 1 % 8 ≤ 2 ∧ n b 1 < 16 ∧ n (b + 2) 1 ≤ 32 ∧ (n b 1 = 0 → n (b + 2) 1 = 0) ∧ n (b + 0x10) 8 < 2 ^ 52 ∧
      n (b + 3) 1 = 0 ∧ n (b + 0x0C) 4 = 0 ∧ n (b + 0x18) 8 = 0
    let f8 := 80 < n 0x3A 1 ∨ 64 < n 0x3B 1 ∨ 2 ^ k.nres ≤ n 0x26 2 ∨ 2 ^ k.nslot ≤ n 0x3E 2 ∨
      (∃ i, i < k.nres ∧ (n 0x26 2).testBit i = true ∧ ¬ res i) ∨ (∃ i, i < k.nslot ∧ (n 0x3E 2).testBit i = true ∧ ¬ slot i) ∨
      ∃ i, i < 16 ∧ 2 < n (k.offTail + 32 + 32 * i) 1
    (f1 → imageCheck k c img = 1) ∧ (¬ f1 → f2 → imageCheck k c img = 2) ∧
    (¬ f1 → ¬ f2 → pathsOk k img = none → imageCheck k c img = 3) ∧
    (∀ ps deep, ¬ f1 → ¬ f2 → pathsOk k img = some (ps, deep) →
      let f4 := (∃ q ∈ ps ++ deep, below q) ∨ ((n 0x3C 2).testBit 0 = true ∧ n 0xC8 8 % 2 ^ 17 < 16) ∨
        ((n 0x3C 2).testBit 2 = true ∧ (n 0xF0 4 < 16 ∨ 2 ^ 17 ≤ n 0xF0 4))
      (f4 → imageCheck k c img = 4) ∧ (¬ f4 → f5 → imageCheck k c img = 5) ∧ (¬ f4 → ¬ f5 → f6 → imageCheck k c img = 6) ∧
      (¬ f4 → ¬ f5 → ¬ f6 → f7 → imageCheck k c img = 7) ∧ (¬ f4 → ¬ f5 → ¬ f6 → ¬ f7 → f8 → imageCheck k c img = 8) ∧
      (¬ f4 → ¬ f5 → ¬ f6 → ¬ f7 → ¬ f8 → imageCheck k c img = 0)) ∧
    (∀ q : Nat → Path, (∀ j, j < 8 → Path.ofBits (n (0x40 + 16 * j) 16) = some (q j) ∧ (q j).link = 0) →
      let live := fun (j : Nat) => (q j).state ≠ .free
      let up := fun (j : Nat) => (q j).parent.toNat
      let sound := (∀ j, j < 8 → live j → up j = j ∨ (q (up j)).state = .record) ∧
        (∀ j l, j < 8 → l < 8 → j ≠ l → (q j).state.runs = true → (q l).state.runs = true → (q j).mask &&& (q l).mask = 0) ∧
        (∀ j l, j < 8 → l < 8 → (q j).state.runs = true → (q l).state = .serial → (q j).mask &&& (q l).aux = 0) ∧
        (∀ j l, j < 8 → l < 8 → j ≠ l → (q j).state = .serial → (q l).state = .serial → (q j).aux &&& (q l).aux = 0) ∧
        (∀ j, j < 8 → (q j).state = .record → (q j).aux &&& ~~~ (q j).mask = 0) ∧
        (∀ j, j < 8 → live j → up j ≠ j → (q j).mask &&& ~~~ (q (up j)).mask = 0)
      (sound → pathsOk k img = some ((List.range 8).map q, [])) ∧ (¬ sound → pathsOk k img = none)) ∧
    ((∃ j, j < 8 ∧ Path.ofBits (n (0x40 + 16 * j) 16) = none) → pathsOk k img = none)) ∧
  (∀ h (d a : SReg) s s1 accs low id,
    let i : Instr := .ptst h d a
    Passes i s → s.cur.replay = false → (s.me.sreg a).toNat / 2 ^ 60 = 0 → (s.me.sreg a).toNat % 64 = 0 → s.me.alone s.cur.path = true → s.drained s.me = true →
    s.access s.cur.st true (imageNeed false) (imagePieces (s.kernelOf s.me) (s.me.sreg a)) = (s1, .go accs 0 low) →
    (s.myPath.pub = none → ∃ t p, exec i s = .next t ∧ t.pubs = s.pubs ++ [p] ∧ p.uid = s.me.uid ∧ p.scope = 5 ∧ t.myPath.pub = some p.id ∧
      t.myPath.wait = some .publication ∧ t.myPath.pc = s.myPath.pc ∧ KeepsRegs s t) ∧
    (∀ k, s.myPath.pub = some id → (∀ p ∈ s.pubs, p.id ≠ id) →
      ((s.me.spillParts (s.kernelOf s.me)).flatMap fun p => (List.range p.2.length).map (p.1 + ·)).find?
        (fun k => s1.poisonedAt (.mem (pieceAddr (rowPas accs) k))) = some k →
      exec i s = .next (((s.env i).leave s1).takeTrap s.cur.st s.cur.path s.myPath.pc false
        { cause := 0x07, tval := s.me.sreg a + BitVec.ofNat 64 k, tmask := s.trapMask i s.em, part := (s.env i).partDone })) ∧
    (s.myPath.pub = some id → (∀ p ∈ s.pubs, p.id ≠ id) →
      (∀ p ∈ s.me.spillParts (s.kernelOf s.me), ∀ k, k < p.2.length → s1.poisonedAt (.mem (pieceAddr (rowPas accs) (p.1 + k))) = false) →
      ∃ t op o, exec i s = .next t ∧ s.nextId ≤ op ∧ SMap.get? t.outs op = some o ∧ o.ins = i ∧ o.ctr = .stores ∧ o.cls = 0 ∧
        o.work = .store (((s.env i).imageWrites s1 d (rowPas accs)).map fun b =>
          ⟨.mem (pieceAddr (rowPas accs) b.1), s.me.sreg a + BitVec.ofNat 64 b.1, b.2, 0xFF⟩) (some 5) ∧ t.me.stores = s.me.stores + 1 ∧ Counted s t ∧ t.myPath.pc = s.myPath.pc + 1 ∧
        (d ≠ 63 → t.me.sreg d = 0) ∧ (∀ r, r ≠ d → t.me.sreg r = s.me.sreg r) ∧ t.me.vregs = s.me.vregs ∧ t.me.mode = s.me.mode ∧
        ∀ x, t.homeByte x = s.homeByte x)) ∧
  (∀ h (a : SReg) s s1 accs low,
    let i : Instr := .ptld h a
    Passes i s → (s.me.sreg a).toNat / 2 ^ 60 = 0 → (s.me.sreg a).toNat % 64 = 0 → s.me.alone s.cur.path = true → s.drained s.me = true →
    s.me.oslots = [] → s.me.residuals = [] → s.me.members = [] → s.me.inHandler = none → s.tagsHeld s.me.uid = false → s.acqHeld s.me.uid = false → s.readHeld s.me.uid = false →
    s.access s.cur.st true (imageNeed true) (imagePieces (s.kernelOf s.me) (s.me.sreg a)) = (s1, .go accs 0 low) →
    (∃ drawn, chargeAns s1 s.cur.st s.cur.path 1 Config.chargeReplay
      (imgGrowth (s.kernelOf s.me) fun k => s1.pocByte s.myCore 5 (pieceAddr (rowPas accs) k)) = .ok drawn) →
    ∃ t op o, exec i s = .next t ∧ s.nextId ≤ op ∧ SMap.get? t.outs op = some o ∧ o.ins = i ∧ (o.st, o.uid, o.orphan) = (s.cur.st, s.me.uid, false) ∧
      o.work = .ptld (rowPas accs) ∧ o.cls = 1 ∧ o.ctr = .loads ∧ t.me.loads = s.me.loads + 1 ∧ KeepsRegs s t ∧ t.me.flags = s.me.flags ∧
      t.loadsImage s.me.uid = true ∧ (∀ j, t.me.path j = s.me.path j) ∧ (∀ k, k ≠ s.cur.st → t.stand k = s.stand k) ∧
      ∀ x, t.homeByte x = s.homeByte x) ∧
  (∀ s op o h (a : SReg) pas, Rule.Of s op o → s.turns op o = s.needs o → o.ins = .ptld h a → o.work = .ptld pas → s.mayPerform op o false = true →
    (s.core (coreOf o.st)).combine = [] →
    let st := s.stand o.st
    let k := s.kernelOf st
    let img := fun (j : Nat) => s.pocByte (coreOf o.st) 5 (pieceAddr pas j)
    let n := imgNat img
    (∀ j, j < k.imageSize → s.poisonedAt (.mem (pieceAddr pas j)) = false) →
    (imageCheck k (s.ctx st.ctx) img = 0 → (s.core (coreOf o.st)).oslots.length + (imgSlots k img).length ≤ 64 →
      ∃ t, exec (.loadDataReturn op) s = .next t ∧ SMap.get? t.outs op = none ∧
        let u := t.stand o.st
        let list := s.listPlace o.st
        (∀ a, a < list ∨ list + 1024 ≤ a → t.homeByte a = s.homeByte a) ∧ (∀ j, j < 1024 → t.homeByte (list + j) = u.listBytes.getD j 0) ∧
        (u.uid, u.ctx, u.grove, u.standid) = (st.uid, st.ctx, st.grove, st.standid) ∧
        u.mode = BitVec.ofNat 32 (n 0x10 4) ∧ u.dis = BitVec.ofNat 32 (n 0x14 4) ∧ u.scloff = BitVec.ofNat 32 (n 0x28 4) ∧
        u.gang = BitVec.ofNat 64 (n 0x30 8) ∧ u.tcause = BitVec.ofNat 64 (n 0xC0 8) ∧ u.tepc = BitVec.ofNat 64 (n 0xC8 8) ∧
        u.tval = BitVec.ofNat 64 (n 0xD0 8) ∧ u.tmask = BitVec.ofNat 64 (n 0xD8 8) ∧ u.tscratch = BitVec.ofNat 64 (n 0xE8 8) ∧
        u.retcnt = BitVec.ofNat 64 (n k.offTail 8) ∧ u.replays.length = n 0x3A 1 ∧
        (∀ j p, j < 8 → Path.ofBits (n (0x40 + 16 * j) 16) = some p → (u.path j).entry = p) ∧
        (∀ b x y, x < 32 → y < 32 → b.toNat < k.nacc → u.acc b x y = BitVec.ofNat 32 (n (k.offAccs + 4 * (1024 * b.toNat + 32 * x + y)) 4)) ∧
        (n 0x3B 1 = 0 →
          (∀ r : SReg, r ≠ 63 → u.sreg r = BitVec.ofNat 64 (n (k.offScalars + 8 * r.toNat) 8)) ∧
          (∀ r l, l < 32 → r ≠ 127 → r.toNat < k.vregs → u.vreg r l = BitVec.ofNat 32 (n (256 + 4 * (32 * r.toNat + l)) 4)) ∧
          (∀ r, r < 15 → u.predVal r = BitVec.ofNat 32 (n (k.offPreds + 4 * r) 4)) ∧
          (∀ r, u.hreg r = BitVec.ofNat 64 (n (k.offHandles + 8 * r.toNat) 8)) ∧ u.flags = BitVec.ofNat 4 (n 0x24 2))) ∧
    (∀ c, imageCheck k (s.ctx st.ctx) img = c + 1 → st.inHandler = none → k.trapoff ≠ 0 → k.trapen.getLsbD 0x12 = true → o.path < 8 →
      (st.path o.path).state.runs = true → o.rpl = false → (s.core (coreOf o.st)).trace.on = false → c < 255 →
      ∃ t, exec (.loadDataReturn op) s = .next t ∧ SMap.get? t.outs op = none ∧ t.mem = s.mem ∧
        let u := t.stand o.st
        (u.tcause.extractLsb' 0 8).toNat = 0x12 ∧ (u.tcause.extractLsb' 16 8).toNat = c + 1 ∧
        u.tepc = BitVec.ofNat 64 (o.path * 2 ^ 17 + o.pc.toNat) ∧ u.tval = st.sreg a ∧ (u.path o.path).pc = BitVec.ofNat 17 k.trapoff ∧
        u.mode = st.mode ∧ u.vregs = st.vregs ∧ u.sregs = st.sregs ∧ u.preds = st.preds ∧ u.hregs = st.hregs ∧ u.accs = st.accs ∧
        ∀ j, j ≠ o.path → u.path j = st.path j))

/-! ## Handles, groups, queues, tasks and chains -/

/-- A detached operation as its rule describes it: the handle that it names with the KIND and the right it needs, the scopes of its release and its
acquire, its counter, and what it carries. -/
structure Sys2Proof.Rule.Detached where
  handle : HReg
  kind : Nat
  right : Nat
  rel : Option Nat
  acq : Option Nat
  ctr : Ctr
  ask : Ask

/-- The operations on handles (R203, R215–R219, R240, R245). RIGHTS of a group are M 0, I 1, D 2, of a queue E 0, D 1, S 2, of a chain A 0, R 1. -/
def Sys2Proof.Rule.detached (s : State) (i : Instr) : Option Rule.Detached :=
  let group := fun (a : HReg) (right : Nat) (rel round : Bool) (ctr : Ctr) (ask : Ask) =>
    let sc := (s.groupOf (s.me.hreg a)).map (·.scope)
    some { handle := a, kind := 1, right := right, rel := if rel then sc else none, acq := if round then sc else none, ctr := ctr,
           ask := { ask with handle := s.me.hreg a, ret := s.me.retcnt } : Rule.Detached }
  let record := fun (b : SReg) => (List.range 8).flatMap fun k => natLe (s.me.sreg (BitVec.ofNat 6 (b.toNat + k))).toNat 8
  let queue := fun (a : HReg) (right : Nat) (b : SReg) (enq : Bool) =>
    let sc := (s.queueOf (s.me.hreg a)).map (·.scope)
    if b.toNat ≤ 55 then some { handle := a, kind := 2, right := right, rel := if enq then sc else none, acq := if enq then none else sc,
                                ctr := .detached, ask := { handle := s.me.hreg a, bytes := if enq then record b else [] } : Rule.Detached }
    else none
  let et := s.me.mode.toNat % 32
  match i with
  | .gjoin _ _ a => group a 0 false false .detached {}
  | .gleave _ _ a => group a 0 true false .detached {}
  | .gbar _ _ a => group a 0 true true .detached {}
  | .gvote _ k p a _ => if k = 3 then none else group a 0 true true .detached { bit := decide (s.em &&& s.pred p.toNat ≠ 0) }
  | .gred _ _ a b op => if op = 3 ∨ ¬ (et = 1 ∨ et = 7 ∨ et = 11) then none else group a 0 true true .detached { val := s.me.sreg b }
  | .ginfo _ d a => if d = 62 then none else group a 1 false false .detached {}
  | .gdel _ _ a => group a 2 false false .detached {}
  | .xchg _ _ a hd => group hd 0 true true .loads { act := s.acts i, vals := SMap.tabulate 0 (fun l => s.me.vreg a l) 0 32 }
  | .qenq _ _ a b => queue a 0 b true
  | .qdeq _ _ a b => queue a 1 b false
  | .qsteal _ _ a b => queue a 2 b false
  | .chapp _ _ a b => if b.toNat ≤ 55 then some { handle := a, kind := 3, right := 0, rel := none, acq := none, ctr := .detached,
                                                  ask := { handle := s.me.hreg a, bytes := record b } } else none
  | .chseq _ _ a => some { handle := a, kind := 3, right := 1, rel := if modeRel s.me.mode then some (modeScope s.me.mode) else none,
                           acq := if modeAcq s.me.mode then some (modeScope s.me.mode) else none, ctr := .detached, ask := { handle := s.me.hreg a } }
  | _ => none

/-- R50, R205, R210, R215 to R219, R240 and R245: an operation on a handle traps with HANDLE where the handle's KIND is another, with RIGHTS where the
right is missing; otherwise it issues, once no operation of the stand is outstanding at the same group, no acquire holds it back (R173), the accesses
before its release are done, and its counter and the vacate check let it: it leaves a detached operation of class DETACH with what it carries. -/
def Obligations.HandleOperationsIssue : Prop :=
  ∀ i s m, Rule.detached s i = some m → Passes i s →
    let x := s.me.hreg m.handle
    ((x.extractLsb' 32 4).toNat ≠ m.kind → Traps i s 0x0C x s.em) ∧
    ((x.extractLsb' 32 4).toNat = m.kind → x.getLsbD (36 + m.right) = false → Traps i s 0x0D x s.em) ∧
    ((x.extractLsb' 32 4).toNat = m.kind → x.getLsbD (36 + m.right) = true → (m.kind = 1 → s.groupBusy s.me.uid x = false) →
      (m.kind ≠ 1 → s.acqHeld s.me.uid = false) → (m.rel.isSome = true → s.accessesDone s.me.uid = true) → (s.env i).full s m.ctr = false →
      (∃ drawn, chargeAns s s.cur.st s.cur.path 2 Config.chargeDetach 0 = .ok drawn) →
      ∃ t op o, exec i s = .next t ∧ Issues i s t op o ∧ o.work = .det .sent m.ask {} ∧ o.cls = 2 ∧ o.vu = Config.chargeDetach ∧ o.ctr = m.ctr ∧
        o.acq = m.acq ∧ t.me.flags = s.me.flags)

/-- R208, R214, R248, R250, R251: GCRT, TDONE, TFULL, TEMPTY and TSTAT issue a detached operation on the line that their aligned, accessible address
names; a TDONE of address 0 writes 0 to its status and is done. -/
def Obligations.LineOperationsIssue : Prop :=
  (∀ h d a s, Passes (.tdone h d a) s → (if a = 63 then s.me.taskrec else s.me.sreg a) = 0 →
    ∃ t, exec (.tdone h d a) s = .next t ∧ WritesS (.tdone h d a) s t d 0) ∧
  (∀ i s s1 accs low va align nd (rel acq : Option Nat),
    (match i with
      | .gcrt _ _ a _ => va = s.me.sreg a ∧ align = 64 ∧ nd = gcrtNeed ∧ rel = none ∧ acq = none ∧ s.me.mode.toNat / 2 ^ 13 % 8 ≠ 0 ∧ va.toNat / 2 ^ 60 = 0
      | .tdone _ _ a => va = (if a = 63 then s.me.taskrec else s.me.sreg a) ∧ va ≠ 0 ∧ align = 64 ∧ nd = tdoneNeed ∧
          rel = some (s.me.mode.toNat / 2 ^ 13 % 8) ∧ acq = none
      | .tfull _ _ a => va = s.me.sreg a ∧ align = 65536 ∧ nd = bufferNeed false ∧ rel = some (s.me.mode.toNat / 2 ^ 13 % 8) ∧ acq = none
      | .tempty _ _ a => va = s.me.sreg a ∧ align = 65536 ∧ nd = bufferNeed false ∧ rel = some (s.me.mode.toNat / 2 ^ 13 % 8) ∧ acq = none
      | .tstat _ _ a => va = s.me.sreg a ∧ align = 65536 ∧ nd = bufferNeed true ∧ rel = none ∧
          acq = if s.me.mode.getLsbD 16 then some (s.me.mode.toNat / 2 ^ 13 % 8) else none
      | _ => False) →
    Passes i s → va.toNat % align = 0 → s.access s.cur.st true nd [(0, va)] = (s1, .go accs 0 low) →
    (s.env i).accessWait s nd.load false = none → (rel.isSome = true → s.accessesDone s.me.uid = true) → (s.env i).full s .detached = false →
    (∃ drawn, chargeAns s1 s.cur.st s.cur.path 2 Config.chargeDetach 0 = .ok drawn) →
    ∃ t op o, exec i s = .next t ∧ Issues i s t op o ∧ o.work = .det .sent { val := va, pa := (rowPas accs).headD 0 } {} ∧ o.cls = 2 ∧ o.ctr = .detached ∧
      o.acq = acq ∧ t.me.flags = s.me.flags)

/-- R205, R206 and R240: S2H takes a handle whose MAC and KIND hold, clears the rights asked for and gives the rest its own MAC; another value raises
HANDLE. CHADV starts the publication after which the chain's tail moves, or does nothing for a handle whose generation has passed. -/
def Obligations.HandleRegisters : Prop :=
  (∀ h d a clr s,
    let i : Instr := .s2h h d a clr
    let x := s.me.sreg a
    let good := (x.extractLsb' 32 4).toNat ∈ [1, 2, 3, 4] ∧ (x.extractLsb' 40 24).toNat = handleMac (s.ctx s.me.ctx) x.toNat
    Passes i s →
    (¬ good → Traps i s 0x0C x s.em) ∧
    (good → ∃ t, exec i s = .next t ∧ Advances s t (s.nextPc i) ∧ OnlyMe s t ∧ Rule.bare t.me = Rule.bare s.me ∧ t.me.accs = s.me.accs ∧
      KeepsV s t ∧ KeepsS s t ∧ KeepsP s t ∧ KeepsMode s t ∧ KeepsFlags s t ∧ (∀ r, r ≠ d → t.me.hreg r = s.me.hreg r) ∧
      (t.me.hreg d).extractLsb' 0 36 = x.extractLsb' 0 36 ∧ (t.me.hreg d).extractLsb' 36 4 = x.extractLsb' 36 4 &&& (clr ^^^ 15#4) ∧
      ((t.me.hreg d).extractLsb' 40 24).toNat = handleMac (s.ctx s.me.ctx) (t.me.hreg d).toNat)) ∧
  (∀ h a s,
    let i : Instr := .chadv h a
    let x := s.me.hreg a
    Passes i s →
    ((x.extractLsb' 32 4).toNat ≠ 3 → Traps i s 0x0C x s.em) ∧
    ((x.extractLsb' 32 4).toNat = 3 → x.getLsbD 36 = false → Traps i s 0x0D x s.em) ∧
    ((x.extractLsb' 32 4).toNat = 3 → x.getLsbD 36 = true → s.chainOf x = none → ∃ t, exec i s = .next t ∧ Jumps s t (s.nextPc i)) ∧
    (∀ c, (x.extractLsb' 32 4).toNat = 3 → x.getLsbD 36 = true → s.chainOf x = some c → 2 ≤ c.scope → s.accessesDone s.me.uid = true →
      s.me.residuals = [] → (∀ p ∈ s.pubs, p.id < s.nextId) →
      ∃ t p, exec i s = .next t ∧ Advances s t (s.nextPc i) ∧ KeepsRegs s t ∧ t.me.flags = s.me.flags ∧ t.pubs = s.pubs ++ [p] ∧ p.uid = s.me.uid ∧
        p.scope = c.scope ∧ p.chain = some (handleKey x, handleGen x) ∧ t.chains = s.chains ∧ ∀ y, t.homeByte y = s.homeByte y))

/-- R31, R146, R147, R229 and R368: SPAWN with a count of 1 to 16 and an entry of the table makes that many stands of the caller's grove at the lowest
free indices, with the lowest free `standid`s, each at its entry with `s0` as given, and names the first; where places are missing it makes none
and gives all ones. Another literal raises ILLEGAL; that its `tval` is the literal alone is log entry 11: the model's choice. -/
def Obligations.SpawnMakesStands : Prop :=
  ∀ h (d a : SReg) (lit : Word) s drawn,
    let i : Instr := .spawn h d a lit
    let n := (lit.extractLsb' 16 8).toNat
    let e := (lit.extractLsb' 0 16).toNat
    let k := s.kernelOf s.me
    let free := s.freeIdx s.myCore
    let ids := s.freeIds s.me.grove k
    let refused := n = 0 ∨ 16 < n ∨ k.entries.length ≤ e ∨ lit.extractLsb' 24 8 ≠ 0
    let fits := n ≤ free.length ∧ n ≤ ids.length ∧ (s.grove s.me.grove).size + n ≤ 64 ∧ k.holds ((s.grove s.me.grove).size + n) = true
    Passes i s → s.cur.replay = false →
    (refused → Traps i s 0x01 (lit.setWidth 64) (s.em &&& s.me.guard)) ∧
    (¬ refused → s.spawnHeld s.me.uid = false → chargeAns s s.cur.st s.cur.path 5 0 (n * k.standBytes) = .ok drawn → ¬ fits →
      ∃ t, exec i s = .next t ∧ Advances s t (s.myPath.pc + 2) ∧ (d ≠ 63 → t.me.sreg d = 0xFFFFFFFFFFFFFFFF#64) ∧
        (∀ r, r ≠ d → t.me.sreg r = s.me.sreg r) ∧ KeepsV s t ∧ KeepsP s t ∧ KeepsMode s t ∧ KeepsFlags s t ∧
        (∀ j, j ≠ s.cur.st → t.stand j = s.stand j) ∧ ∀ x, t.homeByte x = s.homeByte x) ∧
    (¬ refused → s.spawnHeld s.me.uid = false → chargeAns s s.cur.st s.cur.path 5 0 (n * k.standBytes) = .ok drawn → fits →
      SMap.sortedFrom 0 s.stands = true → (SMap.get? s.stands s.cur.st).isSome = true →
      ∃ t, exec i s = .next t ∧ Advances s t (s.myPath.pc + 2) ∧ (d ≠ 63 → t.me.sreg d = BitVec.ofNat 64 (free.headD 0)) ∧
        (∀ r, r ≠ d → t.me.sreg r = s.me.sreg r) ∧ KeepsV s t ∧ KeepsP s t ∧ KeepsMode s t ∧ KeepsFlags s t ∧
        (t.grove s.me.grove).size = (s.grove s.me.grove).size + n ∧
        (∀ j, j < n → ∀ x id, free[j]? = some x → ids[j]? = some id →
          let u := t.stand (s.myCore * 64 + x)
          u.grove = s.me.grove ∧ u.ctx = s.me.ctx ∧ u.standid = id ∧ u.sreg 0 = s.me.sreg a ∧ (∀ r, r ≠ 0 → u.sreg r = 0) ∧ u.vregs = [] ∧
          u.preds = [] ∧ u.hregs = [] ∧ u.accs = [] ∧ u.mode = 0 ∧ u.flags = 0 ∧ u.dis = 0 ∧ u.gang = BitVec.ofNat 64 (2 ^ 48 + id) ∧
          (u.path 0).state = .active ∧ (u.path 0).pc = BitVec.ofNat 17 (k.entries.getD e 16) ∧ (u.path 0).mask = 0xFFFFFFFF#32 ∧
          ∀ q, 0 < q → u.path q = {}) ∧
        (∀ j, j ≠ s.cur.st → (∀ x ∈ free.take n, j ≠ s.myCore * 64 + x) → t.stand j = s.stand j) ∧ ∀ x, t.homeByte x = s.homeByte x)

/-! ## What operations do after they have issued -/

/-- R48, R95, R101, R128, R345, R346, R366 and R373: when its data returns, LD writes what it read to its active lanes and no other, SLD its scalar and
TAGGET the tags; a PREF is done. The operation is complete, and no byte of memory has changed. What a lane of an LD gets: the raw bits in a window or on a
B32 page, else the element of the page, with its block scale, converted to `mode.ET`; of CB2 the element that the lane names, through the table of
`mode.CB`; a narrow integer is filled as `mode.SX` says. -/
def Obligations.LoadsReturn : Prop :=
  (∀ (s : State) (o : Out) (scloff : Nat) (x : Acc),
    let et := o.mode.toNat % 32
    let rm := o.mode.toNat / 32 % 8
    let n := Rule.bytes et x.fmt
    let read := fun (p : Place) => match p with
      | .mem pa => (SMap.get? o.seen pa).getD (s.readPlace (coreOf o.st) (orderedScope o.mode) p)
      | .scr _ _ => s.readPlace (coreOf o.st) (orderedScope o.mode) p
    let raw := leNat ((x.pl.span n).map read)
    let elem := if Rule.width (if x.fmt = 0 then et else x.fmt) = 4 then raw / 16 ^ (x.lane % 2) % 16 else raw
    let off := match x.pl with | .mem pa => pa - x.page | .scr _ _ => 0
    let index := if x.fmt = 14 then 8 * (off / 2) + x.lane % 8 else if Rule.width x.fmt = 4 then 2 * off + x.lane % 2 else off / n
    let byte := (read (.mem (x.page + scloff + index / (if x.geom = 1 then 32 else 16)))).toNat
    let scale := if (x.geom = 1 ∨ x.geom = 2) ∧ x.fmt ≠ 0 ∧ ¬ (7 ≤ x.fmt ∧ x.fmt ≤ 13) then
      (if byte = 255 then Scale.nan else Scale.pow (Int.ofNat byte - 127)) else Scale.none
    x.fmt < 16 →
    (x.fmt = 0 → s.loadRes o scloff x = ⟨elem, 0⟩) ∧
    (x.fmt ≠ 0 → x.fmt ≠ 14 → s.loadRes o scloff x = convert x.fmt et rm scale elem) ∧
    (x.fmt = 14 →
      let row := (SMap.get 0 (s.ctxSlot (coreOf o.st) o.ctx).tabs (256 * (o.mode.toNat / 2 ^ 18 % 8) + raw / 256)).toNat
      let j := x.lane % 8
      let m := 2 * (row / 16 ^ j % 16) + raw % 2
      let sign := if j = 7 then decide (((List.range 7).countP fun k => raw.testBit (k + 1)) % 2 = 1) else raw.testBit (j + 1)
      let v := FVal.fin (sign && decide (m ≠ 0)) m (-1)
      s.loadRes o scloff x = encodeVal et rm true (match scale with
        | .none => v
        | .nan => .nan
        | .pow k => .fin (sign && decide (m ≠ 0)) m (-1 + k)))) ∧
  (∀ (mode : Word) (c : Nat),
    let n := Rule.width (mode.toNat % 32)
    ldFill mode c = BitVec.ofNat 32 (c % 2 ^ n +
      if mode.getLsbD 21 = true ∧ mode.toNat % 32 ∈ [8, 9, 10, 12, 13] ∧ c.testBit (n - 1) = true then 2 ^ 32 - 2 ^ n else 0)) ∧
  (∀ s op o accs scloff h d a b, Rule.Of s op o → s.turns op o = s.needs o → o.work = .load accs scloff → o.ins = .ld h d a b → s.mayPerform op o false = true →
    s.peerHeld .load o.named = false →
    (s.core (coreOf o.st)).combine = [] → (∀ x ∈ accs, ∀ p ∈ loadPlaces o.mode scloff x, s.poisonedAt p = false) →
    (∀ x ∈ accs, x.lane < 32) → (accs.map (·.lane)).Nodup →
    let s1 := s.readAll (coreOf o.st) (orderedScope o.mode) (accs.flatMap (loadPlaces o.mode scloff))
    ∃ t, exec (.loadDataReturn op) s = .next t ∧ Rule.Completed s t op o ∧ t.mem = s.mem ∧
      { Rule.calm (t.stand o.st) with vregs := [], flags := 0 } = { Rule.calm (s.stand o.st) with vregs := [], flags := 0 } ∧
      (t.stand o.st).flags = (s.stand o.st).flags ||| Rule.loadFlags s1 o scloff accs ∧
      (∀ x ∈ accs, d ≠ 127 → (t.stand o.st).vreg d x.lane = ldFill o.mode (s1.loadRes o scloff x).code) ∧
      ∀ r l, l < 32 → (r ≠ d ∨ ∀ x ∈ accs, x.lane ≠ l) → (t.stand o.st).vreg r l = (s.stand o.st).vreg r l) ∧
  (∀ s op o x h d a, Rule.Of s op o → s.turns op o = s.needs o → o.work = .sload x → o.ins = .sld h d a → s.mayPerform op o false = true →
    s.peerHeld .load o.named = false →
    (s.core (coreOf o.st)).combine = [] → (∀ p ∈ x.pl.span 8, s.poisonedAt p = false) →
    let sc := if o.mode.toNat / 65536 % 4 = 0 then none else some (o.mode.toNat / 8192 % 8)
    let s1 := s.readAll (coreOf o.st) sc (x.pl.span 8)
    let val := fun (p : Place) => match p with
      | .mem pa => (SMap.get? o.seen pa).getD (s1.readPlace (coreOf o.st) sc p)
      | .scr _ _ => s1.readPlace (coreOf o.st) sc p
    ∃ t, exec (.loadDataReturn op) s = .next t ∧ Rule.Completed s t op o ∧ t.mem = s.mem ∧
      { Rule.calm (t.stand o.st) with sregs := [] } = { Rule.calm (s.stand o.st) with sregs := [] } ∧
      (d ≠ 63 → (t.stand o.st).sreg d = BitVec.ofNat 64 (leNat ((x.pl.span 8).map val))) ∧
      ∀ r, r ≠ d → (t.stand o.st).sreg r = (s.stand o.st).sreg r) ∧
  (∀ s op o accs h d a, Rule.Of s op o → s.turns op o = s.needs o → o.work = .tagget accs → o.ins = .tagget h d a → s.mayPerform op o false = true →
    (∀ x ∈ accs, s.poisonedAt x.pl = false) → (∀ x ∈ accs, x.lane < 32) → (accs.map (·.lane)).Nodup →
    let s1 := s.readAll (coreOf o.st) none (accs.map (·.pl.tag))
    ∃ t, exec (.loadDataReturn op) s = .next t ∧ Rule.Completed s t op o ∧ t.mem = s.mem ∧
      { Rule.calm (t.stand o.st) with vregs := [] } = { Rule.calm (s.stand o.st) with vregs := [] } ∧
      (∀ x ∈ accs, d ≠ 127 → (t.stand o.st).vreg d x.lane = BitVec.ofNat 32 ((s1.readPlace (coreOf o.st) none x.pl.tag).toNat % 16)) ∧
      ∀ r l, l < 32 → (r ≠ d ∨ ∀ x ∈ accs, x.lane ≠ l) → (t.stand o.st).vreg r l = (s.stand o.st).vreg r l) ∧
  (∀ s op o, Rule.Of s op o → o.work = .pref → s.mayPerform op o false = true →
    ∃ t, exec (.loadDataReturn op) s = .next t ∧ Rule.Completed s t op o ∧ t.mem = s.mem ∧
      Rule.calm (t.stand o.st) = Rule.calm (s.stand o.st))

/-- R164, R173, R175, R308, R309, R371 and R172: a store writes its bits where its ordering puts them; a word of an atomic performs at its place as
one step, lane by lane; a returning atomic's lanes then get the old values; a relaxed atomic rests in the combining buffer until it leaves; a complete
publication leaves at the point of coherence of its scope what its core held unpublished; and a write to a live backing line is dropped and leaves its
path the GROUPLINE to raise (R208). A DISCARD zeroes a tile and its tags everywhere, and its home notes the tile in the die's log (R136, R137). What ST
writes of a lane is the raw element or, converted, that of the page's format, and of a 4-bit element its nibble (R370); what an atomic makes of a word is
its operation, lane after lane, each lane getting the value before it (R307, R308). -/
def Obligations.WritesPerform : Prop :=
  (∀ (et rm : Nat) (x : Acc) (v : Word),
    let c := (convert et x.fmt rm .none (v.toNat % 2 ^ Rule.width et)).code
    stRes et rm x.fmt v = convert et x.fmt rm .none (v.toNat % 2 ^ Rule.width et) ∧
    (x.fmt = 0 → Rule.width et = 4 → stBytes et rm x v =
      [⟨x.pl, x.va, BitVec.ofNat 8 (v.toNat % 16 * 16 ^ (x.lane % 2)), if x.lane % 2 = 0 then 0x0F else 0xF0⟩]) ∧
    (¬ (x.fmt = 0 ∧ Rule.width et = 4) → stBytes et rm x v =
      (List.range (Rule.bytes et x.fmt)).map fun k => ⟨x.pl.add k, x.va, BitVec.ofNat 8 (c / 256 ^ k), 0xFF⟩)) ∧
  (∀ h d a b (et rm : Nat) (w x y : Word),
    let order := fun (max : Bool) (p q : Word) => if et = 1 then BitVec.ofNat 32 (elemMinMax 1 max p.toNat q.toNat)
      else if (if et = 7 then decide (p.toInt ≤ q.toInt) else decide (p.toNat ≤ q.toNat)) != max then p else q
    let sum := fpAdd 1 rm w.toNat x.toNat
    (et = 1 ∨ et = 7 ∨ et = 11 →
      atomicNew (.aadd h d a b) et rm w x y = (if et = 1 then (BitVec.ofNat 32 sum.code, sum.flags) else (w + x, 0)) ∧
      atomicNew (.amin h d a b) et rm w x y = (order false w x, 0) ∧ atomicNew (.amax h d a b) et rm w x y = (order true w x, 0)) ∧
    atomicNew (.aand h d a b) et rm w x y = (w &&& x, 0) ∧ atomicNew (.aor h d a b) et rm w x y = (w ||| x, 0) ∧
    atomicNew (.axor h d a b) et rm w x y = (w ^^^ x, 0) ∧ atomicNew (.axch h d a b) et rm w x y = (x, 0) ∧
    atomicNew (.acas h d a b) et rm w x y = (if w = x then y else w, 0)) ∧
  (∀ i (et rm : Nat) (x y : SMap Word) (w : Word) (ls : List Nat),
    let new := fun (u : Word) (l : Nat) => atomicNew i et rm u (SMap.get 0 x l) (SMap.get 0 y l)
    let at_ := fun (n : Nat) => (ls.take n).foldl (fun u l => (new u l).1) w
    let r := atomicLanes i et rm x y w ls
    r.1 = at_ ls.length ∧ r.2.1 = (List.range ls.length).map (fun n => (ls.getD n 0, at_ n)) ∧
    r.2.2 = (List.range ls.length).foldl (fun f n => f ||| (new (at_ n) (ls.getD n 0)).2) 0) ∧
  (∀ s op o wr sc, Rule.Of s op o → s.turns op o = s.needs o → s.peerHeld .store o.named = false → o.work = .store wr sc → o.acq = none →
    s.mayPerform op o true = true → (s.core (coreOf o.st)).combine = [] →
    (∀ w ∈ wr, ∃ pa, w.pl = .mem pa) → (∀ w ∈ wr, s.wrLive w = false) →
    ∃ t, exec (.storePerformed op) s = .next t ∧ Rule.Completed s t op o ∧ Rule.calm (t.stand o.st) = Rule.calm (s.stand o.st) ∧
      (sc = none → t.mem = s.mem ∧
        ∀ pa, t.coreByte (coreOf o.st) pa = Rule.written wr (.mem pa) (s.coreByte (coreOf o.st) pa)) ∧
      (sc = some 2 → t.mem = s.mem ∧ ∀ pa, t.copseByte (copseOfCore (coreOf o.st)) pa =
        if wr.any (fun w => w.pl == .mem pa) = true then Rule.written wr (.mem pa) (s.pocByte (coreOf o.st) 2 pa)
        else s.copseByte (copseOfCore (coreOf o.st)) pa) ∧
      (∀ c, sc = some c → 3 ≤ c → ∀ pa, t.homeByte pa =
        if wr.any (fun w => w.pl == .mem pa) = true then Rule.written wr (.mem pa) (s.pocByte (coreOf o.st) c pa) else s.homeByte pa)) ∧
  (∀ s op o va x rest, Rule.Of s op o → s.turns op o = s.needs o → o.work = .discard va (x :: rest) → x % 4096 = 0 → s.pubBefore o.uid op = false →
    s.earlierInTile o.uid op x = false → s.earlier o.uid op Out.storesMem = false → (s.core (coreOf o.st)).combine = [] →
    let log := (s.die (dieOfHome ((homeOf x).getD 0))).dlog
    let place := log.base + 8 * (log.next % log.cap)
    let here := log.cap ≠ 0 ∧ pelfoldOf x = s.devid
    let noted := fun (a : Nat) => here ∧ place ≤ a ∧ a < place + 8
    ∃ t, exec (.storePerformed op) s = .next t ∧ Rule.calm (t.stand o.st) = Rule.calm (s.stand o.st) ∧
      (rest = [] → Rule.Completed s t op o) ∧ (rest ≠ [] → SMap.get? t.outs op = some { o with work := .discard va rest }) ∧
      (∀ i, i < 4096 → ¬ noted (x + i) → t.homeByte (x + i) = 0 ∧ ∀ k, t.coreByte k (x + i) = 0) ∧
      (∀ i, i < 128 → ¬ noted (Config.tagBase + x / 32 + i) → t.homeByte (Config.tagBase + x / 32 + i) = 0) ∧
      (∀ i, i < 8 → here → t.homeByte (place + i) = BitVec.ofNat 8 (x / 2 ^ (8 * i))) ∧
      ∀ a, ¬ noted a → ¬ (x ≤ a ∧ a < x + 4096) → ¬ (Config.tagBase + x / 32 ≤ a ∧ a < Config.tagBase + x / 32 + 128) → t.homeByte a = s.homeByte a) ∧
  (∀ s op o pa va l et rm x y, Rule.Of s op o → o.work = .atomic [⟨.mem pa, va, [l], false⟩] et rm x y [] 0 0 → o.rests = true → o.cls = 0 →
    s.peerHeld .store o.named = false → (∀ g ∈ ((s.stand o.st).path o.path).glines, g.1 ≠ op) → s.mayPerform op o true = true → (s.core (coreOf o.st)).combine = [] → SMap.get? s.live (lineNo pa) = none →
    ∃ t, exec (.storePerformed op) s = .next t ∧ Rule.Completed s t op o ∧ t.mem = s.mem ∧ Rule.calm (t.stand o.st) = Rule.calm (s.stand o.st) ∧
      (t.core (coreOf o.st)).combine = [⟨pa, o.ins, et, rm, SMap.get 0 x l, [o.owner op va], s.cycOf (coreOf o.st)⟩]) ∧
  (∀ s op o a k w pa, Rule.Of s op o → o.atomicSt = some a → a.ws[k]? = some w → w.done = false → w.pl = .mem pa → o.rests = false →
    s.earlierAccess o.uid op (w.pl.span 4) = false → s.pubBefore o.uid op = false → (inWindow0 w.va = true → s.earlier o.uid op Out.ownScratch = false) →
    s.peerHeld .store ((w.pl.span 4).map (w.va, ·)) = false → (∀ h, w.home = some h → s.homeTurn h op k = true) →
    pa % 4 = 0 → pa < Config.tagBase → (s.core (coreOf o.st)).combine = [] → SMap.get? s.live (lineNo pa) = none → s.poisonedAt w.pl = false →
    let r := atomicLanes o.ins a.et a.rm a.x a.y (Rule.seenWord s (coreOf o.st) pa) w.lanes
    ∃ t, exec (.atomicAtHome op k) s = .next t ∧ t.homeWord pa = r.1 ∧
      (∀ b, b < pa ∨ pa + 4 ≤ b → t.homeByte b = if b / 64 = pa / 64 then s.pocByte (coreOf o.st) 3 b else s.homeByte b) ∧
      Rule.calm (t.stand o.st) = Rule.calm (s.stand o.st) ∧
      (o.cls = 2 → ∃ u, SMap.get? t.outs op = some { o with work := u } ∧ u = AtomicSt.work { a with ws := a.ws.set k { w with done := true }, ret := SMap.setAll 0 a.ret r.2.1, fl := a.fl ||| r.2.2 }) ∧
      (o.cls ≠ 2 → (∀ j v, j ≠ k → a.ws[j]? = some v → v.done = true) → Rule.Completed s t op o)) ∧
  (∀ s op o a, Rule.Of s op o → o.atomicSt = some a → o.cls = 2 → o.redirect = none → (∀ w ∈ a.ws, w.done = true) → a.poison = 0 → atomicDst o.ins < 127 →
    ∃ t, exec (.atomicReply op) s = .next t ∧ Rule.Completed s t op o ∧ t.mem = s.mem ∧ (t.stand o.st).flags = (s.stand o.st).flags ||| a.fl ∧
      { Rule.calm (t.stand o.st) with vregs := [], flags := 0 } = { Rule.calm (s.stand o.st) with vregs := [], flags := 0 } ∧
      ∀ r l, l < 32 → (t.stand o.st).vreg r l =
        if r.toNat = atomicDst o.ins ∧ o.lanes.getLsbD l = true then SMap.get 0 a.ret l else (s.stand o.st).vreg r l) ∧
  (∀ s core e rest, (s.core core).combine = e :: rest → s.fab.up = true → s.poisonedAt (.mem e.pa) = false →
    SMap.get? s.live (lineNo e.pa) = none → e.pa % 4 = 0 → e.pa < Config.tagBase →
    ∃ t, exec (.combineEntryTimeout core 0) s = .next t ∧ (t.core core).combine = rest ∧ t.stands = s.stands ∧ t.outs = s.outs ∧
      t.homeWord e.pa = (atomicNew e.ins e.et e.rm (Rule.seenWord s core e.pa) e.value 0).1 ∧
      ∀ b, b < e.pa ∨ e.pa + 4 ≤ b → t.homeByte b = if b / 64 = e.pa / 64 then s.pocByte core 3 b else s.homeByte b) ∧
  (∀ s p, s.pubs.find? (fun q => q.core == p.core) = some p → s.pubs.find? (fun q => q.id == p.id) = some p → 2 ≤ p.scope → p.chain = none →
    s.fab.up = true → (∀ op ∈ p.tiles, SMap.get? s.outs op = none) → (s.core p.core).combine = [] → s.live = [] →
    ∃ t, exec (.publicationComplete p.id) s = .next t ∧ t.pubs = s.pubs.filter (fun q => q.id != p.id) ∧ t.stands = s.stands ∧ t.outs = s.outs ∧
      (3 ≤ p.scope → ∀ pa, t.homeByte pa = s.pocByte p.core 3 pa) ∧
      (p.scope = 2 → t.mem = s.mem ∧ ∀ pa, t.copseByte (copseOfCore p.core) pa = s.pocByte p.core 2 pa)) ∧
  (∀ s op o w sc n, Rule.Of s op o → s.turns op o = s.needs o → s.peerHeld .store o.named = false → o.work = .store [w] sc → s.mayPerform op o true = true → (s.core (coreOf o.st)).combine = [] →
    w.line = some n → (SMap.get? s.live n).isSome = true → ((s.stand o.st).path o.path).state ≠ .free → ((s.stand o.st).path o.path).glines = [] →
    ∃ t, exec (.storePerformed op) s = .next t ∧ SMap.get? t.outs op = none ∧ t.mem = s.mem ∧ t.live = s.live ∧
      ((t.stand o.st).path o.path).glines = [(op, w.va, o.lanes)])

/-- R189 to R196, R200 and R311: the course of a tile from the drain path to its home: its header goes out, the home grants or refuses it, a refused
one backs off and comes again or rests in a residual slot, a granted one sends its payload, and the home adds it element by element. That a slot holds the
same destination where base, stride and element type agree is log entry 80; that the timers come at any time, and let the cycle counter reach their time, is
log entry 43: the model's choices. -/
def Obligations.TilesTravel : Prop :=
  (∀ s core op o x, s.nextHeader core = some op → s.tileOp op = some (o, x) → x.stage = .drain → x.ast = false → s.sameDestWaits op o x = false →
    s.pubBefore o.uid op = false →
    ∃ t, exec (.tileOffer core) s = .next t ∧ t.tileOp op = some ({ o with work := .tile { x with stage := .offered } }, { x with stage := .offered }) ∧
      { t with outs := s.outs } = s ∧ ∀ j, j ≠ op → SMap.get? t.outs j = SMap.get? s.outs j) ∧
  (∀ s op o x, s.tileOp op = some (o, x) → x.stage = .offered → s.carried o = true → s.homeTurn x.home op 0 = true →
    let full := decide (2 ≤ ((s.home x.home).tiles.filter fun y => !y.flush && y.core == coreOf o.st).length) ||
      decide (2 ≤ ((s.home x.home).tiles.filter fun y => !y.flush && y.rpa == x.rpa).length)
    ∃ t, exec (.tileHeaderAtHome op) s = .next t ∧ (t.tileOp op).map (·.2) = some { x with stage := if full then .refused else .granted } ∧
      (t.home x.home).tiles = (s.home x.home).tiles ++ (if full then [] else [⟨op, coreOf o.st, x.rpa, false, false⟩]) ∧
      t.mem = s.mem ∧ t.stands = s.stands ∧ ∀ j, j ≠ op → SMap.get? t.outs j = SMap.get? s.outs j) ∧
  (∀ s op o x, Rule.Of s op o → s.tileOp op = some (o, x) → x.stage = .granted → x.slot = none → x.ast = false → x.grow = false →
    (s.asFlush op x = true ∨ s.homeTurn x.home op 1 = true) →
    (∀ kv ∈ s.outs, ∀ l, kv.2.work ≠ .rflush l) → (∀ n r, (s.stand o.st).slotFor x.rpa x.stride x.et = some (n, r) → r.offer = none) →
    ∃ t, exec (.tileGrant op) s = .next t ∧ op ∉ (t.core (coreOf o.st)).drain ∧ t.mem = s.mem ∧
      (o.ctr = .tiles → (t.stand o.st).tiles = (s.stand o.st).tiles - 1) ∧
      (∀ y ∈ (t.home x.home).tiles, y.op = op → y.sent = true) ∧
      ∃ w, (t.tileOp op).map (·.2) = some w ∧ w.stage = .home ∧ w.rows = x.rows ∧ w.et = x.et ∧
        match (s.stand o.st).slotFor x.rpa x.stride x.et with
        | none => w.vals = x.vals ∧ w.poisoned = x.poisoned
        | some (n, r) => (∀ k, k < 1024 → SMap.get 0 w.vals k = addElem x.et (SMap.get 0 r.tile k) (SMap.get 0 x.vals k)) ∧
            SMap.get? (t.stand o.st).residuals n = none) ∧
  (∀ s op o x, Rule.Of s op o → s.tileOp op = some (o, x) → x.stage = .refused → x.slot = none → x.ast = false → x.grow = false →
    s.wantedByFlush o.uid op = false → s.wantedByPub op = false → (∀ kv ∈ s.outs, ∀ l, kv.2.work ≠ .rflush l) →
    ∃ t, exec (.tileRefused op) s = .next t ∧ t.mem = s.mem ∧
      (t.stand o.st).accref = (if (s.stand o.st).accref = 0xFFFFFFFF#32 then (s.stand o.st).accref else (s.stand o.st).accref + 1) ∧
      match (s.stand o.st).slotFor x.rpa x.stride x.et with
      | none => (t.tileOp op).map (·.2) = some { x with
          refusals := x.refusals + 1, delay := if x.delay = 0 then 64 else min 1024 (2 * x.delay), since := s.cycOf (coreOf o.st),
          stage := if 8 ≤ x.refusals + 1 then .flushing else .backoff }
      | some (n, r) => SMap.get? t.outs op = none ∧ op ∉ (t.core (coreOf o.st)).drain ∧
          ∃ q, SMap.get? (t.stand o.st).residuals n = some q ∧ q.count = min 65535 (r.count + 1) ∧
            ∀ k, k < 1024 → SMap.get 0 q.tile k = addElem x.et (SMap.get 0 r.tile k) (SMap.get 0 x.vals k)) ∧
  (∀ s core op o x, s.nextHeader core = some op → s.tileOp op = some (o, x) → x.stage = .backoff →
    ∃ t, exec (.tileReofferTimer core) s = .next t ∧ (t.tileOp op).map (·.2) = some { x with stage := .drain } ∧
      { t with outs := s.outs, dies := s.dies } = s ∧ x.since + x.delay ≤ t.cycOf core) ∧
  (∀ s key slot st r, SMap.get? s.stands key = some st → SMap.get? st.residuals slot = some r → r.offer = none →
    ∃ t, exec (.residualRetryTimer key slot) s = .next t ∧ SMap.get? (t.stand key).residuals slot = some { r with offer := some s.nextId } ∧
      t.mem = s.mem ∧ t.nextId = s.nextId + 1 ∧ r.since + r.delay ≤ t.cycOf (coreOf key) ∧
      ∃ w, (t.tileOp s.nextId).map (·.2) = some w ∧ w.slot = some slot ∧ w.rpa = r.rpa ∧ w.stage = if 8 ≤ r.refused then .flushing else .offered) ∧
  (∀ s op o x, s.tileOp op = some (o, x) → x.stage = .flushing → s.carried o = true →
    (∀ y ∈ (s.home x.home).tiles, ¬ (y.flush = true ∧ y.core = coreOf o.st)) → s.sameDestWaits op o x = false → s.tileHeld o.uid op = false →
    (op ∉ (s.core (coreOf o.st)).drain ∨ s.nextHeader (coreOf o.st) = some op) →
    ∃ t, exec (.flushRequestAtHome op) s = .next t ∧ (t.tileOp op).map (·.2) = some { x with stage := .granted } ∧
      (t.home x.home).tiles = (s.home x.home).tiles ++ [⟨op, coreOf o.st, x.rpa, true, false⟩] ∧ t.mem = s.mem ∧ t.stands = s.stands) ∧
  (∀ s op o x y, s.tileOp op = some (o, x) → (s.home x.home).tiles.find? (fun z => z.rpa == x.rpa) = some y → y.op = op → y.sent = true →
    s.tileHeld o.uid op = false → x.poisoned = false → s.live = [] → x.rows.length = 32 →
    (∀ i j, i < j → j < 32 → x.rows.getD i 0 + 128 ≤ x.rows.getD j 0 ∨ x.rows.getD j 0 + 128 ≤ x.rows.getD i 0) →
    ∃ t, exec (.tileApply x.home op) s = .next t ∧ SMap.get? t.outs op = none ∧ t.stands = s.stands ∧
      (∀ z ∈ (t.home x.home).tiles, z.op ≠ op) ∧
      (∀ i j, i < 32 → j < 32 → t.homeWord (x.rows.getD i 0 + 4 * j) = addElem x.et (s.homeWord (x.rows.getD i 0 + 4 * j)) (SMap.get 0 x.vals (32 * i + j))) ∧
      ∀ a, (∀ r ∈ x.rows, a < r ∨ r + 128 ≤ a) → t.homeByte a = s.homeByte a) ∧
  (∀ s op o x, Rule.Of s op o → s.turns op o = s.needs o → s.tileOp op = some (o, x) → x.stage = .home → x.ast = true → s.mayPerform op o true = true →
    (s.core (coreOf o.st)).combine = [] → x.poisoned = false → s.live = [] → s.poison = [] → x.rows.length = 32 →
    (∀ i j, i < j → j < 32 → x.rows.getD i 0 + 128 ≤ x.rows.getD j 0 ∨ x.rows.getD j 0 + 128 ≤ x.rows.getD i 0) →
    ∃ t, exec (.astPerformed op) s = .next t ∧ Rule.Completed s t op o ∧ Rule.calm (t.stand o.st) = Rule.calm (s.stand o.st) ∧
      (∀ i j, i < 32 → j < 32 → t.homeWord (x.rows.getD i 0 + 4 * j) = SMap.get 0 x.vals (32 * i + j)) ∧
      ∀ a, (∀ r ∈ x.rows, a < r ∨ r + 128 ≤ a) → t.homeByte a = s.homeByte a)

/-- R51, R98, R224, R227, R228, R235 and R311: a copy moves its bytes as one step (the model's reading: log entry 34) and completes its token; OLD and a
CPIN to a slot fill it; an MMA reads its slots when it starts and writes its accumulator when it finishes; ALD writes an accumulator, CBLD a table. -/
def Obligations.EnginesComplete : Prop :=
  (∀ s op o mv range out g gv, Rule.Of s op o → s.turns op o = s.needs o → o.work = .copy mv none range out → s.streamBefore o.uid op = false → s.pubBefore o.uid op = false →
    s.earlierAccess o.uid op (mv.map (·.1) ++ mv.map (·.2)) = false → s.earlier o.uid op Out.anyScratch = false → (s.core (coreOf o.st)).combine = [] →
    (∀ x ∈ mv, s.poisonedAt x.1 = false) → (mv.map (·.2)).Nodup → SMap.get? s.groves g = some gv →
    let sc := some (o.mode.toNat / 8192 % 8)
    let s1 := s.readAll (coreOf o.st) sc (mv.map (·.1))
    (out = false → (∀ x ∈ mv, ∃ off, x.2 = .scr g off) →
      ∃ t, exec (.copyComplete op) s = .next t ∧ Rule.Completed s t op o ∧ t.mem = s.mem ∧
        (∀ x ∈ mv, ∀ off, x.2 = .scr g off → t.scrByte g off = s1.readPlace (coreOf o.st) sc x.1) ∧
        (∀ off, (∀ x ∈ mv, x.2 ≠ .scr g off) → t.scrByte g off = s.scrByte g off) ∧
        (∀ k, copyToken o.ins = some k → (∀ kv ∈ s.outs, kv.1 ≠ op → kv.2.uid = o.uid → copyToken kv.2.ins ≠ some k) →
          (t.stand o.st).tokmask = (s.stand o.st).tokmask &&& ~~~(BitVec.ofNat 8 (2 ^ k)))) ∧
    (out = true → (∀ x ∈ mv, ∃ pa, x.2 = .mem pa) → 3 ≤ o.mode.toNat / 8192 % 8 → s.live = [] →
      ∃ t, exec (.copyComplete op) s = .next t ∧ Rule.Completed s t op o ∧ t.groves = s.groves ∧
        (∀ x ∈ mv, ∀ pa, x.2 = .mem pa → t.homeByte pa = s1.readPlace (coreOf o.st) sc x.1) ∧
        ∀ pa, (∀ x ∈ mv, x.2 ≠ .mem pa) → t.homeByte pa = s.homeByte pa)) ∧
  (∀ s op o mv p desc range out, Rule.Of s op o → s.turns op o = s.needs o → o.work = .copy mv (some (p, desc)) range out → s.streamBefore o.uid op = false →
    s.pubBefore o.uid op = false → s.earlierAccess o.uid op (mv.map (·.1) ++ desc.scaleSrc.map Place.mem) = false →
    s.earlier o.uid op Out.anyScratch = false → s.mmaBefore (coreOf o.st) p op = false →
    (s.core (coreOf o.st)).combine = [] → (∀ x ∈ mv, s.poisonedAt x.1 = false) → (∀ pa ∈ desc.scaleSrc, s.poisonedAt (.mem pa) = false) →
    let sc := some (o.mode.toNat / 8192 % 8)
    let s1 := s.readAll (coreOf o.st) sc (mv.map (·.1) ++ desc.scaleSrc.map Place.mem)
    ∃ t x, exec (.copyComplete op) s = .next t ∧ Rule.Completed s t op o ∧ t.mem = s.mem ∧ SMap.get? (t.core (coreOf o.st)).oslots p = some x ∧
      (x.sfmt, x.geom, x.table, x.rows) = (desc.sfmt, desc.geom, desc.table, desc.rows) ∧
      (∀ i y, mv[i]? = some y → SMap.get 0 x.data i = s1.readPlace (coreOf o.st) sc y.1) ∧
      (∀ i pa, desc.scaleSrc[i]? = some pa → SMap.get 0 x.scales i = s1.readPlace (coreOf o.st) sc (.mem pa)) ∧
      ∀ q, q ≠ p → SMap.get? (t.core (coreOf o.st)).oslots q = SMap.get? (s.core (coreOf o.st)).oslots q) ∧
  (∀ s op o p desc src, Rule.Of s op o → o.work = .old p desc src → s.streamBefore o.uid op = false → s.mayPerform op o false = true →
    s.mmaBefore (coreOf o.st) p op = false →
    ∃ t x, exec (.oldFillComplete op) s = .next t ∧ Rule.Completed s t op o ∧ t.mem = s.mem ∧ SMap.get? (t.core (coreOf o.st)).oslots p = some x ∧
      (x.sfmt, x.geom, x.table, x.rows) = (desc.sfmt, desc.geom, desc.table, desc.rows) ∧
      (∀ i y, src[i]? = some y → SMap.get 0 x.data i = s.readPlace (coreOf o.st) none y) ∧
      ∀ q, q ≠ p → SMap.get? (t.core (coreOf o.st)).oslots q = SMap.get? (s.core (coreOf o.st)).oslots q) ∧
  (∀ s op o h d a b p q tb vs fl pair, Rule.Of s op o → o.ins = .mma h d a b → o.work = .mma p q .queued tb vs fl →
    s.accBefore o.uid op d.toNat = false → s.fillBefore (coreOf o.st) p op = false → s.fillBefore (coreOf o.st) q op = false →
    let slot := fun (n : Nat) => SMap.get ({} : OpSlot) (s.core (coreOf o.st)).oslots n
    mmaPair (slot p).sfmt (slot q).sfmt = some pair →
    let r := mmaValues pair (slot p) (slot q) (s.ctxSlot (coreOf o.st) o.ctx).tabs (o.mode.toNat / 2 ^ 23 % 4) ((s.stand o.st).accVals d.toNat)
    ∃ t tabs, exec (.mmaArrayStart op) s = .next t ∧ SMap.get? t.outs op = some { o with work := .mma p q .started tabs r.1 r.2 } ∧
      { t with outs := s.outs } = s) ∧
  (∀ s op o h d a b p q tb vs fl, Rule.Of s op o → o.ins = .mma h d a b → o.work = .mma p q .started tb vs fl →
    ∃ t, exec (.mmaFinish op) s = .next t ∧ Rule.Completed s t op o ∧ t.mem = s.mem ∧ (t.stand o.st).flags = (s.stand o.st).flags ||| fl ∧
      (∀ x i j, i < 32 → j < 32 → (t.stand o.st).acc x i j = if x = d then SMap.get 0 vs (32 * i + j) else (s.stand o.st).acc x i j) ∧
      { Rule.calm (t.stand o.st) with accs := [], flags := 0 } = { Rule.calm (s.stand o.st) with accs := [], flags := 0 }) ∧
  (∀ s op o h d a lit rows, Rule.Of s op o → s.turns op o = s.needs o → o.ins = .ald h d a lit → o.work = .ald rows → s.mayPerform op o false = true →
    s.accBefore o.uid op d.toNat = false → (s.core (coreOf o.st)).combine = [] →
    let ps := rows.flatMap fun r => (Place.mem r).span 128
    let sc := o.mode.toNat / 8192 % 8
    let s1 := s.readAll (coreOf o.st) (some sc) ps
    (∀ x ∈ ps, s.poisonedAt x = false) →
    ∃ t, exec (.aldComplete op) s = .next t ∧ Rule.Completed s t op o ∧ t.mem = s.mem ∧
      { Rule.calm (t.stand o.st) with accs := [] } = { Rule.calm (s.stand o.st) with accs := [] } ∧
      ∀ x i j, i < 32 → j < 32 → (t.stand o.st).acc x i j =
        if x = d then BitVec.ofNat 32 (leNat ((upFrom (rows.getD i 0 + 4 * j) 4).map (s1.pocByte (coreOf o.st) sc)))
        else (s.stand o.st).acc x i j) ∧
  (∀ s op o h tab a pa va b, Rule.Of s op o → s.turns op o = s.needs o → o.ins = .cbld h tab a → o.work = .cbld pa va → s.mayPerform op o false = true →
    s.tableInUse (coreOf o.st) o.ctx tab.toNat = false → (s.core (coreOf o.st)).combine = [] → s.slotOf (coreOf o.st) o.ctx = some b →
    let ps := (Place.mem pa).span 1024
    let s1 := s.readAll (coreOf o.st) none ps
    (∀ x ∈ ps, s.poisonedAt x = false) →
    ∃ t, exec (.cbldTableWrite op) s = .next t ∧ Rule.Completed s t op o ∧ t.mem = s.mem ∧ Rule.calm (t.stand o.st) = Rule.calm (s.stand o.st) ∧
      ∀ x i, x < 8 → i < 256 → SMap.get 0 (t.ctxSlot (coreOf o.st) o.ctx).tabs (256 * x + i) =
        if x = tab.toNat then BitVec.ofNat 32 (leNat ((upFrom (pa + 4 * i) 4).map (s1.coreByte (coreOf o.st))))
        else SMap.get 0 (s.ctxSlot (coreOf o.st) o.ctx).tabs (256 * x + i))

/-! ## Controllers: groups, queues, chains and launches -/

namespace Sys2Proof.Rule

/-- A detached operation that is on its way to the place where it performs, with nothing before it left to perform there, next in its home's queue (R162,
R172, R240, R278). -/
structure Sent (s : State) (op : Nat) (o : Out) (ask : Ask) : Prop where
  out : SMap.get? s.outs op = some o
  work : ∃ rep, o.work = .det .sent ask rep
  path : s.carried o = true
  served : s.turns op o = s.needs o
  pubs : s.pubBefore o.uid op = false
  turn : s.objBefore o.uid op (handleKey ask.handle) = false

/-- The operation has performed, and its reply is on the way. -/
def replied (t : State) (op : Nat) (o : Out) (ask : Ask) (rep : Reply) : Prop := SMap.get? t.outs op = some { o with work := .det .replied ask rep }

/-- A status word of a queue or chain (R246). -/
def qWord (hi code : Nat) : DWord := BitVec.ofNat 64 (hi % 2 ^ 32 * 2 ^ 32 + code)

/-- A status word of a group (R213). -/
def gWord (round : Word) (pend flt : Bool) (code : Nat) : DWord :=
  BitVec.ofNat 64 (round.toNat * 2 ^ 32 + (if pend then 512 else 0) + (if flt then 256 else 0) + code)

end Sys2Proof.Rule

/-- R208, R210, R212 to R218: a group operation performs at its controller: a handle whose generation has passed answers STALE, GCRT makes a group of a
line that backs none, GJOIN counts a member, or a pending one while a round is open, GLEAVE uncounts it, GINFO shows the group, GDEL releases everyone and
frees the slot, a GRED that waited gets its value cells; with the last member a round completes, and every member gets its reply: the vote, the fold of the
values in ascending `gsi`, or the other's lanes; in replay mode an arrival that the log has otherwise raises DIVERGE (R221); and the reply writes the
registers that the instruction names. Where an object is served that has no line is log entry 68: the model's choice. -/
def Obligations.GroupsAnswer : Prop :=
  (∀ s op o ask, Rule.Sent s op o ask → (groupRegOf o.ins).isSome = true → s.mature o = true → s.seats (handleKey ask.handle) = true →
    s.groupOf ask.handle = none →
    ∃ t rep, exec (.groupOpAtController op) s = .next t ∧ Rule.replied t op o ask rep ∧ { t with outs := s.outs, homes := s.homes } = s ∧
      match o.ins with
      | .xchg .. => rep.trap = some (0x0C, 1)
      | _ => rep.trap = none ∧ rep.status = 1) ∧
  (∀ s op o ask h d a g key, Rule.Sent s op o ask → o.ins = .gjoin h d a → s.mature o = true → s.seats (handleKey ask.handle) = true → s.groupOf ask.handle = some g → s.admits g o = true →
    s.memberOf o.uid (handleKey ask.handle) = none → (s.membersOf o.uid).length < Config.memberMax → g.m + g.j < Config.groupMax →
    s.keyOfUid o.uid = some key →
    ∃ t rep g2 m, exec (.groupOpAtController op) s = .next t ∧ Rule.replied t op o ask rep ∧
      rep.status = Rule.gWord g.ground (decide (g.a ≠ 0)) g.fault 0 ∧ SMap.get? t.groups (handleKey ask.handle) = some g2 ∧
      (g2.m, g2.j, g2.joins, g2.a, g2.ground) = (if g.a = 0 then g.m + 1 else g.m, if g.a = 0 then g.j else g.j + 1, g.joins + 1, g.a, g.ground) ∧
      (t.stand key).members = s.membersOf o.uid ++ [m] ∧ m.ord = g.joins ∧ m.pending = decide (g.a ≠ 0)) ∧
  (∀ s op o ask h d a g, Rule.Sent s op o ask → o.ins = .ginfo h d a → s.mature o = true → s.seats (handleKey ask.handle) = true →
    s.groupOf ask.handle = some g → g.scope < 8 →
    ∃ t rep x, exec (.groupOpAtController op) s = .next t ∧ Rule.replied t op o ask rep ∧ rep.status = Rule.gWord g.ground false g.fault 0 ∧
      rep.extra = some x ∧ x.extractLsb' 48 16 = BitVec.ofNat 16 g.m ∧ x.extractLsb' 32 16 = BitVec.ofNat 16 g.a ∧
      x.extractLsb' 16 16 = BitVec.ofNat 16 g.j ∧ x.extractLsb' 6 10 = 0 ∧ x.extractLsb' 3 3 = BitVec.ofNat 3 g.scope ∧ x.getLsbD 2 = g.replay ∧ x.getLsbD 1 = g.record ∧ x.getLsbD 0 = g.fault ∧ t.stands = s.stands) ∧
  (∀ s op o ask h d a g m key, Rule.Sent s op o ask → o.ins = .gleave h d a → s.mature o = true → s.seats (handleKey ask.handle) = true →
    s.groupOf ask.handle = some g → s.memberOf o.uid (handleKey ask.handle) = some m → s.keyOfUid o.uid = some key →
    (g.a = 0 ∨ g.a ≠ if m.pending then g.m else g.m - 1) →
    ∃ t rep g2, exec (.groupOpAtController op) s = .next t ∧ Rule.replied t op o ask rep ∧ rep.status = Rule.gWord g.ground false g.fault 0 ∧
      SMap.get? t.groups (handleKey ask.handle) = some g2 ∧ (g2.a, g2.ground, g2.fault) = (g.a, g.ground, g.fault) ∧
      (g2.m, g2.j) = (if m.pending then (g.m, g.j - 1) else (g.m - 1, g.j)) ∧
      (t.stand key).members = (s.membersOf o.uid).filter fun x => !x.names (handleKey ask.handle) (s.gen (handleKey ask.handle))) ∧
  (∀ s op o ask h d a g, Rule.Sent s op o ask → o.ins = .gdel h d a → s.mature o = true → s.seats (handleKey ask.handle) = true →
    s.groupOf ask.handle = some g → (op :: (g.arrivals.map (·.op) ++ g.pendingOps)).Nodup →
    let gk := handleKey ask.handle
    ∃ t rep, exec (.groupOpAtController op) s = .next t ∧ Rule.replied t op o ask rep ∧ rep.status = Rule.gWord g.ground false g.fault 0 ∧
      SMap.get? t.groups gk = none ∧ SMap.get? t.live (lineNo g.pa) = none ∧ t.gen gk = (if s.gen gk = 65535 then 1 else s.gen gk + 1) ∧
      ∀ x, x ∈ g.arrivals.map (·.op) ++ g.pendingOps → ∀ ox st ax rx, SMap.get? s.outs x = some ox → ox.work = .det st ax rx →
        ∃ r, Rule.replied t x ox ax r ∧ match ox.ins with
          | .xchg .. => r.trap = some (0x0C, 4)
          | _ => r.trap = none ∧ r.status = Rule.gWord g.ground false g.fault 4) ∧
  (∀ s op o ask g m k, Rule.Sent s op o ask → s.mature o = true → s.seats (handleKey ask.handle) = true → s.groupOf ask.handle = some g →
    (groupRegOf o.ins).isSome = true → s.memberOf o.uid (handleKey ask.handle) = some m → m.pending = false → o.gop = some k → (g.a = 0 ∨ g.gop = some k) →
    g.a + 1 = g.m → g.a = g.arrivals.length → g.record = false → g.replay = false → g.pendingOps = [] → (k = .xchg → g.m = 2) →
    let gk := handleKey ask.handle
    let die := s.die (gk % 65536 / 16384)
    (∀ p e, k = .gred p e → g.a = 0 → g.m ≤ Config.gredCells ∧ die.cells + g.m ≤ Config.gredCells ∧ die.cellWait = []) →
    (op :: g.arrivals.map (·.op)).Nodup → (∀ x ∈ g.arrivals, ∃ ox ax rx, SMap.get? s.outs x.op = some ox ∧ ox.work = .det .lodged ax rx) →
    let all := (op, s.gsi o.st) :: g.arrivals.map fun x => (x.op, x.gsi)
    let asks := all.filterMap fun x => (s.detOp x.1).map fun d => (x.2, d.2.2.1)
    ∃ t g2, exec (.groupOpAtController op) s = .next t ∧ SMap.get? t.groups gk = some g2 ∧
      (g2.ground, g2.a, g2.m, g2.j, g2.arrivals) = (g.ground + 1, 0, g.m + g.j, 0, []) ∧
      ∀ x ∈ all, ∃ ox st ax rx rep, SMap.get? s.outs x.1 = some ox ∧ ox.work = .det st ax rx ∧ Rule.replied t x.1 ox ax rep ∧ rep.trap = none ∧
        rep.status = Rule.gWord g.ground false g.fault 0 ∧
        (∀ kind, k = .gvote kind → rep.vote = some (if (if kind = 0 then asks.any (·.2.bit) else if kind = 1 then asks.all (·.2.bit)
          else asks.countP (·.2.bit) % 2 == 1) = true then 0xFFFFFFFF#32 else 0)) ∧
        (∀ kind et, k = .gred kind et → ∀ l : List (Nat × Ask), l.Perm asks → (l.Pairwise fun (x y : Nat × Ask) => x.1 < y.1) →
          let f := fun (x y : Res) =>
            if kind = 0 then (if et = 1 then fpAdd et (o.mode.toNat / 32 % 8) x.code y.code else ⟨(x.code + y.code) % 2 ^ 32, 0⟩)
            else ⟨elemMinMax et (kind == 2) x.code y.code, 0⟩
          let vals := l.map fun y => (⟨y.2.val.toNat % 2 ^ 32, 0⟩ : Res)
          let r := vals.tail.foldl (fun u v => ⟨(f u v).code, u.flags ||| (f u v).flags⟩) (vals.headD ⟨0, 0⟩)
          (et = 1 ∨ et = 7 ∨ et = 11) → rep.extra = some (BitVec.ofNat 64 (r.code % 2 ^ 32)) ∧ rep.flags = r.flags) ∧
        (k = .xchg → ∀ y ∈ all, y.1 ≠ x.1 → ∀ oy sy ay ry, SMap.get? s.outs y.1 = some oy → oy.work = .det sy ay ry →
          rep.lanes = ax.act &&& ay.act ∧ rep.vals = ay.vals)) ∧
  (∀ s op o ask g m k i, Rule.Sent s op o ask → s.mature o = true → s.seats (handleKey ask.handle) = true → s.groupOf ask.handle = some g →
    (groupRegOf o.ins).isSome = true → s.memberOf o.uid (handleKey ask.handle) = some m → m.pending = false → o.gop = some k → (g.a = 0 ∨ g.gop = some k) →
    (g.a = 0 ∨ g.a < g.m) → g.replay = true → (k = .xchg → g.m = 2) → (∀ p e, k = .gred p e → g.a = 0 → g.m ≤ Config.gredCells) →
    let c := s.ctx g.ctx
    let base := c.cgroup.toNat / 2 ^ 12 % 2 ^ 40 * 2 ^ 12
    let n := (ask.ret - BitVec.ofNat 64 m.ret).toNat
    let found := fun (j : Nat) => s.homeNat (base + 16 * j) 4 == g.ground.toNat && s.homeNat (base + 16 * j + 4) 4 == m.ord
    (List.range (c.clogsz.toNat / 16)).find? found = some i → s.homeNat (base + 16 * i + 8) 8 ≠ n →
    ∃ t rep g2, exec (.groupOpAtController op) s = .next t ∧ Rule.replied t op o ask rep ∧
      rep.trap = some (0x0F, BitVec.ofNat 64 (s.homeNat (base + 16 * i + 8) 8 % 2 ^ 32 + n % 2 ^ 32 * 2 ^ 32)) ∧
      SMap.get? t.groups (handleKey ask.handle) = some g2 ∧ (g2.ground, g2.a, g2.m, g2.j, g2.arrivals) = (g.ground, g.a, g.m, g.j, g.arrivals)) ∧
  (∀ s op o ask h d a b, Rule.Sent s op o ask → o.ins = .gcrt h d a b → s.mature o = true →
    let die := (homeOf ask.pa).getD 0 / Config.homesPerDie
    ((SMap.get? s.live (lineNo ask.pa)).isSome = true → ∃ t rep, exec (.groupOpAtController op) s = .next t ∧ Rule.replied t op o ask rep ∧
      rep.status = 2 ∧ t.groups = s.groups) ∧
    (∀ i, SMap.get? s.live (lineNo ask.pa) = none → lowestSlot (fun k => (SMap.get? s.groups k).isSome) 1 die Config.groupSlots = some i →
      ((s.activeOn die).filter fun kv => kv.2.pinned).length < Config.activeGroups →
      ∃ t rep g, exec (.groupOpAtController op) s = .next t ∧ Rule.replied t op o ask rep ∧ rep.status = 0 ∧
        rep.extra = some (mkHandle (s.ctx o.ctx) 1 7 (s.gen (dirKey 1 die i)) die i) ∧ SMap.get? t.groups (dirKey 1 die i) = some g ∧
        (g.ctx, g.pa, g.scope, g.m, g.a, g.j, g.joins, g.fault) = (o.ctx, ask.pa, o.mode.toNat / 8192 % 8, 0, 0, 0, 0, false) ∧ g.ground = 0 ∧
        SMap.get? t.live (lineNo ask.pa) = some (dirKey 1 die i))) ∧
  (∀ s op o ask rep, Rule.Of s op o → o.work = .det .replied ask rep → o.redirect = none → rep.trap = none →
    (s.core (coreOf o.st)).trace.on = false →
    ∃ t, exec (.groupReply op) s = .next t ∧ Rule.Completed s t op o ∧ t.mem = s.mem ∧ (t.stand o.st).flags = (s.stand o.st).flags ||| rep.flags ∧
      (t.stand o.st).mode = (s.stand o.st).mode ∧ (t.stand o.st).accs = (s.stand o.st).accs ∧
      match o.ins with
      | .gjoin _ d _ | .gleave _ d _ | .gbar _ d _ | .gdel _ d _ | .qenq _ d _ _ | .tdone _ d _ | .tfull _ d _ | .tempty _ d _ | .tstat _ d _
      | .chapp _ d _ _ | .chseq _ d _ =>
        (d ≠ 63 → (t.stand o.st).sreg d = rep.status) ∧ (∀ r, r ≠ d → (t.stand o.st).sreg r = (s.stand o.st).sreg r) ∧
          (t.stand o.st).vregs = (s.stand o.st).vregs ∧ (t.stand o.st).preds = (s.stand o.st).preds ∧ (t.stand o.st).hregs = (s.stand o.st).hregs
      | .gcrt _ d _ b => (d ≠ 63 → (t.stand o.st).sreg d = rep.status) ∧ (∀ r, r ≠ d → (t.stand o.st).sreg r = (s.stand o.st).sreg r) ∧
          ∀ r, (t.stand o.st).hreg r = if r = b then rep.extra.getD ((s.stand o.st).hreg b) else (s.stand o.st).hreg r
      | .xchg _ d _ _ => ∀ r l, l < 32 → (t.stand o.st).vreg r l =
          if r = d ∧ d ≠ 127 ∧ rep.lanes.getLsbD l = true then SMap.get 0 rep.vals l else (s.stand o.st).vreg r l
      | _ => True) ∧
  (∀ s die op rest gk g o ask rep m, (s.die die).cellWait = op :: rest → s.lodgedAt op = some gk → SMap.get? s.groups gk = some g →
    gk % 65536 / 16384 = die → SMap.get? s.outs op = some o → o.work = .det .lodged ask rep →
    (∃ h d a b k, o.ins = .gred h d a b k) → s.memberOf o.uid gk = some m → g.a = 0 → 2 ≤ g.m → (s.die die).cells + g.m ≤ Config.gredCells →
    g.record = false → g.replay = false →
    ∃ t g2, exec (.gredCellsFree die) s = .next t ∧ SMap.get? t.groups gk = some g2 ∧ g2.a = 1 ∧ g2.m = g.m ∧ g2.cells = g.cells + g.m ∧
      (g2.arrivals.map (·.op)) = g.arrivals.map (·.op) ++ [op] ∧ (t.die die).cells = (s.die die).cells + g.m ∧ (t.die die).cellWait = rest.filter (· != op))

/-- R237, R240, R241, R243, R245 to R249, R251, R252 and R290: what queues, chains, counters and buffers answer at their homes, and what the I/O engine
does with an entry of a chain: `estat`, the number of entries completed in order, and a packet of an RDMA read. A queue takes no record while its interface
does not run; QDEQ takes the first of sixteen that fits the core's budget and whose buffer bits, read one by one, are all as they must be. That QENQ and
QDEQ leave memory as it was is log entry 53, that TDONE decrements a live backing line too log entry 54, where an object is served that has no line log
entry 68, and that the bits are read one per event log entry 86: the model's choices. -/
def Obligations.QueuesAnswer : Prop :=
  (∀ s op o ask h d a b q, Rule.Sent s op o ask → o.ins = .qenq h d a b → s.queueOf ask.handle = some q → q.broken = false → q.launch = false →
    s.queueOpen (queueNumber (handleKey ask.handle)) = true → s.examines op o ask = false → bytesNat ask.bytes 22 2 = 0 →
    let ev : Instr := if handleDie ask.handle = dieOfCore (coreOf o.st) then .queueOpAtController op else .remoteQenqMessage op
    (q.recs.length < q.cap → ∃ t rep, exec ev s = .next t ∧ Rule.replied t op o ask rep ∧ rep.status = Rule.qWord (q.seq + 1) 0 ∧
      SMap.get? t.queues (handleKey ask.handle) = some { q with recs := q.recs ++ [⟨ask.bytes, false, none⟩], seq := q.seq + 1 } ∧
      { t with outs := s.outs, queues := s.queues, homes := s.homes } = s) ∧
    (q.cap ≤ q.recs.length → ∃ t rep, exec ev s = .next t ∧ Rule.replied t op o ask rep ∧ rep.status = Rule.qWord q.seq 0x0A ∧
      { t with outs := s.outs, homes := s.homes } = s)) ∧
  (∀ s op o ask h d a b q, Rule.Sent s op o ask → o.ins = .qdeq h d a b → s.queueOf ask.handle = some q → q.broken = false → q.launch = false →
    s.examines op o ask = false →
    (q.recs = [] → ∃ t rep, exec (.queueOpAtController op) s = .next t ∧ Rule.replied t op o ask rep ∧ rep.status = Rule.qWord 0 0x0B ∧
      { t with outs := s.outs, homes := s.homes } = s) ∧
    (q.recs ≠ [] → q.findRecord false (s.roomOf o) ask.bits = none → ∃ t rep, exec (.queueOpAtController op) s = .next t ∧ Rule.replied t op o ask rep ∧
      rep.status = Rule.qWord q.recs.length 0x0C ∧ { t with outs := s.outs, homes := s.homes } = s) ∧
    (∀ i x, q.findRecord false (s.roomOf o) ask.bits = some (i, .read x) → ∃ t, exec (.queueOpAtController op) s = .next t ∧
      SMap.get? t.outs op = some { o with gone := o.gone ++ s.needs o, work := .det .sent { ask with bits := (i, x.j,
        match s.ctlAddr q.ctx (fun _ => true) (BitVec.ofNat 64 (x.num * 65536)) with
        | none => false
        | some pa => SMap.get false s.full (lineNo pa) == x.want) :: ask.bits } {} } ∧
      { t with outs := s.outs, homes := s.homes } = s) ∧
    (∀ i r, q.findRecord false (s.roomOf o) ask.bits = some (i, .yes) → q.recs[i]? = some r →
      ∃ t rep, exec (.queueOpAtController op) s = .next t ∧ Rule.replied t op o ask rep ∧ rep.status = Rule.qWord (q.recs.length - 1) 0 ∧
        rep.record = some r.bytes ∧ SMap.get? t.queues (handleKey ask.handle) = some { q with recs := q.recs.eraseIdx i } ∧
        { t with outs := s.outs, queues := s.queues, homes := s.homes } = s)) ∧
  (∀ (q : Queue) (steal : Bool) (room : Nat) (got : List (Nat × Nat × Bool)), q.broken = false → q.launch = false →
    let len := q.recs.length
    let place := fun (k : Nat) => if steal then len - 1 - k else k
    let bytes := fun (i : Nat) => ((q.recs[i]?).map (·.bytes)).getD []
    let tested := fun (i j : Nat) => j < 6 ∧ bytesNat (bytes i) (32 + 4 * j) 4 ≠ 0
    let seen := fun (i j : Nat) => (got.find? fun g => g.1 == i && g.2.1 == j).map (·.2.2)
    let refused := fun (i : Nat) => room < bytesNat (bytes i) 56 4 ∨ ∃ j, tested i j ∧ seen i j = some false
    (q.findRecord steal room got = none → ∀ k, k < min 16 len → refused (place k)) ∧
    (∀ i, q.findRecord steal room got = some (i, .yes) → ∃ k, k < min 16 len ∧ i = place k ∧ bytesNat (bytes i) 56 4 ≤ room ∧
      (∀ j, tested i j → seen i j = some true) ∧ ∀ n, n < k → refused (place n)) ∧
    (∀ i x, q.findRecord steal room got = some (i, .read x) → ∃ k, k < min 16 len ∧ i = place k ∧ bytesNat (bytes i) 56 4 ≤ room ∧ tested i x.j ∧
      seen i x.j = none ∧ x.num = bytesNat (bytes i) (32 + 4 * x.j) 4 ∧ x.want = decide (x.j < 4) ∧ ∀ n, n < k → refused (place n))) ∧
  (∀ s op o ask c, Rule.Sent s op o ask → s.chainOf ask.handle = some c →
    (∀ h d a b, o.ins = .chapp h d a b → c.appended - c.completed < c.cap → ask.bytes.length = 64 →
      ∃ t rep, exec (.queueOpAtController op) s = .next t ∧ Rule.replied t op o ask rep ∧ rep.status = Rule.qWord (c.appended + 1) 0 ∧
        SMap.get? t.chains (handleKey ask.handle) = some { c with appended := c.appended + 1 } ∧
        (∀ i, i < 64 → t.homeByte (c.ring + 64 * (c.appended % c.cap) + i) = ask.bytes.getD i 0) ∧
        ∀ x, (x < c.ring + 64 * (c.appended % c.cap) ∨ c.ring + 64 * (c.appended % c.cap) + 64 ≤ x) → t.homeByte x = s.homeByte x) ∧
    (∀ h d a, o.ins = .chseq h d a → ∃ t rep, exec (.queueOpAtController op) s = .next t ∧ Rule.replied t op o ask rep ∧
      rep.status = BitVec.ofNat 64 c.completed ∧ { t with outs := s.outs, homes := s.homes } = s)) ∧
  (∀ s e q (retry : Bool), s.fab.up = true → s.detOp e.id = none → s.enqs.find? (fun x => x.id == e.id) = some e → e.retry = retry →
    s.queueOf e.handle = some q → s.queueOpen (queueNumber (handleKey e.handle)) = true → q.broken = false → q.launch = false → bytesNat e.bytes 22 2 = 0 → q.recs.length < q.cap →
    ∃ t, exec (if retry then .successorEnqueueRetry e.id else .remoteQenqMessage e.id) s = .next t ∧ t.enqs = s.enqs.filter (fun x => x.id != e.id) ∧
      SMap.get? t.queues (handleKey e.handle) = some { q with recs := q.recs ++ [⟨e.bytes, false, none⟩], seq := q.seq + 1 } ∧
      t.homeByte (e.line + 4) = (if e.keep then (s.homeByte (e.line + 4) &&& 0x80#8) ||| 1#8 else 1#8) ∧
      ∀ x, x ≠ e.line + 4 → t.homeByte x = s.homeByte x) ∧
  (∀ s op o ask h d a, Rule.Sent s op o ask → o.ins = .tdone h d a → s.earlierAccess o.uid op ((Place.mem ask.pa).span 64) = false →
    s.poison = [] → (s.core (coreOf o.st)).combine = [] → (s.core (coreOf o.st)).snap = [] → (s.copse (copseOfCore (coreOf o.st))).cache = [] →
    let n := s.homeNat ask.pa 4
    (n = 0 → ∃ t rep, exec (.counterDecrementAtHome op) s = .next t ∧ Rule.replied t op o ask rep ∧ rep.status = 0x10 ∧ t.mem = s.mem) ∧
    (n ≠ 0 → (n = 1 → s.homeNat (ask.pa + 8) 8 = 0) → ∃ t rep, exec (.counterDecrementAtHome op) s = .next t ∧ Rule.replied t op o ask rep ∧
      rep.status = 0 ∧ t.homeNat ask.pa 4 = n - 1 ∧ (∀ x, x < ask.pa ∨ ask.pa + 4 ≤ x → t.homeByte x = s.homeByte x) ∧ t.enqs = s.enqs)) ∧
  (∀ s op o ask, Rule.Sent s op o ask → s.earlierAccess o.uid op ((Place.mem ask.pa).span 64) = false →
    let was := SMap.get false s.full (lineNo ask.pa)
    match o.ins with
    | .tfull .. => ∃ t rep, exec (.bufferBitAtHome op) s = .next t ∧ Rule.replied t op o ask rep ∧ rep.status = (if was then 0x0F else 0) ∧
        SMap.get false t.full (lineNo ask.pa) = true ∧ { t with outs := s.outs, full := s.full, homes := s.homes } = s
    | .tempty .. => ∃ t rep, exec (.bufferBitAtHome op) s = .next t ∧ Rule.replied t op o ask rep ∧ rep.status = (if was then 0 else 0x0F) ∧
        SMap.get false t.full (lineNo ask.pa) = false ∧ { t with outs := s.outs, full := s.full, homes := s.homes } = s
    | .tstat .. => ∃ t rep, exec (.bufferBitAtHome op) s = .next t ∧ Rule.replied t op o ask rep ∧
        rep.status = (if was then 0x100000000#64 else 0) ∧ { t with outs := s.outs, homes := s.homes } = s
    | _ => True) ∧
  (∀ s ck c, SMap.get? s.chains ck = some c → c.started < c.published → c.flight.length < Config.prefetch → (∀ x ∈ c.flight, x.op ≠ 4) →
    ∃ t, exec (.ioEntryStart ck) s = .next t ∧ { t with chains := s.chains } = s ∧
      SMap.get? t.chains ck = some { c with started := c.started + 1,
                                            flight := c.flight ++ [{ n := c.started + 1, bytes := s.homeBytes (c.ring + 64 * (c.started % c.cap)) 64 }] }) ∧
  (∀ s ck c x dev, s.fab.up = true → SMap.get? s.chains ck = some c → c.flight.find? (fun y => y.n == x.n) = some x → x.n = c.completed + 1 → c.finished = [] →
    let place := c.ring + 64 * ((x.n - 1) % c.cap)
    let done := fun (t : State) (code : Nat) =>
      SMap.get? t.chains ck = some { c with completed := c.completed + 1, flight := c.flight.filter (fun y => y.n != x.n), finished := [] } ∧
        t.homeNat (place + 2) 2 = code
    (x.op = 0 → ∃ t, exec (.ioEntryComplete ck x.n dev) s = .next t ∧ done t 0 ∧
      ∀ a, a < place + 2 ∨ place + 4 ≤ a → t.homeByte a = s.homeByte a) ∧
    (x.op ≠ 0 → (4 < x.op ∨ x.reservedOk = false) → ∃ t, exec (.ioEntryComplete ck x.n dev) s = .next t ∧ done t 1) ∧
    (∀ code, x.op = 4 → x.reservedOk = true → s.fenceError c.ctx ck x = some code → ∃ t, exec (.ioEntryComplete ck x.n dev) s = .next t ∧ done t code) ∧
    (x.op = 4 → x.reservedOk = true → s.fenceError c.ctx ck x = none → s.fenceMet x = true →
      ∃ t, exec (.ioEntryComplete ck x.n dev) s = .next t ∧ done t 0) ∧
    (x.op = 4 → x.reservedOk = true → s.fenceError c.ctx ck x = none → s.fenceMet x = false → exec (.ioEntryComplete ck x.n dev) s = .next s) ∧
    (∀ code, 1 ≤ x.op → x.op ≤ 3 → x.reservedOk = true → s.entryError c.ctx x = some code →
      ∃ t, exec (.ioEntryComplete ck x.n dev) s = .next t ∧ done t code) ∧
    (∀ b pa, (x.op = 1 ∨ x.op = 2) → x.reservedOk = true → s.entryError c.ctx x = none → dev = .done [b] → x.len = 1 → x.moved = [] →
      s.ctlAddr c.ctx (fun t => t.w) (x.handle 1) = some pa → SMap.get? s.live (lineNo pa) = none → (pa < place + 2 ∨ place + 4 ≤ pa) →
      ∃ t, exec (.ioEntryComplete ck x.n dev) s = .next t ∧ done t 0 ∧ t.homeByte pa = b) ∧
    (∀ b pa k, x.op = 2 → x.reservedOk = true → s.entryError c.ctx x = none → dev = .packet k [b] → x.len = 4096 * k + 1 → k ∉ x.moved →
      s.ctlAddr c.ctx (fun t => t.w) (x.handle 1 + BitVec.ofNat 64 (4096 * k)) = some pa → SMap.get? s.live (lineNo pa) = none →
      ∃ t, exec (.ioEntryComplete ck x.n dev) s = .next t ∧ t.homeByte pa = b ∧ (∀ a, a ≠ pa → t.homeByte a = s.homeByte a) ∧
        SMap.get? t.chains ck = some { c with flight := c.flight.map fun y => if y.n = x.n then { y with moved := k :: y.moved } else y }))

namespace Sys2Proof.Rule

/-- Grove `g` of a launch has started on core `k` as the next grove of the machine, its stands at the lowest free indices, each at PC 16 with `s0` = g
(R28, R30). -/
structure Started (s t : State) (l g k : Nat) : Prop where
  grove : ∃ gv, SMap.get? t.groves s.nextId = some gv ∧ (gv.launch, gv.g, gv.core, gv.size) = (l, g, k, (s.launch l).kernel.grovemax)
  stands : ∀ i x, i < (s.launch l).kernel.grovemax → (s.freeIdx k)[i]? = some x → ∃ st, SMap.get? t.stands (k * 64 + x) = some st ∧
    (st.grove, st.ctx, st.standid) = (s.nextId, (s.launch l).ctx, i) ∧ st.sreg 0 = BitVec.ofNat 64 g ∧ (st.path 0).pc = 16 ∧
    (st.path 0).mask = 0xFFFFFFFF#32 ∧ (st.path 0).state = .active ∧ st.mode = 0 ∧ st.vregs = []
  waits : (t.launch l).blocks.all (fun b => !b.left.contains g) = true
  others : ∀ j, (∀ x, x < 64 → j ≠ k * 64 + x) → t.stand j = s.stand j

end Sys2Proof.Rule

/-- R25 to R35 and R253: a record written to a queue's window is accepted, or rejected and counted; messages of the rack scheduler are answered with a
report; a distributor places the next grove, or a co-resident launch whole; a die takes a block from another; a stand without lanes retires; and a
completed grove is counted at its counter line. -/
def Obligations.LaunchesRun : Prop :=
  (∀ s q bytes x, SMap.get? s.queues (queueKey q) = some x → q < 4096 → bytes.length = 64 → s.queueOpen q = true → x.broken = false →
    (∀ l, s.acceptRecord x (queueKey q) bytes = some (some l) → x.recs.length < x.cap →
      ∃ t, exec (.launchRecordEnqueue q bytes) s = .next t ∧ SMap.get? t.launches s.nextId = some l ∧
        SMap.get? t.queues (queueKey q) = some { x with recs := x.recs ++ [⟨bytes, false, some s.nextId⟩], seq := x.seq + 1 } ∧ t.mem = s.mem ∧
        t.qdrop = s.qdrop) ∧
    ((s.acceptRecord x (queueKey q) bytes = none ∨ (s.acceptRecord x (queueKey q) bytes).isSome = true ∧ x.cap ≤ x.recs.length) →
      ∃ t, exec (.launchRecordEnqueue q bytes) s = .next t ∧ { t with qdrop := s.qdrop } = s ∧
        SMap.get 0 t.qdrop q = BitVec.ofNat 64 (((SMap.get 0 s.qdrop q).toNat + 1) % 2 ^ 32))) ∧
  (∀ s q bytes, bytes.length ≠ 64 → ∃ t, exec (.launchRecordEnqueue q bytes) s = .next t ∧ { t with qdrop := s.qdrop } = s ∧
    SMap.get 0 t.qdrop q = BitVec.ofNat 64 (((SMap.get 0 s.qdrop q).toNat + 1) % 2 ^ 32)) ∧
  (∀ s msg, msg.length = 80 → bytesNat msg 0 2 = 1 →
    ∃ t r, exec (.forwardedRecord msg) s = .next t ∧ t.sent = s.sent ++ [.report r] ∧ bytesNat r 0 2 = 3 ∧ bytesNat r 4 4 = bytesNat msg 4 4 ∧
      bytesNat r 8 4 = bytesNat msg 8 4 ∧ t.mem = s.mem ∧ t.stands = s.stands ∧
      (SMap.get? s.queues (queueKey (bytesNat msg 2 2)) = none → { t with sent := s.sent } = s ∧ bytesNat r 18 2 = 0x0E)) ∧
  (∀ s msg, msg.length = 80 → bytesNat msg 0 2 = 2 →
    ∃ t r, exec (.schedulerQuery msg) s = .next t ∧ t.sent = s.sent ++ [.report r] ∧ { t with sent := s.sent } = s ∧ bytesNat r 0 2 = 3 ∧
      bytesNat r 4 4 = bytesNat msg 4 4 ∧ bytesNat r 8 4 = bytesNat msg 8 4 ∧ bytesNat r 18 2 = 0xFFFF) ∧
  (∀ s msg, exec (.schedulerMessageDropped msg) s = .next s) ∧
  (∀ s die q l g k, s.restoreOne die false = none → s.headLaunches = [(q, l)] → (s.launch l).level = 0 → (s.ctx (s.launch l).ctx).state = .admitted →
    (s.launch l).nextOn die = some g → s.chooseCore (s.launch l).ctx (s.launch l).kernel (s.launch l).demand (coresOfDie die) = some k →
    s.tablePoison (s.launch l).kernel.tables = none →
    ∃ t, exec (.grovePlacement die) s = .next t ∧ Rule.Started s t l g k ∧ t.mem = s.mem) ∧
  (∀ s die q l g k cores more, s.restoreOne die false = none → s.headLaunches = [(q, l)] → q % 65536 / 16384 = die → (s.launch l).level ≠ 0 →
    (s.ctx (s.launch l).ctx).state = .admitted → levelCores (s.ctx (s.launch l).ctx) (s.launch l).level = cores :: more →
    (s.launch l).blocks.flatMap (·.left) = [g] → s.chooseCore (s.launch l).ctx (s.launch l).kernel (s.launch l).demand cores = some k →
    s.tablePoison (s.launch l).kernel.tables = none →
    ∃ t, exec (.colevelLaunchPlacement die) s = .next t ∧ Rule.Started s t l g k ∧ t.mem = s.mem) ∧
  (∀ s die l x n rest, s.launches = (l, x) :: rest → 1 < (s.ctx x.ctx).dieList.length → (s.ctx x.ctx).dieMask.testBit die = true → x.stolen die = some n →
    ∃ t, exec (.stealMessage die) s = .next t ∧ { t with launches := s.launches } = s ∧
      (t.launch l).blocks = x.blocks.map (fun b => if b.num = n then { b with die := die } else b) ∧ ∀ j, j ≠ l → t.launch j = s.launch j) ∧
  (∀ s key st, SMap.get? s.stands key = some st → st.hasLanes = false → st.residuals = [] → s.settled st = true → s.membersOf st.uid = [] →
    (s.grove st.grove).sbat = none → (s.grove st.grove).mbat = none →
    ∃ t, exec (.standRetire key) s = .next t ∧ SMap.get? t.stands key = none ∧ (∀ j, j ≠ key → t.stand j = s.stand j) ∧
      (2 ≤ (s.grove st.grove).size → (t.grove st.grove).size = (s.grove st.grove).size - 1 ∧ t.launches = s.launches) ∧
      ((s.grove st.grove).size ≤ 1 → SMap.get? t.groves st.grove = none ∧
        (t.launch (s.grove st.grove).launch).done = (s.launch (s.grove st.grove).launch).done + 1 ∧
        (t.launch (s.grove st.grove).launch).left = (s.launch (s.grove st.grove).launch).left - 1)) ∧
  (∀ s l x, SMap.get? s.launches l = some x → 0 < x.done → x.cores = [] → s.fab.up = true →
    (2 ≤ x.done + x.left → x.succ = none → ∃ t, exec (.completionCounterDecrement l) s = .next t ∧
      SMap.get? t.launches l = some { x with done := x.done - 1 } ∧ { t with launches := s.launches } = s) ∧
    (x.done + x.left = 1 → x.succ = none → ∃ t, exec (.completionCounterDecrement l) s = .next t ∧ SMap.get? t.launches l = none ∧
      t.sent = s.sent ++ [.completion x.ctx l, .irq ((s.ctx x.ctx).cirq.toNat % 65536)] ∧ t.mem = s.mem) ∧
    (∀ pa, x.succ = some pa → s.poison = [] → 2 ≤ s.homeNat pa 4 → ∃ t, exec (.completionCounterDecrement l) s = .next t ∧
      t.homeNat pa 4 = s.homeNat pa 4 - 1 ∧ ∀ a, a < pa ∨ pa + 4 ≤ a → t.homeByte a = s.homeByte a))

/-! ## Contexts, errors, system software -/

/-- R21, R130 and R287: a core changes between its two contexts by time slice, by idleness and by command; a TLB invalidation takes out the entries it
names on its die and is complete when what used them has performed; DDIR changes only before the die's first GCRT. That a slice's µs are counted in cycles
at the clock of the die is log entry 56: the model's choice. -/
def Obligations.SwitchesAndTranslations : Prop :=
  (∀ s k, (s.core k).slice ≠ 0 → (s.core k).ranFrom + (s.core k).slice * (s.die (dieOfCore k)).mhz ≤ s.cycOf k →
    s.hasReady k ((s.core k).slot (!(s.core k).running)).ctx = true → ∃ t, exec (.contextSwitchTimeslice k) s = .next t ∧
      t.core k = { s.core k with running := !(s.core k).running, ranFrom := s.cycOf k, idleFrom := s.cycOf k } ∧ { t with cores := s.cores } = s) ∧
  (∀ s k, (s.core k).idleSw = true → (s.core k).idleFrom + 256 ≤ s.cycOf k → s.hasReady k ((s.core k).slot (s.core k).running).ctx = false →
    s.hasReady k ((s.core k).slot (!(s.core k).running)).ctx = true →
    ∃ t, exec (.contextSwitchIdle k) s = .next t ∧
      t.core k = { s.core k with running := !(s.core k).running, ranFrom := s.cycOf k, idleFrom := s.cycOf k } ∧ { t with cores := s.cores } = s) ∧
  (∀ s k v, v.getLsbD 17 = true → ∃ t, exec (.switchCommand k v) s = .next t ∧ { t with cores := s.cores } = s ∧
    t.core k = (let x : Core := { s.core k with slice := (v.extractLsb' 0 16).toNat, idleSw := v.getLsbD 16 }
      if ((s.core k).slot (!(s.core k).running)).ctx = none then x
      else { x with running := !x.running, ranFrom := s.cycOf k, idleFrom := s.cycOf k })) ∧
  (∀ s die v, v.getLsbD 10 = true → ∃ t, exec (.tlbInvalidateContext die v) s = .next t ∧ (t.die die).tlbBusy = true ∧
    (∀ k, dieOfCore k = die → ∀ e ∈ (t.core k).tlb, e.ctx ≠ (v.extractLsb' 0 10).toNat) ∧
    (∀ k, k / Config.copses = die → ∀ e ∈ (t.copse k).tlb, e.ctx ≠ (v.extractLsb' 0 10).toNat) ∧
    (∀ k, dieOfCore k ≠ die → (t.core k).tlb = (s.core k).tlb) ∧ t.mem = s.mem ∧ t.stands = s.stands ∧ t.outs = s.outs) ∧
  (∀ s die v, v.getLsbD 10 = false →
    let lo := ((s.die die).tlbva.extractLsb' 16 40).toNat * 65536
    let n := (max 1 ((s.die die).tlbva.extractLsb' 0 16).toNat) * 65536
    ∃ t, exec (.tlbInvalidateRange die v) s = .next t ∧ (t.die die).tlbBusy = true ∧
      (∀ k, dieOfCore k = die → ∀ e, e ∈ (t.core k).tlb ↔
        e ∈ (s.core k).tlb ∧ ¬ (e.ctx = (v.extractLsb' 0 10).toNat ∧ e.va < lo + n ∧ lo < e.va + e.size)) ∧
      t.mem = s.mem ∧ t.stands = s.stands ∧ t.outs = s.outs) ∧
  (∀ s die, (s.die die).tlbBusy = true → (∀ op ∈ (s.die die).tlbOps, SMap.get? s.outs op = none ∧ s.resting die (fun w => w.op == op) = false) →
    ∃ t, exec (.tlbInvalidationComplete die) s = .next t ∧ t.die die = { s.die die with tlbBusy := false, tlbOps := [] } ∧ { t with dies := s.dies } = s) ∧
  (∀ s die v, ∃ t, exec (.ddirWrite die v) s = .next t ∧ { t with dies := s.dies } = s ∧
    (t.die die).ddir = if (s.die die).gcrt = true then (s.die die).ddir else (v.extractLsb' 18 34).toNat * 2 ^ 18)

namespace Sys2Proof.Rule

/-- The result of an admit command (R140, R141, R286): 4 out of state free, 1 for a bound or a save rate out of range, 2 where a die's reserve is too
small, 3 without a key, 5 where the context has no die or its places do not lie in the main memory of their dies. -/
def admitResult (s : State) (c : Nat) : Nat :=
  let x := s.ctx c
  let share := fun (y : Ctx) (d : Nat) => if y.dieMask.testBit d then y.rho * y.maxCores d else 0
  let others := fun (d : Nat) => ((s.ctxs.filter fun kv => kv.2.state != .free && kv.1 != c).map fun kv => share kv.2 d).sum
  if x.state ≠ .free then 4
  else if x.vxcbnd < x.vxctx + 6 ∨ x.rho ∉ [64, 128, 256, 512, 1024, 2048] then 1
  else if ∃ d ∈ x.dieList, Config.vacateReserve < others d + share x d then 2
  else if x.keyed = false then 3
  else if x.dieList = [] ∨ ∃ d ∈ x.dieList, s.inMainMemory d (SMap.get 0 x.csave d).toNat = false ∨ s.inMainMemory d (SMap.get 0 x.clocb d).toNat = false then 5
  else 0

end Sys2Proof.Rule

/-- R138, R140, R141, R262, R263, R286 and R381: the commands of a context descriptor, with the result each leaves in the state it is given in; the end
of a vacate; a grove that goes back to its core; and the reply of a redirected operation in its slot, byte by byte. The model's choices: that an admit's
result is the first that applies of 4, 1, 2, 3, 5 (log entry 58), where a slot holds a result that the layout gives no place (32), that lodged operations
do not keep a vacate from its end (62), and that a halt is one step (33). -/
def Obligations.ContextCommands : Prop :=
  (∀ s c, ∃ t, exec (.ccmdAdmit c) s = .next t ∧ (t.ctx c).result = Rule.admitResult s c ∧ { t with ctxs := s.ctxs } = s ∧
    (t.ctx c).state = (if Rule.admitResult s c = 0 then .admitted else (s.ctx c).state) ∧ (t.ctx c).saved = (s.ctx c).saved ∧
    ∀ j, j ≠ c → t.ctx j = s.ctx j) ∧
  (∀ s c, ((s.ctx c).state = .free → ∃ t, exec (.ccmdEnd c) s = .next t ∧ t.ctx c = { s.ctx c with result := 4 } ∧ { t with ctxs := s.ctxs } = s) ∧
    ((s.ctx c).state ≠ .free → ∃ t, exec (.ccmdEnd c) s = .next t ∧
      ((t.ctx c).state, (t.ctx c).result, (t.ctx c).keyed, (t.ctx c).debugger, (t.ctx c).saved) = (.free, 0, false, false, []) ∧
      (∀ l x, SMap.get? t.launches l = some x → x.ctx ≠ c) ∧ ∀ q x, SMap.get? t.queues q = some x → x.ctx = c → x.recs = [])) ∧
  (∀ s c, ((s.ctx c).state ≠ .admitted → (s.ctx c).state ≠ .restoring →
      ∃ t, exec (.ccmdVacate c) s = .next t ∧ t.ctx c = { s.ctx c with result := 4 } ∧ { t with ctxs := s.ctxs } = s) ∧
    (((s.ctx c).state = .admitted ∨ (s.ctx c).state = .restoring) → (∀ k, ¬ ((s.core k).slot0.ctx = some c ∧ (s.core k).slot1.ctx = some c)) →
      ∃ t, exec (.ccmdVacate c) s = .next t ∧
      ((t.ctx c).state, (t.ctx c).result) = (.vacating, 0) ∧ (∀ g ∈ (t.ctx c).saved, g.onto = none) ∧
      ∀ k, k < Config.dies * Config.physPerDie → t.slotOf k c = none)) ∧
  (∀ s c, (s.ctx c).state = .vacating → s.fab.up = true → (∀ kv ∈ s.outs, kv.2.ctx = c → ∃ ask rep, kv.2.work = .det .lodged ask rep) →
    ∃ t, exec (.vacateComplete c) s = .next t ∧ (t.ctx c).state = .vacated ∧ (t.ctx c).saved = (s.ctx c).saved ∧ t.outs = s.outs ∧
      (s.live = [] → t.stands = s.stands)) ∧
  (∀ s c, ((s.ctx c).state ≠ .vacated → (s.ctx c).state ≠ .halted →
      ∃ t, exec (.ccmdRestore c) s = .next t ∧ t.ctx c = { s.ctx c with result := 4 } ∧ { t with ctxs := s.ctxs } = s) ∧
    (((s.ctx c).state = .vacated ∨ (s.ctx c).state = .halted) → ∃ t, exec (.ccmdRestore c) s = .next t ∧ { t with ctxs := s.ctxs } = s ∧
      (t.ctx c).result = 0 ∧ (t.ctx c).state = (if (s.ctx c).saved = [] then .admitted else .restoring) ∧
      (t.ctx c).saved = (s.ctx c).saved.map fun g => { g with onto := none })) ∧
  (∀ s die c x g k u more, s.ctxs = (c, x) :: more → (x.state = .admitted ∨ x.state = .restoring) → x.saved = [g] → g.onto = some k → dieOfCore k = die →
    s.slotsFilled g = true → s.slotsBack k g = true → g.stands = [u] → u.owed = [] → s.homeNat (u.image + 6) 2 ≠ 1 → SMap.get? s.groves g.id = none → g.grove.core = k →
    imageCheck (s.launch g.grove.launch).kernel x (s.imageAt u.image) = 0 → s.tablePoison (s.tablesBack c k g) = none →
    ∃ t gv st, exec (.restoreGrovePlacement die) s = .next t ∧ SMap.get? t.groves g.id = some gv ∧ (gv.launch, gv.g, gv.core) = (g.grove.launch, g.grove.g, k) ∧
      (∀ i, i < (s.launch g.grove.launch).kernel.scratch → t.scrByte g.id i = s.homeByte (g.scr + i)) ∧
      SMap.get? t.stands (k * 64 + u.idx) = some st ∧ (st.uid, st.ctx, st.grove, st.standid) = (u.uid, c, g.id, u.standid) ∧ (t.ctx c).saved = []) ∧
  (∀ s c (on : Bool), let ev : Instr := if on then .ccmdAttachDebugger c else .ccmdDetachDebugger c
    ((s.ctx c).state = .free → ∃ t, exec ev s = .next t ∧ t.ctx c = { s.ctx c with result := 4 } ∧ { t with ctxs := s.ctxs } = s) ∧
    ((s.ctx c).state ≠ .free → ∃ t, exec ev s = .next t ∧ t.ctx c = { s.ctx c with debugger := on, result := 0 } ∧ { t with ctxs := s.ctxs } = s)) ∧
  (∀ s c op o pa rep g x, SMap.get? s.outs op = some o → o.ctx = c → s.carried o = true → o.redirect = some pa → o.redirected = some rep →
    rep.trap = none → s.savedStand o.uid = some (g, x) → x.image + 256 ≤ pa →
    ∃ t, exec (.replySlotWrite c op) s = .next t ∧ SMap.get? t.outs op = none ∧ (∀ j, j ≠ op → SMap.get? t.outs j = SMap.get? s.outs j) ∧
      t.stands = s.stands ∧ (∀ i, i < (slotBytesOf o rep).length → t.homeByte (pa + i) = (slotBytesOf o rep).getD i 0) ∧
      t.homeNat (x.image + 0x24) 2 = (BitVec.ofNat 16 (s.homeNat (x.image + 0x24) 2) ||| rep.flags.setWidth 16).toNat) ∧
  (∀ (o : Out) (rep : Reply),
    let b := slotBytesOf o rep
    let num := fun (i n : Nat) => leNat ((b.drop i).take n)
    let lanes := match o.ins with
      | .xchg .. | .aadd .. | .amin .. | .amax .. | .aand .. | .aor .. | .axor .. | .axch .. | .acas .. => true
      | _ => false
    b.length = 144 ∧ num 0 4 = o.pc.toNat ∧ num 6 2 = 1 ∧ (∀ r lit, encodeRaw o.ins = some (r, lit) → num 4 1 = r.op.toNat ∧ num 5 1 = r.d.toNat) ∧
    (lanes = true → num 8 4 = rep.lanes.toNat ∧ num 12 4 = 0 ∧ ∀ l, l < 32 → num (16 + 4 * l) 4 = (SMap.get 0 rep.vals l).toNat) ∧
    (lanes = false → num 8 8 = rep.status.toNat ∧ (∀ r, rep.record = some r → r.length = 64 → (b.drop 16).take 64 = r) ∧
      (rep.record = none → (∀ v, rep.vote = some v → num 16 4 = v.toNat) ∧ ∀ x, rep.vote = none → rep.extra = some x → num 16 8 = x.toNat)))

/-- R132, R133, R200, R252, R257, R264 to R271: what an error does where it strikes, what a self-test and a coppice pass leave, how a parked path goes on
or traps, and what a remote operation that fails, another Pelfold's recovery and the watchdog bring. The model's choices: poison marks a sector of 32 bytes
at its home, for every read, and strikes while no operation is to read it (log entries 28 and 23), what a parked path does where its first lanes are not known (23),
the watchdog's event moves the clock on (43), and a hold notice may be sent at any time (67). -/
def Obligations.ErrorsAreHandled : Prop :=
  (∀ s pa (line : Bool), pa < 2 ^ 52 → s.sectorRead pa = false → ∃ t, exec (.uncorrectableError (if line then .counterLine pa else .memory pa)) s = .next t ∧
    t.poisonedAt (.mem pa) = true ∧ (∀ a, a / 32 ≠ pa / 32 → t.poisonedAt (.mem a) = s.poisonedAt (.mem a)) ∧ t.stands = s.stands ∧ t.outs = s.outs) ∧
  (∀ s n line l, SMap.get? (s.core n).snap line = some l → l.dirty = 0 → ∃ t, exec (.uncorrectableError (.cleanLine false n line)) s = .next t ∧
    SMap.get? (t.core n).snap line = none ∧ (∀ j, j ≠ line → SMap.get? (t.core n).snap j = SMap.get? (s.core n).snap j) ∧ t.stands = s.stands ∧
    t.poison = s.poison) ∧
  (∀ s key n st r, SMap.get? s.stands key = some st → SMap.get? st.residuals n = some r → ∃ t, exec (.uncorrectableError (.residual key n)) s = .next t ∧
    SMap.get? (t.stand key).residuals n = some { r with poisoned := true } ∧ { t.stand key with residuals := [] } = { st with residuals := [] }) ∧
  (∀ s q k x r, SMap.get? s.queues (queueKey q) = some x → x.recs[k]? = some r → ∃ t y, exec (.uncorrectableError (.queueEntry q k)) s = .next t ∧
    SMap.get? t.queues (queueKey q) = some y ∧ y.broken = true ∧ y.recs[k]? = some { r with poisoned := true } ∧ y.recs.length = x.recs.length ∧
    (x.broken = false → (t.ctx x.ctx).cmrec.map (·.kind) = some 0x22 ∧ (t.ctx x.ctx).state = (s.ctx x.ctx).state)) ∧
  (∀ s part key st, SMap.get? s.stands key = some st → st.region = none → (s.ctx st.ctx).state ≠ .free →
    ∃ t, exec (.uncorrectableError (.standSide part key)) s = .next t ∧ (t.ctx st.ctx).state = .halted ∧ (t.ctx st.ctx).cmrec.map (·.kind) = some 0x21) ∧
  (∀ s part key st r, SMap.get? s.stands key = some st → st.region = some r → (st.loads, st.stores, st.copies, st.tiles, st.tokmask) = (0, 0, 0, 0, 0) →
    ∃ t, exec (.uncorrectableError (.standSide part key)) s = .next t ∧ ((t.stand key).path 0).pc = BitVec.ofNat 17 r.ientry ∧
      ((t.stand key).path 0).mask = r.mask ∧ ((t.stand key).path 0).state = .active ∧ (∀ j, j ≠ 0 → (t.stand key).path j = {}) ∧
      (t.stand key).em 0 = r.mask &&& r.em ∧ (t.stand key).vregs = st.vregs ∧ (t.stand key).mode = st.mode) ∧
  (∀ s pa, exec (.errorSelfTest (.frame pa) true) s = .next s ∧
    ∃ t, exec (.errorSelfTest (.frame pa) false) s = .next t ∧ t.sent = s.sent ++ [.frame (pa / 65536 * 65536)] ∧
      SMap.get false t.badFrames (pa / 65536) = true ∧ (∀ f, f ≠ pa / 65536 → SMap.get false t.badFrames f = SMap.get false s.badFrames f) ∧
      { t with sent := s.sent, badFrames := s.badFrames } = s) ∧
  (∀ s k w, k < Config.dies * Config.physPerDie → (s.core k).retired = false → (s.core k).work = some w →
    ∃ t, exec (.errorSelfTest (.core k) false) s = .next t ∧ (t.core k).work = none ∧ (t.core k).retired = true) ∧
  (∀ s die cp k j, die < Config.dies → cp < Config.copses → s.withdrawn (die * Config.copses + cp) = some k →
    s.nextInCopse (die * Config.copses + cp) k = some j →
    ∃ t, exec (.coppiceScanEnd die cp true) s = .next t ∧ (t.core j).work = none ∧ (t.core k).work = (s.core j).work ∧
      ∀ l x, SMap.get? t.launches l = some x → k ∉ x.cores) ∧
  (∀ s key idx st p, SMap.get? s.stands key = some st → (st.path idx).parked = some p → p.fetch = false → st.replays = [] →
    (∃ t, exec (.pageFaultResolved key idx) s = .next t ∧ (t.stand key).path idx = { st.path idx with parked := none, part := some ⟨p.lanes, true, p.first, p.op, p.ins⟩ } ∧
      (∀ j, j ≠ idx → (t.stand key).path j = st.path j) ∧ { t.stand key with paths := [] } = { st with paths := [] } ∧ { t with stands := s.stands } = s) ∧
    exec (.pageFaultFatal key idx) s = .next (s.takeTrap key idx (st.path idx).pc false
      { cause := 0x04, tval := p.va, tmask := p.lanes,
        part := p.lanes != p.first.getD (if p.ins.any Rule.guarded = true then st.em idx &&& st.guard else st.em idx) })) ∧
  (∀ s op o, Rule.Of s op o → o.remote.isSome = true → (∀ x, o.work ≠ .tile x) → (∀ l, o.work ≠ .ptld l) →
    o.redirect = none → s.keyOfUid o.uid = some o.st → (∀ p ∈ s.pubs, op ∉ p.tiles) →
    ∃ t, exec (.remoteOpTimeout op) s = .next t ∧ SMap.get? t.outs op = none ∧ t.mem = s.mem ∧
      (∃ a, (t.stand o.st).armed = (s.stand o.st).armed ++ [a] ∧ (a.ins, a.cls, a.va, a.lanes) = (o.ins, o.cls, s.opAddr o, o.lanes) ∧
        (a.slot, a.range) = s.failedDst o) ∧ (t.stand o.st).vregs = (s.stand o.st).vregs ∧
      (t.stand o.st).sregs = (s.stand o.st).sregs) ∧
  (∀ s p, ∃ t, exec (.holdNotice p) s = .next t ∧ SMap.get? t.fab.holds p = some (s.die 0).cyc ∧ { t with fab := s.fab } = s) ∧
  (∀ s, s.fab.up = true → ∃ t, exec .holdNoticeSend s = .next t ∧ t.sent = s.sent ++ [.hold] ∧ { t with sent := s.sent } = s) ∧
  (∀ s key st i, SMap.get? s.stands key = some st → (s.ctx st.ctx).cwdog ≠ 0 → s.ctxRuns key st = true → s.fab.holds = [] →
    i < 8 → (st.path i).state = .active → (st.path i).held = false →
    ∃ t, exec (.watchdogExpiry key) s = .next t ∧ (t.ctx st.ctx).cmrec.map (·.kind) = some 0x24 ∧ (t.ctx st.ctx).state = (s.ctx st.ctx).state ∧
      { t.stand key with lastRet := 0 } = { st with lastRet := 0 } ∧ st.lastRet + (s.ctx st.ctx).cwdog.toNat * Config.nominalMHz ≤ t.cycOf (coreOf key))

namespace Sys2Proof.Rule

/-- What a create command leaves in OBJRES: an error with bit 63, or a handle (R288). -/
def objError (code : Nat) : DWord := BitVec.ofNat 64 (2 ^ 63 + code)

end Sys2Proof.Rule

/-- R243, R253, R284 to R289 and R380: create and destroy commands make and take away queues, chains and endpoints, with the error codes of their table;
a tenant interface moves between its states, and reports the measurement of its frozen registers when it is locked (their order in it is the model's:
log entry 93); a register takes the bits that it holds of an aligned 8-byte write; and the host reads each register of the windows as its map lays it
out, a write-only or unassigned one as 0. That the codes of a create command are tried in the order 1, 2, 3 is log entry 58, and that a destroyed queue
takes its launches not begun with it log entry 38: the model's choices. -/
def Obligations.SystemSoftware : Prop :=
  (∀ s die c,
    let d := s.die die
    let q := (d.objb.extractLsb' 0 12).toNat
    let ring := (d.obja.extractLsb' 12 40).toNat * 4096
    let common := fun (n : Nat) => 3 ≤ (d.objb.extractLsb' 13 3).toNat ∧ (d.objb.extractLsb' 13 3).toNat ≤ 5 ∧ (d.objb.extractLsb' 17 4).toNat ≤ 10 ∧
      (d.objb.extractLsb' 24 4).toNat < 2 ^ n
    let fails := fun (ev : Instr) (code : Nat) => ∃ t, exec ev s = .next t ∧ (t.die die).objres = Rule.objError code ∧ { t with dies := s.dies } = s
    let rights := (d.objb.extractLsb' 24 4).toNat
    (¬ (q / 1024 = die ∧ common 3 ∧ s.inMainMemory die ring = true) → fails (.createQueue die c) 1) ∧
    (q / 1024 = die → common 3 → s.inMainMemory die ring = true →
      ((SMap.get? s.queues (queueKey q)).isSome = true → fails (.createQueue die c) 2) ∧
      (SMap.get? s.queues (queueKey q) = none → (s.ctx c).state ≠ .admitted → fails (.createQueue die c) 3) ∧
      (SMap.get? s.queues (queueKey q) = none → (s.ctx c).state = .admitted → ∃ t, exec (.createQueue die c) s = .next t ∧
        SMap.get? t.queues (queueKey q) = some { ctx := c, ring := ring, cap := 64 * 2 ^ (d.objb.extractLsb' 17 4).toNat, scope := (d.objb.extractLsb' 13 3).toNat, launch := d.objb.getLsbD 16 } ∧
        (t.die die).objres = mkHandle (s.ctx c) 2 rights (s.gen (queueKey q)) die (q % 1024) ∧ { t with dies := s.dies, queues := s.queues } = s)) ∧
    (¬ common 2 → fails (.createChain die c) 1) ∧
    (common 2 → (s.ctx c).state ≠ .admitted → fails (.createChain die c) 3) ∧
    (∀ i, common 2 → (s.ctx c).state = .admitted → i < Config.objectSlots → SMap.get? s.chains (dirKey 3 die i) = none →
      (∀ j, j < i → (SMap.get? s.chains (dirKey 3 die j)).isSome = true) → ∃ t, exec (.createChain die c) s = .next t ∧
        SMap.get? t.chains (dirKey 3 die i) = some { ctx := c, ring := ring, cap := 64 * 2 ^ (d.objb.extractLsb' 17 4).toNat, scope := (d.objb.extractLsb' 13 3).toNat } ∧
        (t.die die).objres = mkHandle (s.ctx c) 3 rights (s.gen (dirKey 3 die i)) die i ∧ { t with dies := s.dies, chains := s.chains } = s) ∧
    (∀ i, (d.obja.extractLsb' 0 2 = 1 ∨ d.obja.extractLsb' 0 2 = 2 ∧ d.objb = 0) → (d.objc.extractLsb' 24 4).toNat < 4 → (s.ctx c).state = .admitted →
      i < Config.objectSlots → SMap.get? s.endpoints (dirKey 4 die i) = none →
      (∀ j, j < i → (SMap.get? s.endpoints (dirKey 4 die j)).isSome = true) → ∃ t, exec (.createEndpoint die c) s = .next t ∧
        SMap.get? t.endpoints (dirKey 4 die i) = some { ctx := c, nvme := (d.obja.extractLsb' 0 2 == 1#2), unit := (d.obja.extractLsb' 8 8).toNat, ns := (d.objb.extractLsb' 0 32).toNat, blk := (d.objb.extractLsb' 32 8).toNat } ∧
        (t.die die).objres = mkHandle (s.ctx c) 4 (d.objc.extractLsb' 24 4).toNat (s.gen (dirKey 4 die i)) die i ∧
        { t with dies := s.dies, endpoints := s.endpoints } = s)) ∧
  (∀ s die c key,
    let gone := fun (t : State) => (t.die die).objres = 0 ∧ t.gen key = (if s.gen key = 65535 then 1 else s.gen key + 1)
    (s.toDestroy die 2 = some key → ∀ q, SMap.get? s.queues key = some q → q.ctx = c → ∃ t, exec (.destroyQueue die c) s = .next t ∧ gone t ∧
      SMap.get? t.queues key = none ∧ ∀ r ∈ q.recs, ∀ l, r.launch = some l → SMap.get? t.launches l = none) ∧
    (s.toDestroy die 3 = some key → ∀ x, SMap.get? s.chains key = some x → x.ctx = c → ∃ t, exec (.destroyChain die c) s = .next t ∧ gone t ∧
      SMap.get? t.chains key = none ∧ { t with dies := s.dies, chains := s.chains, gens := s.gens } = s) ∧
    (s.toDestroy die 4 = some key → ∀ x, SMap.get? s.endpoints key = some x → x.ctx = c → ∃ t, exec (.destroyEndpoint die c) s = .next t ∧ gone t ∧
      SMap.get? t.endpoints key = none ∧ { t with dies := s.dies, endpoints := s.endpoints, gens := s.gens } = s)) ∧
  (∀ s i, ((s.iface i).state = .unlocked → ∃ t, exec (.lockInterfaceRequest i) s = .next t ∧ t.iface i = { s.iface i with state := .locked } ∧
      t.sent = s.sent ++ [.spdm [sha384 (s.frozenBytes i)]] ∧ { t with ifs := s.ifs, sent := s.sent } = s) ∧
    ((s.iface i).state = .locked → ∃ t, exec (.startInterfaceRequest i) s = .next t ∧ t.iface i = { s.iface i with state := .run, access := true } ∧
      { t with ifs := s.ifs } = s) ∧
    (∃ t, exec (.stopInterfaceRequest i) s = .next t ∧ t.iface i = { s.iface i with state := .unlocked, access := false }) ∧
    ((s.iface i).state = .run → ∃ t, exec (.interfaceLinkError i) s = .next t ∧ t.iface i = { s.iface i with state := .error, access := false })) ∧
  (∀ s addr size v, (size ≠ 8 ∨ addr % 8 ≠ 0) → (size = 64 ∨ ∀ q, q < 4096 → addr < 0x100000000000 + 0x1000 * q ∨ 0x100000000000 + 0x1000 * q + 0x40 ≤ addr) →
    exec (.configRegisterWrite addr size v) s = .next s) ∧
  (∀ s q off size v, q < 4096 → off < 0x40 → size ≠ 64 → ∃ t, exec (.configRegisterWrite (0x100000000000 + 0x1000 * q + off) size v) s = .next t ∧
    SMap.get 0 t.qdrop q = BitVec.ofNat 64 (((SMap.get 0 s.qdrop q).toNat + 1) % 2 ^ 32) ∧ { t with qdrop := s.qdrop } = s) ∧
  (∀ s q v, q < 4096 → ∃ t, exec (.configRegisterWrite (0x100000000000 + 0x1000 * q + 0x48) 8 v) s = .next t ∧
    SMap.get 0 t.qdrop q = SMap.get 0 s.qdrop q &&& ~~~(v &&& 0xFFFFFFFF#64) ∧ { t with qdrop := s.qdrop } = s) ∧
  (∀ s c v, c < 1024 → (s.ifs = [] ∧ (s.ctx c).state = .free) →
    ∃ t, exec (.configRegisterWrite (0x100200000000 + 0x1000 * c + 0x10) 8 v) s = .next t ∧ { t with ctxs := s.ctxs } = s ∧
      t.ctx c = { s.ctx c with cbound := v &&& 0xFFFFFFF#64 }) ∧
  (∀ s d v, d < 4 → ∃ t, exec (.configRegisterWrite (0x100100000000 + 0x1000000 * d + 0x40008) 8 v) s = .next t ∧
    t.die d = { s.die d with obja := v } ∧ { t with dies := s.dies } = s) ∧
  (∀ (s : State) addr size, (size ≠ 8 ∨ addr % 8 ≠ 0) → s.hostRead addr size = none) ∧
  (∀ s : State, s.power = .on →
    (∀ q, q < 4096 → (∀ i, i < 8 → s.hostRead (0x100000000000 + 0x1000 * q + 8 * i) 8 = some 0) ∧
      s.hostRead (0x100000000000 + 0x1000 * q + 0x48) 8 = some (SMap.get 0 s.qdrop q &&& 0xFFFFFFFF#64) ∧
      ∀ x, SMap.get? s.queues (queueKey q) = some x → x.recs.length < 2 ^ 17 →
        s.hostRead (0x100000000000 + 0x1000 * q + 0x40) 8 = some (BitVec.ofNat 64 (x.recs.length * 2 ^ 17 + if x.broken then 2 ^ 34 else 0))) ∧
    (∀ d, d < 4 → let w := 0x100100000000 + 0x1000000 * d
      s.hostRead w 8 = some (BitVec.ofNat 64 (d + 32 + s.devid % 64 * 256)) ∧ s.hostRead (w + 0x10) 8 = some 0 ∧ s.hostRead (w + 0x40000) 8 = some 0 ∧
      s.hostRead (w + 0x18) 8 = some (s.die d).tlbva ∧ s.hostRead (w + 0x20) 8 = some (if (s.die d).tlbBusy then 1 else 0) ∧
      s.hostRead (w + 0x40008) 8 = some (s.die d).obja ∧ s.hostRead (w + 0x40020) 8 = some (s.die d).objres) ∧
    (∀ c, c < 1024 → let w := 0x100200000000 + 0x1000 * c
      s.hostRead w 8 = some 0 ∧ s.hostRead (w + 0x30) 8 = some 0 ∧ s.hostRead (w + 0x38) 8 = some 0 ∧ s.hostRead (w + 0x10) 8 = some (s.ctx c).cbound ∧
      s.hostRead (w + 8) 8 = some (BitVec.ofNat 64 ((s.ctx c).result * 256 + (if (s.ctx c).debugger then 8 else 0) +
        match (s.ctx c).state with
        | .free => 0 | .admitted => 1 | .vacating => 2 | .vacated => 3 | .restoring => 4 | .halted => 5)) ∧
      ∀ m, (s.ctx c).cmrec = some m → ∀ i, i < 4 →
        s.hostRead (w + 0xC0 + 8 * i) 8 = some (BitVec.ofNat 64 (leNat ((m.bytes.drop (8 * i)).take 8)))) ∧
    (∀ i, i < 64 → s.hostRead (0x100300000000 + 0x1000 * i + 0x400) 8 = some (match (s.iface i).state with
      | .unlocked => 0 | .locked => 1 | .run => 2 | .error => 3)) ∧
    ∀ addr, 0x100300040000 ≤ addr → addr < 0x200000000000 → addr % 8 = 0 → s.hostRead addr 8 = some 0)

namespace Sys2Proof.Rule

/-- Flits of a packet of an operation: a tile's payload has 32 of data beside its header (R277, R281); another is one (log entry 68). -/
def flits (o : Out) (sub : Nat) : Nat :=
  match o.work with
  | .tile _ => if sub = 1 then 33 else 1
  | _ => 1

end Sys2Proof.Rule

/-- R178 and R277 to R283, and R292: the token of a home channel admits the request of lowest slack, limiters fill, packets pass on in order, errors of
flits halt one context or all, links and wavelengths go out of use and come back, and a die's clock follows its supply and its heat. The model's choices:
which packets an operation sends, and their flits but a payload's 33 (log entry 68), that the operation of a dropped packet is dropped too (69), and that
after the shutdown no step is taken (70). -/
def Obligations.FabricAndHeat : Prop :=
  (∀ s slice, slice < 128 → s.fab.up = true →
    let home := 128 * s.devid + slice
    let h := s.home home
    let t0 := if h.tap = 0 then h.low.getD 63 else h.t
    let low := if h.tap = 0 then none else h.low
    let frame := fun (t : State) => t.mem = s.mem ∧ t.stands = s.stands ∧ t.outs = s.outs ∧ (t.home home).tap = (h.tap + 1) % 48 ∧ (t.home home).t = t0 ∧
      ∀ j, j ≠ home → t.home j = s.home j
    (s.offers home h.tap = [] → ∃ t, exec (.tokenTapVisit slice) s = .next t ∧ frame t ∧ (t.home home).low = low ∧ (t.home home).arrived = h.arrived ∧
      SMap.get? (t.home home).passes h.tap = none) ∧
    (∀ l1 r l2, s.offers home h.tap = l1 ++ r :: l2 → (∀ q ∈ l1, r.slack < q.slack) → (∀ q ∈ l2, r.slack ≤ q.slack) →
      ∃ t, exec (.tokenTapVisit slice) s = .next t ∧ frame t ∧ (t.home home).low = some (min r.slack (low.getD 63)) ∧
        (r.slack ≤ t0 ∨ 2 ≤ SMap.get 0 h.passes h.tap → (t.home home).arrived = h.arrived ++ [⟨r.op, r.sub, r.core, r.slack, 0⟩] ∧
          SMap.get? (t.home home).passes h.tap = none ∧
          (∀ o l, SMap.get? s.outs r.op = some o → SMap.get? (s.die (dieOfCore r.core)).limiters o.ctx = some l →
            SMap.get? (t.die (dieOfCore r.core)).limiters o.ctx = some { l with level := l.level - Rule.flits o r.sub })) ∧
        (t0 < r.slack → SMap.get 0 h.passes h.tap < 2 → (t.home home).arrived = h.arrived ∧ t.dies = s.dies ∧
          SMap.get 0 (t.home home).passes h.tap = SMap.get 0 h.passes h.tap + 1))) ∧
  (∀ s d c l, SMap.get? (s.die d).limiters c = some l → ∃ t, exec (.limiterRefill d c) s = .next t ∧
    SMap.get? (t.die d).limiters c = some { l with level := min l.burst (l.level + l.rate) } ∧
    (∀ j, j ≠ c → SMap.get? (t.die d).limiters j = SMap.get? (s.die d).limiters j) ∧ { t with dies := s.dies } = s) ∧
  (∀ s src seq op, s.fab.up = true →
    (seq < SMap.get 0 s.fab.next src ∨ (∃ x, (src, seq, x) ∈ s.fab.heldPk) → exec (.packetArrival src seq op) s = .next s) ∧
    (seq = SMap.get 0 s.fab.next src → s.fab.heldPk = [] → ∃ t, exec (.packetArrival src seq op) s = .next t ∧ SMap.get 0 t.fab.next src = seq + 1 ∧
      t.fab.heldPk = [] ∧ (∀ j, j ≠ src → SMap.get 0 t.fab.next j = SMap.get 0 s.fab.next j) ∧ { t with fab := s.fab, homes := s.homes, dies := s.dies } = s ∧
      (∀ o, SMap.get? s.outs op = some o → s.limited (dieOfCore (coreOf o.st)) o.ctx = false → s.links o.remote = true →
        ∀ h sub, h / 128 ≠ s.devid → (h, sub) ∈ s.asks op o → s.mayAsk op o sub = true → ∃ a ∈ (t.home h).arrived, a.op = op ∧ a.sub = sub) ∧
      ∀ o, SMap.get? s.outs op = some o → s.limited (dieOfCore (coreOf o.st)) o.ctx = true ∨ s.links o.remote = false → t.homes = s.homes ∧ t.dies = s.dies) ∧
    (SMap.get 0 s.fab.next src < seq → (∀ p ∈ s.fab.heldPk, p.1 = src → p.2.1 ≠ seq ∧ p.2.1 ≠ SMap.get 0 s.fab.next src) →
      exec (.packetArrival src seq op) s = .next { s with fab := { s.fab with heldPk := s.fab.heldPk ++ [(src, seq, op)] } })) ∧
  (∀ s c op, (s.ctx c).state ≠ .free → ∃ t, exec (.flitPayloadError c op) s = .next t ∧ (t.ctx c).state = .halted ∧ t.power = s.power ∧
    ∀ o, SMap.get? s.outs op = some o → o.ctx = c → SMap.get? t.outs op = none) ∧
  (∀ s, ∃ t, exec .flitHeaderError s = .next t ∧ t.fab.up = false ∧
    (∀ c x, SMap.get? s.ctxs c = some x → x.state ≠ .free → (t.ctx c).state = .halted)) ∧
  (∀ s, exec .partitionReinitialise s = .next { s with fab := { s.fab with up := true } }) ∧
  (∀ s link, ∃ t, exec (.linkFailure link) s = .next t ∧ (∀ j, j ∈ t.fab.down ↔ j = link ∨ j ∈ s.fab.down) ∧
    { t with fab := { t.fab with down := s.fab.down } } = s) ∧
  (∀ s f w n, f < 256 → w < 8 →
    (n ≤ Config.fecLimit → exec (.wavelengthErrorWindow f w n) s = .next s) ∧
    (Config.fecLimit < n → ∃ t, exec (.wavelengthErrorWindow f w n) s = .next t ∧
      (∀ j, j < 8 → (SMap.get 0 t.fab.waves f).getLsbD j = (decide (j = w) || (SMap.get 0 s.fab.waves f).getLsbD j)) ∧
      (∀ g, g ≠ f → SMap.get 0 t.fab.waves g = SMap.get 0 s.fab.waves g) ∧ (∀ g, g ∈ t.fab.down ↔ g ∈ s.fab.down ∨ g = f ∧ t.wavesLeft f < 4) ∧
      { t with fab := { t.fab with waves := s.fab.waves, down := s.fab.down } } = s) ∧
    exec (.wavelengthRetrainDone f w false) s = .next s ∧
    ∃ t, exec (.wavelengthRetrainDone f w true) s = .next t ∧
      (∀ j, j < 8 → (SMap.get 0 t.fab.waves f).getLsbD j = (decide (j ≠ w) && (SMap.get 0 s.fab.waves f).getLsbD j)) ∧
      (∀ g, g ≠ f → SMap.get 0 t.fab.waves g = SMap.get 0 s.fab.waves g) ∧ { t with fab := { t.fab with waves := s.fab.waves } } = s) ∧
  (∀ s d, d < 4 →
    (∀ mhz, ∃ t, exec (.supplySag d mhz) s = .next t ∧ t.die d = { s.die d with mhz := if (s.die d).hot = true then 1400 else max 1400 (min mhz 2000) } ∧
      { t with dies := s.dies } = s) ∧
    (∀ hot, ∃ t, exec (.thermalThrottle d hot) s = .next t ∧ t.die d = { s.die d with hot := hot, mhz := if hot = true then 1400 else 2000 } ∧
      { t with dies := s.dies } = s)) ∧
  (∀ s d, (s.die d).hot = true → exec (.thermalAlert d) s = .next { s with sent := s.sent ++ [.thermal d] }) ∧
  (∀ s, ∃ t, exec .thermalShutdown s = .next t ∧ step t = .fault .poweredDown ∧
    ∀ c x, SMap.get? s.ctxs c = some x → x.state ≠ .free → (t.ctx c).state = .halted)

/-- R19, R22 to R24, R61, R134, R154, R259, R272, R273 and R291: what a debugger does to a stand, a grove and a path-table entry, its breakpoints and
watchpoints, a core's change of mode, the end of a greedy run, what an issue ahead of a branch or of a pending translation leaves unchanged and how it is
squashed, and the boot. The model's choices: every image is measured, also behind one whose signature fails (log entry 8), a halt of a stand or a grove is
one step (33), and what an issue ahead does (41). -/
def Obligations.DebuggerAndBoot : Prop :=
  (∀ s c key st, (s.ctx c).debugger = true → SMap.get? s.stands key = some st → st.ctx = c →
    ∃ t sg x, exec (.debugHalt c (.stand key)) s = .next t ∧ SMap.get? t.stands key = none ∧ (t.ctx c).saved = (s.ctx c).saved ++ [sg] ∧
      sg.id = st.grove ∧ sg.onto = some (s.grove st.grove).core ∧ sg.stands = [x] ∧ (x.uid, x.standid, x.idx) = (st.uid, st.standid, key % 64) ∧
      (t.ctx c).state = (s.ctx c).state) ∧
  (∀ s c g x, (s.ctx c).debugger = true → SMap.get? s.groves g = some x → (s.launch x.launch).ctx = c →
    ∃ t sg, exec (.debugHalt c (.grove g)) s = .next t ∧ SMap.get? t.groves g = none ∧ (t.ctx c).saved = (s.ctx c).saved ++ [sg] ∧
      (sg.id, sg.onto) = (g, some x.core) ∧ sg.stands.length = (s.standsOfGrove g).length ∧ ∀ key ∈ s.standsOfGrove g, SMap.get? t.stands key = none) ∧
  (∀ s key idx st, SMap.get? s.stands key = some st → (s.ctx st.ctx).debugger = true → idx < 8 →
    let only := fun (t : State) (p : Path) => (t.stand key).path idx = p ∧ (∀ j, j ≠ idx → (t.stand key).path j = st.path j) ∧
      { t.stand key with paths := [] } = { st with paths := [] } ∧ (∀ k, k ≠ key → t.stand k = s.stand k) ∧ { t with stands := s.stands } = s
    (∃ t, exec (.debugSetHeld key idx) s = .next t ∧ only t { st.path idx with held := true, single := false }) ∧
    ((st.path idx).held = true → ∃ t, exec (.debugReleaseHeld key idx) s = .next t ∧ only t { st.path idx with held := false, pass := true }) ∧
    ((st.path idx).held = true → (st.path idx).state.runs = true →
      ∃ t, exec (.singleStep key idx) s = .next t ∧ only t { st.path idx with held := false, single := true }) ∧
    ((st.path idx).state.runs = true → (st.path idx).single = false → (st.path idx).pass = false →
      (∃ b ∈ (s.core (coreOf key)).breaks, b.2 = ⟨(s.kernelOf st).addr, (st.path idx).pc⟩) →
      ∃ t, exec (.breakpointHit key idx) s = .next t ∧ t.sent = s.sent ++ [.debugStop st.ctx (s.gsi key) idx] ∧
        only { t with sent := s.sent } { st.path idx with held := true })) ∧
  (∀ s key idx c ker image, SMap.get? s.stands key = none → s.haltedAt key = some (c, ker, image) → (s.ctx c).debugger = true → idx < 8 →
    ∃ t u, exec (.debugSetHeld key idx) s = .next t ∧ exec (.debugReleaseHeld key idx) s = .next u ∧
      (let a := image + 0x40 + 16 * idx + 14
       t.homeByte a = s.homeByte a ||| 0x08#8 ∧ u.homeByte a = s.homeByte a &&& 0xF7#8 ∧
        ∀ b, b ≠ a → ¬ (image + 0xFC ≤ b ∧ b < image + 0x100) → t.homeByte b = s.homeByte b ∧ u.homeByte b = s.homeByte b)) ∧
  (∀ s n k b, n < 432 → k < 8 → ∃ t, exec (.debugSetBreakpoint n k b) s = .next t ∧ SMap.get? (t.core n).breaks k = b ∧
    (∀ j, j ≠ k → SMap.get? (t.core n).breaks j = SMap.get? (s.core n).breaks j) ∧ { t.core n with breaks := [] } = { s.core n with breaks := [] } ∧
    (∀ j, j ≠ n → t.core j = s.core j) ∧ { t with cores := s.cores } = s) ∧
  (∀ s n k w, n < 432 → k < 8 → ∃ t, exec (.debugSetWatchpoint n k w) s = .next t ∧ SMap.get? (t.core n).watch k = w ∧
    (∀ j, j ≠ k → SMap.get? (t.core n).watch j = SMap.get? (s.core n).watch j) ∧ { t.core n with watch := [] } = { s.core n with watch := [] } ∧
    (∀ j, j ≠ n → t.core j = s.core j) ∧ { t with cores := s.cores } = s) ∧
  (∀ s n on base len, n < 432 → len ≤ 4194304 →
    ((s.core n).slot0.ctx = none → (s.core n).slot1.ctx = none → ∃ t, exec (.deterministicModeSwitch n on base len) s = .next t ∧
      t.core n = { s.core n with det := on, window := (base, len) } ∧ (∀ j, j ≠ n → t.core j = s.core j) ∧ { t with cores := s.cores } = s) ∧
    ((s.core n).slot0.ctx ≠ none → exec (.deterministicModeSwitch n on base len) s = .next s) ∧
    ((s.core n).slot1.ctx ≠ none → exec (.deterministicModeSwitch n on base len) s = .next s)) ∧
  (∀ s n q key idx st, let x := SMap.get {} (s.core n).quarters q
    (x.run < 256 → exec (.greedyRunLimit n q) s = .next s) ∧
    (256 ≤ x.run → x.greedy = some (key, idx) → SMap.get? s.stands key = some st → (st.path idx).state ≠ .free →
      ∃ t, exec (.greedyRunLimit n q) s = .next t ∧ SMap.get {} (t.core n).quarters q = { only := x.only } ∧
        (∀ j, j ≠ q → SMap.get {} (t.core n).quarters j = SMap.get {} (s.core n).quarters j) ∧
        (t.stand key).path idx = { st.path idx with age := s.cycOf n } ∧ (∀ j, j ≠ idx → (t.stand key).path j = st.path j) ∧
        { t.stand key with paths := [] } = { st with paths := [] } ∧ { t with cores := s.cores, stands := s.stands } = s)) ∧
  (∀ s key idx st op o b, SMap.get? s.stands key = some st → s.outs.filter (fun kv => kv.2.uid == st.uid && kv.2.spec && kv.2.path == idx) = [(op, o)] →
    o.orphan = false → o.st = key → o.ctr ≠ .none → s.slotOf (coreOf key) o.ctx = some b →
    ∃ t, exec (.speculationSquash key idx) s = .next t ∧ SMap.get? t.outs op = none ∧ (∀ j, j ≠ op → SMap.get? t.outs j = SMap.get? s.outs j) ∧
      (t.stand key).count o.ctr = st.count o.ctr - 1 ∧ Rule.calm (t.stand key) = Rule.calm st ∧ t.mem = s.mem ∧
      ((t.core (coreOf key)).slot b).c = ((s.core (coreOf key)).slot b).c - o.vu ∧
      ((t.core (coreOf key)).slot b).p = ((s.core (coreOf key)).slot b).p - o.grow) ∧
  (∀ (s : State) key idx t, ((s.stand key).path idx).state.runs = true → SMap.get? s.outs s.nextId = none → (s.lookPast key idx = some t ∨ s.lookOver key idx = some t) →
    t.mem = s.mem ∧ (∀ k, k ≠ key → t.stand k = s.stand k) ∧
      { t.stand key with loads := (s.stand key).loads, avail := (s.stand key).avail, lent := (s.stand key).lent, stalled := (s.stand key).stalled } = s.stand key ∧
      (∀ j, j ≠ s.nextId → SMap.get? t.outs j = SMap.get? s.outs j) ∧ (∀ o, SMap.get? t.outs s.nextId = some o → o.spec = true ∧ o.st = key ∧ o.path = idx ∧ o.cls = 1) ∧
      (s.lookPast key idx = some t → ∃ a, SMap.get? t.ahead (aheadKey key idx) = some a ∧ a.past.length ≤ 17)) ∧
  (∀ s, (s.power ≠ .reset → exec .boot s = .next s) ∧ (s.power = .reset → ∃ t, exec .boot s = .next t ∧ t.measured.length = s.firmware.length ∧
    (∀ (i : Nat) (f : Firmware), s.firmware[i]? = some f → t.measured[i]? = some (sha384 f.bytes)) ∧
    ((∀ f ∈ s.firmware, f.valid = true) → t.power = .on) ∧ ((∃ f ∈ s.firmware, f.valid = false) → t.power = .recovery) ∧
    { t with measured := s.measured, power := s.power } = s)) ∧
  (∀ s, s.power = .on ∨ s.power = .recovery → exec .spdmMeasurementsRequest s = .next { s with sent := s.sent ++ [.spdm s.measured] })

/-! ## Encoding, the step, and reset -/

/-- R36 to R40 and R54 to R58: the words of every well-formed instruction, laid out in memory lowest byte first, decode to it with every operand, and
what follows them is left. -/
def Obligations.EncodeThenDecode : Prop :=
  ∀ i bytes rest, i.wellFormed = true → encodeBytes i = some bytes → decode (bytes ++ rest) = .ok (i, rest)

/-- R36 to R40 and R54 to R58: what decodes is well-formed, and its bytes are those that the encoder gives: no two byte strings stand for one instruction,
and no bit of a word is dropped. -/
def Obligations.DecodeThenEncode : Prop :=
  ∀ bytes rest i, decode bytes = .ok (i, rest) → i.wellFormed = true ∧ ∃ own, encodeBytes i = some own ∧ bytes = own ++ rest

/-- R36, R40, R54 to R57: words of each family, written out from the tables of their fields, decode to what they stand for; and words that R58 lists are
refused, or are ILLEGAL. -/
def Obligations.DecodedWords : Prop :=
  (decodeWords (0b01#2 ++ 0b00#2 ++ 0x10#7 ++ 0#7 ++ 5#7 ++ 6#7) 0 = .ok (.iadd ⟨.v1, 0⟩ 0 5 6)) ∧
  (decodeWords (0b01#2 ++ 0b00#2 ++ 0x28#7 ++ 0#7 ++ 5#7 ++ 0x00#7) 0 = .ok (.mov ⟨.v1, 0⟩ 0 5)) ∧
  (decodeWords (0b00#2 ++ 0b00#2 ++ 0x02#7 ++ 1#7 ++ 3#7 ++ 0#7) 0x00200030 = .ok (.bra ⟨.v0, 0⟩ true 3 0x20 0x30)) ∧
  (decodeWords (0b01#2 ++ 0b01#2 ++ 0x1D#7 ++ (2#3 ++ 4#4) ++ 8#7 ++ 9#7) 0 = .ok (.iset ⟨.v1, 1⟩ 2 4 8 9)) ∧
  (decodeWords (0b00#2 ++ 0b10#2 ++ 0x3C#7 ++ 1#7 ++ 2#7 ++ 62#7) 0 = .ok (.sadd ⟨.v0, 2⟩ 1 2 62)) ∧
  (decodeWords (0b01#2 ++ 0b00#2 ++ 0x49#7 ++ 7#7 ++ 1#7 ++ 2#7) 0 = .ok (.ld ⟨.v1, 0⟩ 7 1 2)) ∧
  (decodeWords (0b01#2 ++ 0b00#2 ++ 0x50#7 ++ 6#7 ++ 2#7 ++ 1#7) 0 = .ok (.aadd ⟨.v1, 0⟩ 6 2 1)) ∧
  (decodeWords (0b00#2 ++ 0b00#2 ++ 0x66#7 ++ 3#7 ++ 1#7 ++ 2#7) 0 = .ok (.mma ⟨.v0, 0⟩ 3 1 2)) ∧
  (decodeWords (0b00#2 ++ 0b00#2 ++ 0x76#7 ++ 4#7 ++ 5#7 ++ 55#7) 0 = .ok (.qenq ⟨.v0, 0⟩ 4 5 55)) ∧
  (decodeWords (0b00#2 ++ 0b00#2 ++ 0x76#7 ++ 4#7 ++ 5#7 ++ 56#7) 0 = .error .fieldB) ∧
  (decodeWords (0b11#2 ++ 0b00#2 ++ 0x10#7 ++ 0#7 ++ 5#7 ++ 6#7) 0 = .error .version) ∧
  (decodeWords (0b00#2 ++ 0b00#2 ++ 0x01#7 ++ 0#7 ++ 0#7 ++ 1#7) 0 = .error .fieldB) ∧
  (∀ (v s : BitVec 2) (d a b : BitVec 7), decodeWords (v ++ s ++ 0x00#7 ++ d ++ a ++ b) 0 = .ok (.illegal (v ++ s ++ 0x00#7 ++ d ++ a ++ b)))

namespace Sys2Proof.Rule

/-- The word at a virtual address can be fetched: its page is present, with permission X, and the word is there and not poisoned (R378). -/
structure Fetches (s : State) (k c va : Nat) (u : State) (w : Word) : Prop where
  page : ∃ t, s.translate k c va = (u, some t) ∧ t.x = true ∧ t.psn = false ∧ u.populated c (t.pa va) = true ∧
    ((u.core k).det = true → (u.core k).outside (some (t.pa va)) = false) ∧ u.poisonedAt (.mem (t.pa va)) = false ∧
    w = wordOfBytes (u.coreByte k (t.pa va)) (u.coreByte k (t.pa va + 1)) (u.coreByte k (t.pa va + 2)) (u.coreByte k (t.pa va + 3))

/-- The PC of the word that the path of `c` issues: its own, or that of the oldest replay record (R36, R379). -/
def pcOf (s : State) (c : Cand) : BitVec 17 := if c.replay = true then ((s.stand c.key).replays.headD { pc := 0, path := 0, lanes := 0 }).pc else ((s.stand c.key).path c.idx).pc

/-- The scheduler has picked the path of `c`, which no event, breakpoint, late line, greedy run or issue ahead stands before (R19, R22). -/
structure Picked (s : State) (c : Cand) : Prop where
  on : s.power = .on
  agenda : s.agenda = []
  pick : s.pickPath = some c
  alone : s.aheadMove = none
  turn : s.eventTurn c = false
  greedy : s.greedyDone c = false
  line : (s.beginIssue c).lateLine c = none
  nobreak : (s.beginIssue c).atBreakpoint c (pcOf s c) = false
  pass : ((s.stand c.key).path c.idx).pass = false

/-- Two states that differ in the scheduler's ages, marks, runs and times alone. -/
structure SameBut (u t : State) : Prop where
  world : { t with stands := u.stands, cores := u.cores } = u
  stands : ∀ k, { t.stand k with paths := [] } = { u.stand k with paths := [] } ∧
    ∀ j, { (t.stand k).path j with age := 0, fresh := false, wait := none } = { (u.stand k).path j with age := 0, fresh := false, wait := none }
  cores : ∀ n, { t.core n with quarters := [], idleFrom := 0 } = { u.core n with quarters := [], idleFrom := 0 }

end Sys2Proof.Rule

/-- R19, R36, R59 and R378: a step fetches the word at the picked path's PC, with the literal of a K format behind it, decodes it, and is `exec` of what
it decoded to, with the scheduler's turn around it; a word that is no instruction raises ILLEGAL with its bits in `tval`. A step of the agenda is
`exec` of that event. R22 to R24: an issue ahead of a branch, and a load that was issued ahead. The agenda, the units' events in their turn and the cycle
that passes are log entry 2, what issues ahead log entry 41, and the stop of a package that is off log entry 70: the model's choices. -/
def Obligations.StepRunsDecodedInstruction : Prop :=
  (∀ s key pc u w i, Rule.Fetches s (coreOf key) (s.stand key).ctx ((s.kernelOf (s.stand key)).addr.toNat + 4 * pc.toNat) u w →
    isKFormat (Raw.ofWord w).op = false →
    { u with cores := s.cores, copses := s.copses } = s ∧ (decodeWords w 0 = .ok i → s.fetch key pc = (u, .ok i)) ∧
    ∀ e, decodeWords w 0 = .error e → s.fetch key pc = (u, .bad (0#32 ++ w))) ∧
  (∀ s key pc u v w lit i, Rule.Fetches s (coreOf key) (s.stand key).ctx ((s.kernelOf (s.stand key)).addr.toNat + 4 * pc.toNat) u w →
    isKFormat (Raw.ofWord w).op = true →
    Rule.Fetches u (coreOf key) (s.stand key).ctx ((s.kernelOf (s.stand key)).addr.toNat + 4 * pc.toNat + 4) v lit →
    { v with cores := s.cores, copses := s.copses } = s ∧ (decodeWords w lit = .ok i → s.fetch key pc = (v, .ok i)) ∧
    ∀ e, decodeWords w lit = .error e → s.fetch key pc = (v, .bad (lit ++ w))) ∧
  (∀ s c u i, Rule.Picked s c → (s.beginIssue c).fetch c.key (Rule.pcOf s c) = (u, .ok i) →
    step s = (s.beginIssue c).finishIssue c (some i) (u.perform c (Rule.pcOf s c) i) ∧ u.cur = ⟨c.key, c.idx, c.replay⟩ ∧
      (c.replay = true ∨ SMap.get? u.ahead (aheadKey c.key c.idx) = none → u.perform c (Rule.pcOf s c) i = exec i u)) ∧
  (∀ (u : State) (c : Cand) pc i a rest op o, c.replay = false → SMap.get? u.ahead (aheadKey c.key c.idx) = some a → a.past = ⟨pc, some op⟩ :: rest →
    SMap.get? u.outs op = some o →
    let v := (u.squashOp op o).modSlot (coreOf c.key) (u.stand c.key).ctx fun y => { y with stalled := [] }
    u.perform c pc i = keepSeen u.nextId c.key (u.stand c.key).ctx o.seen (u.ctxSlot (coreOf c.key) (u.stand c.key).ctx).stalled
      (exec i { v with ahead := SMap.insert v.ahead (aheadKey c.key c.idx) { a with past := ⟨pc, none⟩ :: rest } })) ∧
  (∀ s c u x, Rule.Picked s c → (s.beginIssue c).fetch c.key (Rule.pcOf s c) = (u, .bad x) →
    step s = (s.beginIssue c).finishIssue c none (let e := u.env (.illegal 0)
      e.trapFor u 0x01 x (if x.extractLsb' 21 7 = 0x47#7 ∨ x.extractLsb' 21 7 = 0x48#7 then e.em else e.em &&& e.g))) ∧
  (∀ (s : State) (c : Cand) (i : Option Instr) (t : State), s.cur = ⟨c.key, c.idx, c.replay⟩ → (t.core (coreOf c.key)).trace.on = false → ((s.stand c.key).path c.idx).single = false →
    ∃ r, Rule.SameBut t r ∧ (s.finishIssue c i (.next t) = .next r.settleStep ∨ s.finishIssue c i (.next t) = .next r.settleStep.rouse)) ∧
  (∀ s : State, s.ahead = [] → (∀ kv ∈ s.outs, kv.2.work ≠ .rflush []) → (∀ kv ∈ s.stands, kv.2.restart = false) →
    (∀ kv ∈ s.cores, kv.2.snap.length ≤ Config.snapLines) → (∀ kv ∈ s.copses, kv.2.cache.length ≤ Config.copseLines) → s.settleStep = s) ∧
  (∀ s, s.power = .on → s.agenda = [] → s.pickPath = none → s.aheadMove = none → s.dueEvent = none → step s = .next s.tick) ∧
  (∀ s i t, s.power = .on → s.agenda = [] → s.pickPath = none → s.aheadMove = none → s.dueEvent = some i → i.isEncoded = false →
    exec i { s with turn := allQuarters - 1 } = .next t → step s = .next t.settleStep.rouse) ∧
  (∀ s q t, s.power = .on → s.agenda = [] → s.aheadMove = some (q, t) → (∀ c, s.pickPath = some c → s.untilTurn q ≤ s.untilTurn c.quarter) →
    step s = .next (t.turnTo q).settleStep) ∧
  (∀ (s : State) d, d < 4 → (s.tick.die d).cyc = (s.die d).cyc + 1 ∧ { s.tick with dies := s.dies } = s) ∧
  (∀ s i rest, s.power = .on → s.agenda = i :: rest →
    (i.isEncoded = true → step s = .next { s with agenda := rest }) ∧
    (i.isEncoded = false → ∀ t, exec i { s with agenda := rest } = .next t → step s = .next t.settleStep.rouse)) ∧
  (∀ s, s.power = .off → step s = .fault .poweredDown)

/-- R2, R125, R137 and R184: memory keeps its canonical form, addresses rising and no byte listed that reads as an unlisted one does, in every step from every
state: of every instruction, of every event, and of the units that move by themselves. -/
def Obligations.StepKeepsMemory : Prop :=
  ∀ s t, s.MemOk → step s = .next t → t.MemOk

/-- R115, R138, R243, R261, R268, R287, R289 and R380: reset, before the boot: memory lists nothing and is in its canonical form; no context is admitted, no
grove, stand, launch or object exists; working core i of each copse is physical core i and physical core 8 is withdrawn; every directory slot
holds GEN 1. That a byte which nothing has written reads 0 is the model's choice (log entry 1), as are empty TLBs and caches, no breakpoint and no watchpoint
(7), and the value 0 of what the spec gives no reset value (6). -/
def Obligations.ResetState : Prop :=
  let s := State.reset
  s.power = .reset ∧ s.MemOk ∧ (∀ a, s.homeByte a = 0) ∧ (∀ k a, s.coreByte k a = 0) ∧
  (∀ c, (s.ctx c).state = .free ∧ (s.ctx c).saved = [] ∧ (s.ctx c).keyed = false ∧ (s.ctx c).debugger = false) ∧
  (∀ k, k < 432 → (s.core k).work = (if k % 9 < 8 then some (k % 9) else none) ∧ (s.core k).retired = false ∧ (s.core k).units = 0 ∧
    (s.core k).slot0.ctx = none ∧ (s.core k).slot1.ctx = none ∧ (s.core k).slice = 0 ∧ (s.core k).idleSw = false ∧ (s.core k).det = false ∧
    (s.core k).trace.on = false ∧ (s.core k).breaks = [] ∧ (s.core k).watch = [] ∧ (s.core k).tlb = []) ∧
  (∀ d, (s.die d).mhz = 2000 ∧ (s.die d).gcrt = false ∧ (s.die d).cells = 0) ∧ s.badFrames = [] ∧ s.poison = [] ∧ s.live = [] ∧ s.fab.down = [] ∧
  (∀ key, s.gen key = 1) ∧ (∀ i, (s.iface i).state = .unlocked) ∧
  s.stands = [] ∧ s.groves = [] ∧ s.launches = [] ∧ s.groups = [] ∧ s.queues = [] ∧ s.chains = [] ∧ s.endpoints = [] ∧ s.outs = [] ∧ s.pubs = []

end
end

