-- ==== Sys2Proof/Laws/Map.lean ====
section
/-! SUPPORT. The laws of the sparse maps: a read after a write, and the canonical form kept by every operation. -/

namespace Sys2Proof
namespace SMap
variable {α : Type}

theorem get_eq_get? (d : α) (m : SMap α) (k : Nat) : get d m k = (get? m k).getD d := by
  induction m with
  | nil => rfl
  | cons kv t ih => obtain ⟨k', v⟩ := kv; by_cases h : k = k' <;> simp [get, get?, h, ih]

@[simp] theorem get?_insert (m : SMap α) (k : Nat) (v : α) (j : Nat) : get? (insert m k v) j = if j = k then some v else get? m j := by
  induction m with
  | nil => by_cases h : j = k <;> simp [insert, get?, h]
  | cons kv t ih =>
    obtain ⟨k', v'⟩ := kv
    by_cases h1 : k < k'
    · by_cases h : j = k <;> simp [insert, h1, get?, h]
    · by_cases h2 : k = k'
      · subst h2; by_cases h : j = k <;> simp [insert, get?, h]
      · simp only [insert, h1, h2, if_false, get?, ih]
        by_cases h : j = k
        · subst h; simp [h2]
        · simp [h]

@[simp] theorem get?_erase (m : SMap α) (k j : Nat) : get? (erase m k) j = if j = k then none else get? m j := by
  induction m with
  | nil => simp [erase, get?]
  | cons kv t ih =>
    obtain ⟨k', v'⟩ := kv
    by_cases h2 : k = k'
    · subst h2
      by_cases h : j = k
      · subst h; simpa [erase] using ih
      · simp [erase, get?, h, ih]
    · simp only [erase, h2, if_false, get?, ih]
      by_cases h : j = k
      · subst h; simp [h2]
      · simp [h]

/-- A read after a write to a listed key. -/
@[simp] theorem get_insert (d : α) (m : SMap α) (k : Nat) (v : α) (j : Nat) : get d (insert m k v) j = if j = k then v else get d m j := by
  by_cases h : j = k <;> simp [get_eq_get?, h]

@[simp] theorem get_erase (d : α) (m : SMap α) (k j : Nat) : get d (erase m k) j = if j = k then d else get d m j := by
  by_cases h : j = k <;> simp [get_eq_get?, h]

/-- A read after a write: the value written at its key, every other key as before. -/
@[simp] theorem get_set [DecidableEq α] (d : α) (m : SMap α) (k : Nat) (v : α) (j : Nat) :
    get d (set d m k v) j = if j = k then v else get d m j := by
  unfold set
  by_cases hv : v = d
  · subst hv; simp
  · simp [hv]

theorem get_nil (d : α) (k : Nat) : get d ([] : SMap α) k = d := rfl

/-- Change at one key, read back. -/
theorem get?_modify (m : SMap α) (k : Nat) (f : α → α) (j : Nat) : get? (modify m k f) j = if j = k then (get? m k).map f else get? m j := by
  unfold modify
  cases h : get? m k with
  | none => by_cases hj : j = k
            · subst hj; simp [h]
            · simp [hj]
  | some v => by_cases hj : j = k <;> simp [hj]

/-! ### The canonical form -/

theorem sortedFrom_mono {lo lo' : Nat} {m : SMap α} (h : lo' ≤ lo) (hs : sortedFrom lo m = true) : sortedFrom lo' m = true := by
  cases m with
  | nil => rfl
  | cons kv t => obtain ⟨k, v⟩ := kv; simp only [sortedFrom, Bool.and_eq_true, decide_eq_true_eq] at hs ⊢; exact ⟨by omega, hs.2⟩

theorem sortedFrom_insert {lo : Nat} {m : SMap α} (k : Nat) (v : α) (hk : lo ≤ k) (hs : sortedFrom lo m = true) :
    sortedFrom lo (insert m k v) = true := by
  induction m generalizing lo with
  | nil => simp [insert, sortedFrom, hk]
  | cons kv t ih =>
    obtain ⟨k', v'⟩ := kv
    simp only [sortedFrom, Bool.and_eq_true, decide_eq_true_eq] at hs
    unfold insert
    split
    · rename_i h; simp only [sortedFrom, Bool.and_eq_true, decide_eq_true_eq]; exact ⟨hk, by omega, hs.2⟩
    · split
      · rename_i h; subst h; simp only [sortedFrom, Bool.and_eq_true, decide_eq_true_eq]; exact ⟨hk, hs.2⟩
      · simp only [sortedFrom, Bool.and_eq_true, decide_eq_true_eq]; exact ⟨hs.1, ih (by omega) hs.2⟩

theorem sortedFrom_filter {lo : Nat} {m : SMap α} (p : Nat × α → Bool) (hs : sortedFrom lo m = true) : sortedFrom lo (m.filter p) = true := by
  induction m generalizing lo with
  | nil => rfl
  | cons kv t ih =>
    obtain ⟨k', v'⟩ := kv
    simp only [sortedFrom, Bool.and_eq_true, decide_eq_true_eq] at hs
    by_cases h : p (k', v') = true
    · rw [List.filter_cons_of_pos h]; simp only [sortedFrom, Bool.and_eq_true, decide_eq_true_eq]; exact ⟨hs.1, ih hs.2⟩
    · rw [List.filter_cons_of_neg h]; exact sortedFrom_mono (by omega) (ih hs.2)

theorem erase_eq_filter (m : SMap α) (k : Nat) : erase m k = m.filter fun kv => decide (k ≠ kv.1) := by
  induction m with
  | nil => rfl
  | cons kv t ih =>
    obtain ⟨k', v'⟩ := kv
    by_cases h : k = k'
    · subst h; simp [erase, ih]
    · simp [erase, h, ih]

theorem mem_insert {m : SMap α} {k : Nat} {v : α} {x : Nat × α} (hx : x ∈ insert m k v) : x = (k, v) ∨ x ∈ m := by
  induction m with
  | nil => simpa [insert] using hx
  | cons kv t ih =>
    obtain ⟨k', v'⟩ := kv
    unfold insert at hx
    split at hx
    · simpa using hx
    · split at hx
      · rcases List.mem_cons.1 hx with h | h
        · exact Or.inl h
        · exact Or.inr (List.mem_cons_of_mem _ h)
      · rcases List.mem_cons.1 hx with h | h
        · exact Or.inr (h ▸ List.mem_cons_self)
        · rcases ih h with h | h
          · exact Or.inl h
          · exact Or.inr (List.mem_cons_of_mem _ h)

/-- Below the least key a map reads as its default. -/
theorem get_of_lt {d : α} {m : SMap α} {lo k : Nat} (hs : sortedFrom lo m = true) (hk : k < lo) : get d m k = d := by
  induction m generalizing lo with
  | nil => rfl
  | cons kv t ih =>
    obtain ⟨k', v'⟩ := kv
    simp only [sortedFrom, Bool.and_eq_true, decide_eq_true_eq] at hs
    have : k ≠ k' := by omega
    simp only [get, this, if_false]
    exact ih hs.2 (by omega)

/-- Two maps in canonical form that read alike are equal. -/
theorem ext_of_sorted {d : α} {m n : SMap α} {lo : Nat} (hm : sortedFrom lo m = true) (hn : sortedFrom lo n = true)
    (vm : ∀ x ∈ m, x.2 ≠ d) (vn : ∀ x ∈ n, x.2 ≠ d) (h : ∀ k, get d m k = get d n k) : m = n := by
  induction m generalizing lo n with
  | nil =>
    cases n with
    | nil => rfl
    | cons kv t =>
      have := h kv.1
      simp [get] at this
      exact absurd this.symm (vn kv (by simp))
  | cons kv t ih =>
    obtain ⟨k, v⟩ := kv
    have hv : v ≠ d := vm (k, v) (by simp)
    simp only [sortedFrom, Bool.and_eq_true, decide_eq_true_eq] at hm
    cases n with
    | nil =>
      have := h k
      simp [get] at this
      exact absurd this hv
    | cons kv' t' =>
      obtain ⟨k', v'⟩ := kv'
      have hv' : v' ≠ d := vn (k', v') (by simp)
      simp only [sortedFrom, Bool.and_eq_true, decide_eq_true_eq] at hn
      have hk : k = k' := by
        rcases Nat.lt_trichotomy k k' with hlt | heq | hgt
        · have h1 := h k
          rw [show get d ((k', v') :: t') k = d by
            simp only [get, Nat.ne_of_lt hlt, if_false]; exact get_of_lt hn.2 (by omega)] at h1
          simp [get] at h1; exact absurd h1 hv
        · exact heq
        · have h1 := h k'
          rw [show get d ((k, v) :: t) k' = d by
            simp only [get, Nat.ne_of_lt hgt, if_false]; exact get_of_lt hm.2 (by omega)] at h1
          simp [get] at h1; exact absurd h1.symm hv'
      subst hk
      have hvv : v = v' := by simpa [get] using h k
      subst hvv
      congr 1
      refine ih hm.2 hn.2 (fun x hx => vm x (by simp [hx])) (fun x hx => vn x (by simp [hx])) fun j => ?_
      by_cases hj : j = k
      · subst hj; rw [get_of_lt hm.2 (by omega), get_of_lt hn.2 (by omega)]
      · have := h j; simpa [get, hj] using this

variable [DecidableEq α]

/-- A filter keeps the canonical form. -/
theorem wf_filter {d : α} {m : SMap α} (p : Nat × α → Bool) (h : wf d m = true) : wf d (m.filter p) = true := by
  simp only [wf, Bool.and_eq_true, List.all_eq_true] at h ⊢
  exact ⟨sortedFrom_filter p h.1, fun x hx => h.2 x ((List.mem_filter.1 hx).1)⟩

theorem wf_erase {d : α} {m : SMap α} (k : Nat) (h : wf d m = true) : wf d (erase m k) = true := by
  rw [erase_eq_filter]; exact wf_filter _ h

theorem wf_insert {d : α} {m : SMap α} (k : Nat) {v : α} (hv : v ≠ d) (h : wf d m = true) : wf d (insert m k v) = true := by
  simp only [wf, Bool.and_eq_true, List.all_eq_true] at h ⊢
  refine ⟨sortedFrom_insert k v (Nat.zero_le _) h.1, fun x hx => ?_⟩
  rcases mem_insert hx with rfl | hx
  · simpa using hv
  · exact h.2 x hx

/-- A write keeps the canonical form. -/
theorem wf_set {d : α} {m : SMap α} (k : Nat) (v : α) (h : wf d m = true) : wf d (set d m k v) = true := by
  unfold set
  split
  · exact wf_erase k h
  · rename_i hv; exact wf_insert k hv h

/-- Equal maps are equal data: two maps in canonical form that read alike are equal. -/
theorem wf_ext {d : α} {m n : SMap α} (hm : wf d m = true) (hn : wf d n = true) (h : ∀ k, get d m k = get d n k) : m = n := by
  simp only [wf, Bool.and_eq_true, List.all_eq_true, decide_eq_true_eq] at hm hn
  exact ext_of_sorted hm.1 hn.1 hm.2 hn.2 h

end SMap
end Sys2Proof
end

