-- ==== Sys2Proof/Laws/State.lean ====
section
/-! SUPPORT. The laws of the state's updates: each leaves every other field alone, and a table read after a write gives what was written. -/

namespace Sys2Proof.Machine

@[simp] theorem State.setStand_power (s : State) (k : Nat) (x : Stand) : (s.setStand k x).power = s.power := rfl
@[simp] theorem State.setStand_firmware (s : State) (k : Nat) (x : Stand) : (s.setStand k x).firmware = s.firmware := rfl
@[simp] theorem State.setStand_measured (s : State) (k : Nat) (x : Stand) : (s.setStand k x).measured = s.measured := rfl
@[simp] theorem State.setStand_devid (s : State) (k : Nat) (x : Stand) : (s.setStand k x).devid = s.devid := rfl
@[simp] theorem State.setStand_mem (s : State) (k : Nat) (x : Stand) : (s.setStand k x).mem = s.mem := rfl
@[simp] theorem State.setStand_poison (s : State) (k : Nat) (x : Stand) : (s.setStand k x).poison = s.poison := rfl
@[simp] theorem State.setStand_full (s : State) (k : Nat) (x : Stand) : (s.setStand k x).full = s.full := rfl
@[simp] theorem State.setStand_live (s : State) (k : Nat) (x : Stand) : (s.setStand k x).live = s.live := rfl
@[simp] theorem State.setStand_badFrames (s : State) (k : Nat) (x : Stand) : (s.setStand k x).badFrames = s.badFrames := rfl
@[simp] theorem State.setStand_ctxs (s : State) (k : Nat) (x : Stand) : (s.setStand k x).ctxs = s.ctxs := rfl
@[simp] theorem State.setStand_ifs (s : State) (k : Nat) (x : Stand) : (s.setStand k x).ifs = s.ifs := rfl
@[simp] theorem State.setStand_dies (s : State) (k : Nat) (x : Stand) : (s.setStand k x).dies = s.dies := rfl
@[simp] theorem State.setStand_copses (s : State) (k : Nat) (x : Stand) : (s.setStand k x).copses = s.copses := rfl
@[simp] theorem State.setStand_cores (s : State) (k : Nat) (x : Stand) : (s.setStand k x).cores = s.cores := rfl
@[simp] theorem State.setStand_homes (s : State) (k : Nat) (x : Stand) : (s.setStand k x).homes = s.homes := rfl
@[simp] theorem State.setStand_launches (s : State) (k : Nat) (x : Stand) : (s.setStand k x).launches = s.launches := rfl
@[simp] theorem State.setStand_groves (s : State) (k : Nat) (x : Stand) : (s.setStand k x).groves = s.groves := rfl
@[simp] theorem State.setStand_gens (s : State) (k : Nat) (x : Stand) : (s.setStand k x).gens = s.gens := rfl
@[simp] theorem State.setStand_groups (s : State) (k : Nat) (x : Stand) : (s.setStand k x).groups = s.groups := rfl
@[simp] theorem State.setStand_queues (s : State) (k : Nat) (x : Stand) : (s.setStand k x).queues = s.queues := rfl
@[simp] theorem State.setStand_chains (s : State) (k : Nat) (x : Stand) : (s.setStand k x).chains = s.chains := rfl
@[simp] theorem State.setStand_endpoints (s : State) (k : Nat) (x : Stand) : (s.setStand k x).endpoints = s.endpoints := rfl
@[simp] theorem State.setStand_qdrop (s : State) (k : Nat) (x : Stand) : (s.setStand k x).qdrop = s.qdrop := rfl
@[simp] theorem State.setStand_outs (s : State) (k : Nat) (x : Stand) : (s.setStand k x).outs = s.outs := rfl
@[simp] theorem State.setStand_ahead (s : State) (k : Nat) (x : Stand) : (s.setStand k x).ahead = s.ahead := rfl
@[simp] theorem State.setStand_pubs (s : State) (k : Nat) (x : Stand) : (s.setStand k x).pubs = s.pubs := rfl
@[simp] theorem State.setStand_enqs (s : State) (k : Nat) (x : Stand) : (s.setStand k x).enqs = s.enqs := rfl
@[simp] theorem State.setStand_fab (s : State) (k : Nat) (x : Stand) : (s.setStand k x).fab = s.fab := rfl
@[simp] theorem State.setStand_sent (s : State) (k : Nat) (x : Stand) : (s.setStand k x).sent = s.sent := rfl
@[simp] theorem State.setStand_cur (s : State) (k : Nat) (x : Stand) : (s.setStand k x).cur = s.cur := rfl
@[simp] theorem State.setStand_turn (s : State) (k : Nat) (x : Stand) : (s.setStand k x).turn = s.turn := rfl
@[simp] theorem State.setStand_nextId (s : State) (k : Nat) (x : Stand) : (s.setStand k x).nextId = s.nextId := rfl
@[simp] theorem State.setStand_agenda (s : State) (k : Nat) (x : Stand) : (s.setStand k x).agenda = s.agenda := rfl

@[simp] theorem State.modStand_listed_power (s : State) (k : Nat) (f : Stand → Stand) : (s.modStand? k f).power = s.power := rfl
@[simp] theorem State.modStand_listed_firmware (s : State) (k : Nat) (f : Stand → Stand) : (s.modStand? k f).firmware = s.firmware := rfl
@[simp] theorem State.modStand_listed_measured (s : State) (k : Nat) (f : Stand → Stand) : (s.modStand? k f).measured = s.measured := rfl
@[simp] theorem State.modStand_listed_devid (s : State) (k : Nat) (f : Stand → Stand) : (s.modStand? k f).devid = s.devid := rfl
@[simp] theorem State.modStand_listed_mem (s : State) (k : Nat) (f : Stand → Stand) : (s.modStand? k f).mem = s.mem := rfl
@[simp] theorem State.modStand_listed_poison (s : State) (k : Nat) (f : Stand → Stand) : (s.modStand? k f).poison = s.poison := rfl
@[simp] theorem State.modStand_listed_full (s : State) (k : Nat) (f : Stand → Stand) : (s.modStand? k f).full = s.full := rfl
@[simp] theorem State.modStand_listed_live (s : State) (k : Nat) (f : Stand → Stand) : (s.modStand? k f).live = s.live := rfl
@[simp] theorem State.modStand_listed_badFrames (s : State) (k : Nat) (f : Stand → Stand) : (s.modStand? k f).badFrames = s.badFrames := rfl
@[simp] theorem State.modStand_listed_ctxs (s : State) (k : Nat) (f : Stand → Stand) : (s.modStand? k f).ctxs = s.ctxs := rfl
@[simp] theorem State.modStand_listed_ifs (s : State) (k : Nat) (f : Stand → Stand) : (s.modStand? k f).ifs = s.ifs := rfl
@[simp] theorem State.modStand_listed_dies (s : State) (k : Nat) (f : Stand → Stand) : (s.modStand? k f).dies = s.dies := rfl
@[simp] theorem State.modStand_listed_copses (s : State) (k : Nat) (f : Stand → Stand) : (s.modStand? k f).copses = s.copses := rfl
@[simp] theorem State.modStand_listed_cores (s : State) (k : Nat) (f : Stand → Stand) : (s.modStand? k f).cores = s.cores := rfl
@[simp] theorem State.modStand_listed_homes (s : State) (k : Nat) (f : Stand → Stand) : (s.modStand? k f).homes = s.homes := rfl
@[simp] theorem State.modStand_listed_launches (s : State) (k : Nat) (f : Stand → Stand) : (s.modStand? k f).launches = s.launches := rfl
@[simp] theorem State.modStand_listed_groves (s : State) (k : Nat) (f : Stand → Stand) : (s.modStand? k f).groves = s.groves := rfl
@[simp] theorem State.modStand_listed_gens (s : State) (k : Nat) (f : Stand → Stand) : (s.modStand? k f).gens = s.gens := rfl
@[simp] theorem State.modStand_listed_groups (s : State) (k : Nat) (f : Stand → Stand) : (s.modStand? k f).groups = s.groups := rfl
@[simp] theorem State.modStand_listed_queues (s : State) (k : Nat) (f : Stand → Stand) : (s.modStand? k f).queues = s.queues := rfl
@[simp] theorem State.modStand_listed_chains (s : State) (k : Nat) (f : Stand → Stand) : (s.modStand? k f).chains = s.chains := rfl
@[simp] theorem State.modStand_listed_endpoints (s : State) (k : Nat) (f : Stand → Stand) : (s.modStand? k f).endpoints = s.endpoints := rfl
@[simp] theorem State.modStand_listed_qdrop (s : State) (k : Nat) (f : Stand → Stand) : (s.modStand? k f).qdrop = s.qdrop := rfl
@[simp] theorem State.modStand_listed_outs (s : State) (k : Nat) (f : Stand → Stand) : (s.modStand? k f).outs = s.outs := rfl
@[simp] theorem State.modStand_listed_ahead (s : State) (k : Nat) (f : Stand → Stand) : (s.modStand? k f).ahead = s.ahead := rfl
@[simp] theorem State.modStand_listed_pubs (s : State) (k : Nat) (f : Stand → Stand) : (s.modStand? k f).pubs = s.pubs := rfl
@[simp] theorem State.modStand_listed_enqs (s : State) (k : Nat) (f : Stand → Stand) : (s.modStand? k f).enqs = s.enqs := rfl
@[simp] theorem State.modStand_listed_fab (s : State) (k : Nat) (f : Stand → Stand) : (s.modStand? k f).fab = s.fab := rfl
@[simp] theorem State.modStand_listed_sent (s : State) (k : Nat) (f : Stand → Stand) : (s.modStand? k f).sent = s.sent := rfl
@[simp] theorem State.modStand_listed_cur (s : State) (k : Nat) (f : Stand → Stand) : (s.modStand? k f).cur = s.cur := rfl
@[simp] theorem State.modStand_listed_turn (s : State) (k : Nat) (f : Stand → Stand) : (s.modStand? k f).turn = s.turn := rfl
@[simp] theorem State.modStand_listed_nextId (s : State) (k : Nat) (f : Stand → Stand) : (s.modStand? k f).nextId = s.nextId := rfl
@[simp] theorem State.modStand_listed_agenda (s : State) (k : Nat) (f : Stand → Stand) : (s.modStand? k f).agenda = s.agenda := rfl

@[simp] theorem State.setCore_power (s : State) (k : Nat) (x : Core) : (s.setCore k x).power = s.power := rfl
@[simp] theorem State.setCore_firmware (s : State) (k : Nat) (x : Core) : (s.setCore k x).firmware = s.firmware := rfl
@[simp] theorem State.setCore_measured (s : State) (k : Nat) (x : Core) : (s.setCore k x).measured = s.measured := rfl
@[simp] theorem State.setCore_devid (s : State) (k : Nat) (x : Core) : (s.setCore k x).devid = s.devid := rfl
@[simp] theorem State.setCore_mem (s : State) (k : Nat) (x : Core) : (s.setCore k x).mem = s.mem := rfl
@[simp] theorem State.setCore_poison (s : State) (k : Nat) (x : Core) : (s.setCore k x).poison = s.poison := rfl
@[simp] theorem State.setCore_full (s : State) (k : Nat) (x : Core) : (s.setCore k x).full = s.full := rfl
@[simp] theorem State.setCore_live (s : State) (k : Nat) (x : Core) : (s.setCore k x).live = s.live := rfl
@[simp] theorem State.setCore_badFrames (s : State) (k : Nat) (x : Core) : (s.setCore k x).badFrames = s.badFrames := rfl
@[simp] theorem State.setCore_ctxs (s : State) (k : Nat) (x : Core) : (s.setCore k x).ctxs = s.ctxs := rfl
@[simp] theorem State.setCore_ifs (s : State) (k : Nat) (x : Core) : (s.setCore k x).ifs = s.ifs := rfl
@[simp] theorem State.setCore_dies (s : State) (k : Nat) (x : Core) : (s.setCore k x).dies = s.dies := rfl
@[simp] theorem State.setCore_copses (s : State) (k : Nat) (x : Core) : (s.setCore k x).copses = s.copses := rfl
@[simp] theorem State.setCore_homes (s : State) (k : Nat) (x : Core) : (s.setCore k x).homes = s.homes := rfl
@[simp] theorem State.setCore_launches (s : State) (k : Nat) (x : Core) : (s.setCore k x).launches = s.launches := rfl
@[simp] theorem State.setCore_groves (s : State) (k : Nat) (x : Core) : (s.setCore k x).groves = s.groves := rfl
@[simp] theorem State.setCore_stands (s : State) (k : Nat) (x : Core) : (s.setCore k x).stands = s.stands := rfl
@[simp] theorem State.setCore_gens (s : State) (k : Nat) (x : Core) : (s.setCore k x).gens = s.gens := rfl
@[simp] theorem State.setCore_groups (s : State) (k : Nat) (x : Core) : (s.setCore k x).groups = s.groups := rfl
@[simp] theorem State.setCore_queues (s : State) (k : Nat) (x : Core) : (s.setCore k x).queues = s.queues := rfl
@[simp] theorem State.setCore_chains (s : State) (k : Nat) (x : Core) : (s.setCore k x).chains = s.chains := rfl
@[simp] theorem State.setCore_endpoints (s : State) (k : Nat) (x : Core) : (s.setCore k x).endpoints = s.endpoints := rfl
@[simp] theorem State.setCore_qdrop (s : State) (k : Nat) (x : Core) : (s.setCore k x).qdrop = s.qdrop := rfl
@[simp] theorem State.setCore_outs (s : State) (k : Nat) (x : Core) : (s.setCore k x).outs = s.outs := rfl
@[simp] theorem State.setCore_ahead (s : State) (k : Nat) (x : Core) : (s.setCore k x).ahead = s.ahead := rfl
@[simp] theorem State.setCore_pubs (s : State) (k : Nat) (x : Core) : (s.setCore k x).pubs = s.pubs := rfl
@[simp] theorem State.setCore_enqs (s : State) (k : Nat) (x : Core) : (s.setCore k x).enqs = s.enqs := rfl
@[simp] theorem State.setCore_fab (s : State) (k : Nat) (x : Core) : (s.setCore k x).fab = s.fab := rfl
@[simp] theorem State.setCore_sent (s : State) (k : Nat) (x : Core) : (s.setCore k x).sent = s.sent := rfl
@[simp] theorem State.setCore_cur (s : State) (k : Nat) (x : Core) : (s.setCore k x).cur = s.cur := rfl
@[simp] theorem State.setCore_turn (s : State) (k : Nat) (x : Core) : (s.setCore k x).turn = s.turn := rfl
@[simp] theorem State.setCore_nextId (s : State) (k : Nat) (x : Core) : (s.setCore k x).nextId = s.nextId := rfl
@[simp] theorem State.setCore_agenda (s : State) (k : Nat) (x : Core) : (s.setCore k x).agenda = s.agenda := rfl

@[simp] theorem State.setCopse_power (s : State) (k : Nat) (x : Copse) : (s.setCopse k x).power = s.power := rfl
@[simp] theorem State.setCopse_firmware (s : State) (k : Nat) (x : Copse) : (s.setCopse k x).firmware = s.firmware := rfl
@[simp] theorem State.setCopse_measured (s : State) (k : Nat) (x : Copse) : (s.setCopse k x).measured = s.measured := rfl
@[simp] theorem State.setCopse_devid (s : State) (k : Nat) (x : Copse) : (s.setCopse k x).devid = s.devid := rfl
@[simp] theorem State.setCopse_mem (s : State) (k : Nat) (x : Copse) : (s.setCopse k x).mem = s.mem := rfl
@[simp] theorem State.setCopse_poison (s : State) (k : Nat) (x : Copse) : (s.setCopse k x).poison = s.poison := rfl
@[simp] theorem State.setCopse_full (s : State) (k : Nat) (x : Copse) : (s.setCopse k x).full = s.full := rfl
@[simp] theorem State.setCopse_live (s : State) (k : Nat) (x : Copse) : (s.setCopse k x).live = s.live := rfl
@[simp] theorem State.setCopse_badFrames (s : State) (k : Nat) (x : Copse) : (s.setCopse k x).badFrames = s.badFrames := rfl
@[simp] theorem State.setCopse_ctxs (s : State) (k : Nat) (x : Copse) : (s.setCopse k x).ctxs = s.ctxs := rfl
@[simp] theorem State.setCopse_ifs (s : State) (k : Nat) (x : Copse) : (s.setCopse k x).ifs = s.ifs := rfl
@[simp] theorem State.setCopse_dies (s : State) (k : Nat) (x : Copse) : (s.setCopse k x).dies = s.dies := rfl
@[simp] theorem State.setCopse_cores (s : State) (k : Nat) (x : Copse) : (s.setCopse k x).cores = s.cores := rfl
@[simp] theorem State.setCopse_homes (s : State) (k : Nat) (x : Copse) : (s.setCopse k x).homes = s.homes := rfl
@[simp] theorem State.setCopse_launches (s : State) (k : Nat) (x : Copse) : (s.setCopse k x).launches = s.launches := rfl
@[simp] theorem State.setCopse_groves (s : State) (k : Nat) (x : Copse) : (s.setCopse k x).groves = s.groves := rfl
@[simp] theorem State.setCopse_stands (s : State) (k : Nat) (x : Copse) : (s.setCopse k x).stands = s.stands := rfl
@[simp] theorem State.setCopse_gens (s : State) (k : Nat) (x : Copse) : (s.setCopse k x).gens = s.gens := rfl
@[simp] theorem State.setCopse_groups (s : State) (k : Nat) (x : Copse) : (s.setCopse k x).groups = s.groups := rfl
@[simp] theorem State.setCopse_queues (s : State) (k : Nat) (x : Copse) : (s.setCopse k x).queues = s.queues := rfl
@[simp] theorem State.setCopse_chains (s : State) (k : Nat) (x : Copse) : (s.setCopse k x).chains = s.chains := rfl
@[simp] theorem State.setCopse_endpoints (s : State) (k : Nat) (x : Copse) : (s.setCopse k x).endpoints = s.endpoints := rfl
@[simp] theorem State.setCopse_qdrop (s : State) (k : Nat) (x : Copse) : (s.setCopse k x).qdrop = s.qdrop := rfl
@[simp] theorem State.setCopse_outs (s : State) (k : Nat) (x : Copse) : (s.setCopse k x).outs = s.outs := rfl
@[simp] theorem State.setCopse_ahead (s : State) (k : Nat) (x : Copse) : (s.setCopse k x).ahead = s.ahead := rfl
@[simp] theorem State.setCopse_pubs (s : State) (k : Nat) (x : Copse) : (s.setCopse k x).pubs = s.pubs := rfl
@[simp] theorem State.setCopse_enqs (s : State) (k : Nat) (x : Copse) : (s.setCopse k x).enqs = s.enqs := rfl
@[simp] theorem State.setCopse_fab (s : State) (k : Nat) (x : Copse) : (s.setCopse k x).fab = s.fab := rfl
@[simp] theorem State.setCopse_sent (s : State) (k : Nat) (x : Copse) : (s.setCopse k x).sent = s.sent := rfl
@[simp] theorem State.setCopse_cur (s : State) (k : Nat) (x : Copse) : (s.setCopse k x).cur = s.cur := rfl
@[simp] theorem State.setCopse_turn (s : State) (k : Nat) (x : Copse) : (s.setCopse k x).turn = s.turn := rfl
@[simp] theorem State.setCopse_nextId (s : State) (k : Nat) (x : Copse) : (s.setCopse k x).nextId = s.nextId := rfl
@[simp] theorem State.setCopse_agenda (s : State) (k : Nat) (x : Copse) : (s.setCopse k x).agenda = s.agenda := rfl

@[simp] theorem State.setDie_power (s : State) (k : Nat) (x : Die) : (s.setDie k x).power = s.power := rfl
@[simp] theorem State.setDie_firmware (s : State) (k : Nat) (x : Die) : (s.setDie k x).firmware = s.firmware := rfl
@[simp] theorem State.setDie_measured (s : State) (k : Nat) (x : Die) : (s.setDie k x).measured = s.measured := rfl
@[simp] theorem State.setDie_devid (s : State) (k : Nat) (x : Die) : (s.setDie k x).devid = s.devid := rfl
@[simp] theorem State.setDie_mem (s : State) (k : Nat) (x : Die) : (s.setDie k x).mem = s.mem := rfl
@[simp] theorem State.setDie_poison (s : State) (k : Nat) (x : Die) : (s.setDie k x).poison = s.poison := rfl
@[simp] theorem State.setDie_full (s : State) (k : Nat) (x : Die) : (s.setDie k x).full = s.full := rfl
@[simp] theorem State.setDie_live (s : State) (k : Nat) (x : Die) : (s.setDie k x).live = s.live := rfl
@[simp] theorem State.setDie_badFrames (s : State) (k : Nat) (x : Die) : (s.setDie k x).badFrames = s.badFrames := rfl
@[simp] theorem State.setDie_ctxs (s : State) (k : Nat) (x : Die) : (s.setDie k x).ctxs = s.ctxs := rfl
@[simp] theorem State.setDie_ifs (s : State) (k : Nat) (x : Die) : (s.setDie k x).ifs = s.ifs := rfl
@[simp] theorem State.setDie_copses (s : State) (k : Nat) (x : Die) : (s.setDie k x).copses = s.copses := rfl
@[simp] theorem State.setDie_cores (s : State) (k : Nat) (x : Die) : (s.setDie k x).cores = s.cores := rfl
@[simp] theorem State.setDie_homes (s : State) (k : Nat) (x : Die) : (s.setDie k x).homes = s.homes := rfl
@[simp] theorem State.setDie_launches (s : State) (k : Nat) (x : Die) : (s.setDie k x).launches = s.launches := rfl
@[simp] theorem State.setDie_groves (s : State) (k : Nat) (x : Die) : (s.setDie k x).groves = s.groves := rfl
@[simp] theorem State.setDie_stands (s : State) (k : Nat) (x : Die) : (s.setDie k x).stands = s.stands := rfl
@[simp] theorem State.setDie_gens (s : State) (k : Nat) (x : Die) : (s.setDie k x).gens = s.gens := rfl
@[simp] theorem State.setDie_groups (s : State) (k : Nat) (x : Die) : (s.setDie k x).groups = s.groups := rfl
@[simp] theorem State.setDie_queues (s : State) (k : Nat) (x : Die) : (s.setDie k x).queues = s.queues := rfl
@[simp] theorem State.setDie_chains (s : State) (k : Nat) (x : Die) : (s.setDie k x).chains = s.chains := rfl
@[simp] theorem State.setDie_endpoints (s : State) (k : Nat) (x : Die) : (s.setDie k x).endpoints = s.endpoints := rfl
@[simp] theorem State.setDie_qdrop (s : State) (k : Nat) (x : Die) : (s.setDie k x).qdrop = s.qdrop := rfl
@[simp] theorem State.setDie_outs (s : State) (k : Nat) (x : Die) : (s.setDie k x).outs = s.outs := rfl
@[simp] theorem State.setDie_ahead (s : State) (k : Nat) (x : Die) : (s.setDie k x).ahead = s.ahead := rfl
@[simp] theorem State.setDie_pubs (s : State) (k : Nat) (x : Die) : (s.setDie k x).pubs = s.pubs := rfl
@[simp] theorem State.setDie_enqs (s : State) (k : Nat) (x : Die) : (s.setDie k x).enqs = s.enqs := rfl
@[simp] theorem State.setDie_fab (s : State) (k : Nat) (x : Die) : (s.setDie k x).fab = s.fab := rfl
@[simp] theorem State.setDie_sent (s : State) (k : Nat) (x : Die) : (s.setDie k x).sent = s.sent := rfl
@[simp] theorem State.setDie_cur (s : State) (k : Nat) (x : Die) : (s.setDie k x).cur = s.cur := rfl
@[simp] theorem State.setDie_turn (s : State) (k : Nat) (x : Die) : (s.setDie k x).turn = s.turn := rfl
@[simp] theorem State.setDie_nextId (s : State) (k : Nat) (x : Die) : (s.setDie k x).nextId = s.nextId := rfl
@[simp] theorem State.setDie_agenda (s : State) (k : Nat) (x : Die) : (s.setDie k x).agenda = s.agenda := rfl

@[simp] theorem State.setCtx_power (s : State) (k : Nat) (x : Ctx) : (s.setCtx k x).power = s.power := rfl
@[simp] theorem State.setCtx_firmware (s : State) (k : Nat) (x : Ctx) : (s.setCtx k x).firmware = s.firmware := rfl
@[simp] theorem State.setCtx_measured (s : State) (k : Nat) (x : Ctx) : (s.setCtx k x).measured = s.measured := rfl
@[simp] theorem State.setCtx_devid (s : State) (k : Nat) (x : Ctx) : (s.setCtx k x).devid = s.devid := rfl
@[simp] theorem State.setCtx_mem (s : State) (k : Nat) (x : Ctx) : (s.setCtx k x).mem = s.mem := rfl
@[simp] theorem State.setCtx_poison (s : State) (k : Nat) (x : Ctx) : (s.setCtx k x).poison = s.poison := rfl
@[simp] theorem State.setCtx_full (s : State) (k : Nat) (x : Ctx) : (s.setCtx k x).full = s.full := rfl
@[simp] theorem State.setCtx_live (s : State) (k : Nat) (x : Ctx) : (s.setCtx k x).live = s.live := rfl
@[simp] theorem State.setCtx_badFrames (s : State) (k : Nat) (x : Ctx) : (s.setCtx k x).badFrames = s.badFrames := rfl
@[simp] theorem State.setCtx_ifs (s : State) (k : Nat) (x : Ctx) : (s.setCtx k x).ifs = s.ifs := rfl
@[simp] theorem State.setCtx_dies (s : State) (k : Nat) (x : Ctx) : (s.setCtx k x).dies = s.dies := rfl
@[simp] theorem State.setCtx_copses (s : State) (k : Nat) (x : Ctx) : (s.setCtx k x).copses = s.copses := rfl
@[simp] theorem State.setCtx_cores (s : State) (k : Nat) (x : Ctx) : (s.setCtx k x).cores = s.cores := rfl
@[simp] theorem State.setCtx_homes (s : State) (k : Nat) (x : Ctx) : (s.setCtx k x).homes = s.homes := rfl
@[simp] theorem State.setCtx_launches (s : State) (k : Nat) (x : Ctx) : (s.setCtx k x).launches = s.launches := rfl
@[simp] theorem State.setCtx_groves (s : State) (k : Nat) (x : Ctx) : (s.setCtx k x).groves = s.groves := rfl
@[simp] theorem State.setCtx_stands (s : State) (k : Nat) (x : Ctx) : (s.setCtx k x).stands = s.stands := rfl
@[simp] theorem State.setCtx_gens (s : State) (k : Nat) (x : Ctx) : (s.setCtx k x).gens = s.gens := rfl
@[simp] theorem State.setCtx_groups (s : State) (k : Nat) (x : Ctx) : (s.setCtx k x).groups = s.groups := rfl
@[simp] theorem State.setCtx_queues (s : State) (k : Nat) (x : Ctx) : (s.setCtx k x).queues = s.queues := rfl
@[simp] theorem State.setCtx_chains (s : State) (k : Nat) (x : Ctx) : (s.setCtx k x).chains = s.chains := rfl
@[simp] theorem State.setCtx_endpoints (s : State) (k : Nat) (x : Ctx) : (s.setCtx k x).endpoints = s.endpoints := rfl
@[simp] theorem State.setCtx_qdrop (s : State) (k : Nat) (x : Ctx) : (s.setCtx k x).qdrop = s.qdrop := rfl
@[simp] theorem State.setCtx_outs (s : State) (k : Nat) (x : Ctx) : (s.setCtx k x).outs = s.outs := rfl
@[simp] theorem State.setCtx_ahead (s : State) (k : Nat) (x : Ctx) : (s.setCtx k x).ahead = s.ahead := rfl
@[simp] theorem State.setCtx_pubs (s : State) (k : Nat) (x : Ctx) : (s.setCtx k x).pubs = s.pubs := rfl
@[simp] theorem State.setCtx_enqs (s : State) (k : Nat) (x : Ctx) : (s.setCtx k x).enqs = s.enqs := rfl
@[simp] theorem State.setCtx_fab (s : State) (k : Nat) (x : Ctx) : (s.setCtx k x).fab = s.fab := rfl
@[simp] theorem State.setCtx_sent (s : State) (k : Nat) (x : Ctx) : (s.setCtx k x).sent = s.sent := rfl
@[simp] theorem State.setCtx_cur (s : State) (k : Nat) (x : Ctx) : (s.setCtx k x).cur = s.cur := rfl
@[simp] theorem State.setCtx_turn (s : State) (k : Nat) (x : Ctx) : (s.setCtx k x).turn = s.turn := rfl
@[simp] theorem State.setCtx_nextId (s : State) (k : Nat) (x : Ctx) : (s.setCtx k x).nextId = s.nextId := rfl
@[simp] theorem State.setCtx_agenda (s : State) (k : Nat) (x : Ctx) : (s.setCtx k x).agenda = s.agenda := rfl

@[simp] theorem State.setHome_power (s : State) (k : Nat) (x : Home) : (s.setHome k x).power = s.power := rfl
@[simp] theorem State.setHome_firmware (s : State) (k : Nat) (x : Home) : (s.setHome k x).firmware = s.firmware := rfl
@[simp] theorem State.setHome_measured (s : State) (k : Nat) (x : Home) : (s.setHome k x).measured = s.measured := rfl
@[simp] theorem State.setHome_devid (s : State) (k : Nat) (x : Home) : (s.setHome k x).devid = s.devid := rfl
@[simp] theorem State.setHome_mem (s : State) (k : Nat) (x : Home) : (s.setHome k x).mem = s.mem := rfl
@[simp] theorem State.setHome_poison (s : State) (k : Nat) (x : Home) : (s.setHome k x).poison = s.poison := rfl
@[simp] theorem State.setHome_full (s : State) (k : Nat) (x : Home) : (s.setHome k x).full = s.full := rfl
@[simp] theorem State.setHome_live (s : State) (k : Nat) (x : Home) : (s.setHome k x).live = s.live := rfl
@[simp] theorem State.setHome_badFrames (s : State) (k : Nat) (x : Home) : (s.setHome k x).badFrames = s.badFrames := rfl
@[simp] theorem State.setHome_ctxs (s : State) (k : Nat) (x : Home) : (s.setHome k x).ctxs = s.ctxs := rfl
@[simp] theorem State.setHome_ifs (s : State) (k : Nat) (x : Home) : (s.setHome k x).ifs = s.ifs := rfl
@[simp] theorem State.setHome_dies (s : State) (k : Nat) (x : Home) : (s.setHome k x).dies = s.dies := rfl
@[simp] theorem State.setHome_copses (s : State) (k : Nat) (x : Home) : (s.setHome k x).copses = s.copses := rfl
@[simp] theorem State.setHome_cores (s : State) (k : Nat) (x : Home) : (s.setHome k x).cores = s.cores := rfl
@[simp] theorem State.setHome_launches (s : State) (k : Nat) (x : Home) : (s.setHome k x).launches = s.launches := rfl
@[simp] theorem State.setHome_groves (s : State) (k : Nat) (x : Home) : (s.setHome k x).groves = s.groves := rfl
@[simp] theorem State.setHome_stands (s : State) (k : Nat) (x : Home) : (s.setHome k x).stands = s.stands := rfl
@[simp] theorem State.setHome_gens (s : State) (k : Nat) (x : Home) : (s.setHome k x).gens = s.gens := rfl
@[simp] theorem State.setHome_groups (s : State) (k : Nat) (x : Home) : (s.setHome k x).groups = s.groups := rfl
@[simp] theorem State.setHome_queues (s : State) (k : Nat) (x : Home) : (s.setHome k x).queues = s.queues := rfl
@[simp] theorem State.setHome_chains (s : State) (k : Nat) (x : Home) : (s.setHome k x).chains = s.chains := rfl
@[simp] theorem State.setHome_endpoints (s : State) (k : Nat) (x : Home) : (s.setHome k x).endpoints = s.endpoints := rfl
@[simp] theorem State.setHome_qdrop (s : State) (k : Nat) (x : Home) : (s.setHome k x).qdrop = s.qdrop := rfl
@[simp] theorem State.setHome_outs (s : State) (k : Nat) (x : Home) : (s.setHome k x).outs = s.outs := rfl
@[simp] theorem State.setHome_ahead (s : State) (k : Nat) (x : Home) : (s.setHome k x).ahead = s.ahead := rfl
@[simp] theorem State.setHome_pubs (s : State) (k : Nat) (x : Home) : (s.setHome k x).pubs = s.pubs := rfl
@[simp] theorem State.setHome_enqs (s : State) (k : Nat) (x : Home) : (s.setHome k x).enqs = s.enqs := rfl
@[simp] theorem State.setHome_fab (s : State) (k : Nat) (x : Home) : (s.setHome k x).fab = s.fab := rfl
@[simp] theorem State.setHome_sent (s : State) (k : Nat) (x : Home) : (s.setHome k x).sent = s.sent := rfl
@[simp] theorem State.setHome_cur (s : State) (k : Nat) (x : Home) : (s.setHome k x).cur = s.cur := rfl
@[simp] theorem State.setHome_turn (s : State) (k : Nat) (x : Home) : (s.setHome k x).turn = s.turn := rfl
@[simp] theorem State.setHome_nextId (s : State) (k : Nat) (x : Home) : (s.setHome k x).nextId = s.nextId := rfl
@[simp] theorem State.setHome_agenda (s : State) (k : Nat) (x : Home) : (s.setHome k x).agenda = s.agenda := rfl

@[simp] theorem State.setIface_power (s : State) (k : Nat) (x : TenantIf) : (s.setIface k x).power = s.power := rfl
@[simp] theorem State.setIface_firmware (s : State) (k : Nat) (x : TenantIf) : (s.setIface k x).firmware = s.firmware := rfl
@[simp] theorem State.setIface_measured (s : State) (k : Nat) (x : TenantIf) : (s.setIface k x).measured = s.measured := rfl
@[simp] theorem State.setIface_devid (s : State) (k : Nat) (x : TenantIf) : (s.setIface k x).devid = s.devid := rfl
@[simp] theorem State.setIface_mem (s : State) (k : Nat) (x : TenantIf) : (s.setIface k x).mem = s.mem := rfl
@[simp] theorem State.setIface_poison (s : State) (k : Nat) (x : TenantIf) : (s.setIface k x).poison = s.poison := rfl
@[simp] theorem State.setIface_full (s : State) (k : Nat) (x : TenantIf) : (s.setIface k x).full = s.full := rfl
@[simp] theorem State.setIface_live (s : State) (k : Nat) (x : TenantIf) : (s.setIface k x).live = s.live := rfl
@[simp] theorem State.setIface_badFrames (s : State) (k : Nat) (x : TenantIf) : (s.setIface k x).badFrames = s.badFrames := rfl
@[simp] theorem State.setIface_ctxs (s : State) (k : Nat) (x : TenantIf) : (s.setIface k x).ctxs = s.ctxs := rfl
@[simp] theorem State.setIface_dies (s : State) (k : Nat) (x : TenantIf) : (s.setIface k x).dies = s.dies := rfl
@[simp] theorem State.setIface_copses (s : State) (k : Nat) (x : TenantIf) : (s.setIface k x).copses = s.copses := rfl
@[simp] theorem State.setIface_cores (s : State) (k : Nat) (x : TenantIf) : (s.setIface k x).cores = s.cores := rfl
@[simp] theorem State.setIface_homes (s : State) (k : Nat) (x : TenantIf) : (s.setIface k x).homes = s.homes := rfl
@[simp] theorem State.setIface_launches (s : State) (k : Nat) (x : TenantIf) : (s.setIface k x).launches = s.launches := rfl
@[simp] theorem State.setIface_groves (s : State) (k : Nat) (x : TenantIf) : (s.setIface k x).groves = s.groves := rfl
@[simp] theorem State.setIface_stands (s : State) (k : Nat) (x : TenantIf) : (s.setIface k x).stands = s.stands := rfl
@[simp] theorem State.setIface_gens (s : State) (k : Nat) (x : TenantIf) : (s.setIface k x).gens = s.gens := rfl
@[simp] theorem State.setIface_groups (s : State) (k : Nat) (x : TenantIf) : (s.setIface k x).groups = s.groups := rfl
@[simp] theorem State.setIface_queues (s : State) (k : Nat) (x : TenantIf) : (s.setIface k x).queues = s.queues := rfl
@[simp] theorem State.setIface_chains (s : State) (k : Nat) (x : TenantIf) : (s.setIface k x).chains = s.chains := rfl
@[simp] theorem State.setIface_endpoints (s : State) (k : Nat) (x : TenantIf) : (s.setIface k x).endpoints = s.endpoints := rfl
@[simp] theorem State.setIface_qdrop (s : State) (k : Nat) (x : TenantIf) : (s.setIface k x).qdrop = s.qdrop := rfl
@[simp] theorem State.setIface_outs (s : State) (k : Nat) (x : TenantIf) : (s.setIface k x).outs = s.outs := rfl
@[simp] theorem State.setIface_ahead (s : State) (k : Nat) (x : TenantIf) : (s.setIface k x).ahead = s.ahead := rfl
@[simp] theorem State.setIface_pubs (s : State) (k : Nat) (x : TenantIf) : (s.setIface k x).pubs = s.pubs := rfl
@[simp] theorem State.setIface_enqs (s : State) (k : Nat) (x : TenantIf) : (s.setIface k x).enqs = s.enqs := rfl
@[simp] theorem State.setIface_fab (s : State) (k : Nat) (x : TenantIf) : (s.setIface k x).fab = s.fab := rfl
@[simp] theorem State.setIface_sent (s : State) (k : Nat) (x : TenantIf) : (s.setIface k x).sent = s.sent := rfl
@[simp] theorem State.setIface_cur (s : State) (k : Nat) (x : TenantIf) : (s.setIface k x).cur = s.cur := rfl
@[simp] theorem State.setIface_turn (s : State) (k : Nat) (x : TenantIf) : (s.setIface k x).turn = s.turn := rfl
@[simp] theorem State.setIface_nextId (s : State) (k : Nat) (x : TenantIf) : (s.setIface k x).nextId = s.nextId := rfl
@[simp] theorem State.setIface_agenda (s : State) (k : Nat) (x : TenantIf) : (s.setIface k x).agenda = s.agenda := rfl

@[simp] theorem State.setGrove_power (s : State) (k : Nat) (x : Grove) : (s.setGrove k x).power = s.power := rfl
@[simp] theorem State.setGrove_firmware (s : State) (k : Nat) (x : Grove) : (s.setGrove k x).firmware = s.firmware := rfl
@[simp] theorem State.setGrove_measured (s : State) (k : Nat) (x : Grove) : (s.setGrove k x).measured = s.measured := rfl
@[simp] theorem State.setGrove_devid (s : State) (k : Nat) (x : Grove) : (s.setGrove k x).devid = s.devid := rfl
@[simp] theorem State.setGrove_mem (s : State) (k : Nat) (x : Grove) : (s.setGrove k x).mem = s.mem := rfl
@[simp] theorem State.setGrove_poison (s : State) (k : Nat) (x : Grove) : (s.setGrove k x).poison = s.poison := rfl
@[simp] theorem State.setGrove_full (s : State) (k : Nat) (x : Grove) : (s.setGrove k x).full = s.full := rfl
@[simp] theorem State.setGrove_live (s : State) (k : Nat) (x : Grove) : (s.setGrove k x).live = s.live := rfl
@[simp] theorem State.setGrove_badFrames (s : State) (k : Nat) (x : Grove) : (s.setGrove k x).badFrames = s.badFrames := rfl
@[simp] theorem State.setGrove_ctxs (s : State) (k : Nat) (x : Grove) : (s.setGrove k x).ctxs = s.ctxs := rfl
@[simp] theorem State.setGrove_ifs (s : State) (k : Nat) (x : Grove) : (s.setGrove k x).ifs = s.ifs := rfl
@[simp] theorem State.setGrove_dies (s : State) (k : Nat) (x : Grove) : (s.setGrove k x).dies = s.dies := rfl
@[simp] theorem State.setGrove_copses (s : State) (k : Nat) (x : Grove) : (s.setGrove k x).copses = s.copses := rfl
@[simp] theorem State.setGrove_cores (s : State) (k : Nat) (x : Grove) : (s.setGrove k x).cores = s.cores := rfl
@[simp] theorem State.setGrove_homes (s : State) (k : Nat) (x : Grove) : (s.setGrove k x).homes = s.homes := rfl
@[simp] theorem State.setGrove_launches (s : State) (k : Nat) (x : Grove) : (s.setGrove k x).launches = s.launches := rfl
@[simp] theorem State.setGrove_stands (s : State) (k : Nat) (x : Grove) : (s.setGrove k x).stands = s.stands := rfl
@[simp] theorem State.setGrove_gens (s : State) (k : Nat) (x : Grove) : (s.setGrove k x).gens = s.gens := rfl
@[simp] theorem State.setGrove_groups (s : State) (k : Nat) (x : Grove) : (s.setGrove k x).groups = s.groups := rfl
@[simp] theorem State.setGrove_queues (s : State) (k : Nat) (x : Grove) : (s.setGrove k x).queues = s.queues := rfl
@[simp] theorem State.setGrove_chains (s : State) (k : Nat) (x : Grove) : (s.setGrove k x).chains = s.chains := rfl
@[simp] theorem State.setGrove_endpoints (s : State) (k : Nat) (x : Grove) : (s.setGrove k x).endpoints = s.endpoints := rfl
@[simp] theorem State.setGrove_qdrop (s : State) (k : Nat) (x : Grove) : (s.setGrove k x).qdrop = s.qdrop := rfl
@[simp] theorem State.setGrove_outs (s : State) (k : Nat) (x : Grove) : (s.setGrove k x).outs = s.outs := rfl
@[simp] theorem State.setGrove_ahead (s : State) (k : Nat) (x : Grove) : (s.setGrove k x).ahead = s.ahead := rfl
@[simp] theorem State.setGrove_pubs (s : State) (k : Nat) (x : Grove) : (s.setGrove k x).pubs = s.pubs := rfl
@[simp] theorem State.setGrove_enqs (s : State) (k : Nat) (x : Grove) : (s.setGrove k x).enqs = s.enqs := rfl
@[simp] theorem State.setGrove_fab (s : State) (k : Nat) (x : Grove) : (s.setGrove k x).fab = s.fab := rfl
@[simp] theorem State.setGrove_sent (s : State) (k : Nat) (x : Grove) : (s.setGrove k x).sent = s.sent := rfl
@[simp] theorem State.setGrove_cur (s : State) (k : Nat) (x : Grove) : (s.setGrove k x).cur = s.cur := rfl
@[simp] theorem State.setGrove_turn (s : State) (k : Nat) (x : Grove) : (s.setGrove k x).turn = s.turn := rfl
@[simp] theorem State.setGrove_nextId (s : State) (k : Nat) (x : Grove) : (s.setGrove k x).nextId = s.nextId := rfl
@[simp] theorem State.setGrove_agenda (s : State) (k : Nat) (x : Grove) : (s.setGrove k x).agenda = s.agenda := rfl

@[simp] theorem State.setLaunch_power (s : State) (k : Nat) (x : Launch) : (s.setLaunch k x).power = s.power := rfl
@[simp] theorem State.setLaunch_firmware (s : State) (k : Nat) (x : Launch) : (s.setLaunch k x).firmware = s.firmware := rfl
@[simp] theorem State.setLaunch_measured (s : State) (k : Nat) (x : Launch) : (s.setLaunch k x).measured = s.measured := rfl
@[simp] theorem State.setLaunch_devid (s : State) (k : Nat) (x : Launch) : (s.setLaunch k x).devid = s.devid := rfl
@[simp] theorem State.setLaunch_mem (s : State) (k : Nat) (x : Launch) : (s.setLaunch k x).mem = s.mem := rfl
@[simp] theorem State.setLaunch_poison (s : State) (k : Nat) (x : Launch) : (s.setLaunch k x).poison = s.poison := rfl
@[simp] theorem State.setLaunch_full (s : State) (k : Nat) (x : Launch) : (s.setLaunch k x).full = s.full := rfl
@[simp] theorem State.setLaunch_live (s : State) (k : Nat) (x : Launch) : (s.setLaunch k x).live = s.live := rfl
@[simp] theorem State.setLaunch_badFrames (s : State) (k : Nat) (x : Launch) : (s.setLaunch k x).badFrames = s.badFrames := rfl
@[simp] theorem State.setLaunch_ctxs (s : State) (k : Nat) (x : Launch) : (s.setLaunch k x).ctxs = s.ctxs := rfl
@[simp] theorem State.setLaunch_ifs (s : State) (k : Nat) (x : Launch) : (s.setLaunch k x).ifs = s.ifs := rfl
@[simp] theorem State.setLaunch_dies (s : State) (k : Nat) (x : Launch) : (s.setLaunch k x).dies = s.dies := rfl
@[simp] theorem State.setLaunch_copses (s : State) (k : Nat) (x : Launch) : (s.setLaunch k x).copses = s.copses := rfl
@[simp] theorem State.setLaunch_cores (s : State) (k : Nat) (x : Launch) : (s.setLaunch k x).cores = s.cores := rfl
@[simp] theorem State.setLaunch_homes (s : State) (k : Nat) (x : Launch) : (s.setLaunch k x).homes = s.homes := rfl
@[simp] theorem State.setLaunch_groves (s : State) (k : Nat) (x : Launch) : (s.setLaunch k x).groves = s.groves := rfl
@[simp] theorem State.setLaunch_stands (s : State) (k : Nat) (x : Launch) : (s.setLaunch k x).stands = s.stands := rfl
@[simp] theorem State.setLaunch_gens (s : State) (k : Nat) (x : Launch) : (s.setLaunch k x).gens = s.gens := rfl
@[simp] theorem State.setLaunch_groups (s : State) (k : Nat) (x : Launch) : (s.setLaunch k x).groups = s.groups := rfl
@[simp] theorem State.setLaunch_queues (s : State) (k : Nat) (x : Launch) : (s.setLaunch k x).queues = s.queues := rfl
@[simp] theorem State.setLaunch_chains (s : State) (k : Nat) (x : Launch) : (s.setLaunch k x).chains = s.chains := rfl
@[simp] theorem State.setLaunch_endpoints (s : State) (k : Nat) (x : Launch) : (s.setLaunch k x).endpoints = s.endpoints := rfl
@[simp] theorem State.setLaunch_qdrop (s : State) (k : Nat) (x : Launch) : (s.setLaunch k x).qdrop = s.qdrop := rfl
@[simp] theorem State.setLaunch_outs (s : State) (k : Nat) (x : Launch) : (s.setLaunch k x).outs = s.outs := rfl
@[simp] theorem State.setLaunch_ahead (s : State) (k : Nat) (x : Launch) : (s.setLaunch k x).ahead = s.ahead := rfl
@[simp] theorem State.setLaunch_pubs (s : State) (k : Nat) (x : Launch) : (s.setLaunch k x).pubs = s.pubs := rfl
@[simp] theorem State.setLaunch_enqs (s : State) (k : Nat) (x : Launch) : (s.setLaunch k x).enqs = s.enqs := rfl
@[simp] theorem State.setLaunch_fab (s : State) (k : Nat) (x : Launch) : (s.setLaunch k x).fab = s.fab := rfl
@[simp] theorem State.setLaunch_sent (s : State) (k : Nat) (x : Launch) : (s.setLaunch k x).sent = s.sent := rfl
@[simp] theorem State.setLaunch_cur (s : State) (k : Nat) (x : Launch) : (s.setLaunch k x).cur = s.cur := rfl
@[simp] theorem State.setLaunch_turn (s : State) (k : Nat) (x : Launch) : (s.setLaunch k x).turn = s.turn := rfl
@[simp] theorem State.setLaunch_nextId (s : State) (k : Nat) (x : Launch) : (s.setLaunch k x).nextId = s.nextId := rfl
@[simp] theorem State.setLaunch_agenda (s : State) (k : Nat) (x : Launch) : (s.setLaunch k x).agenda = s.agenda := rfl

@[simp] theorem State.setOut_power (s : State) (k : Nat) (x : Out) : (s.setOut k x).power = s.power := rfl
@[simp] theorem State.setOut_firmware (s : State) (k : Nat) (x : Out) : (s.setOut k x).firmware = s.firmware := rfl
@[simp] theorem State.setOut_measured (s : State) (k : Nat) (x : Out) : (s.setOut k x).measured = s.measured := rfl
@[simp] theorem State.setOut_devid (s : State) (k : Nat) (x : Out) : (s.setOut k x).devid = s.devid := rfl
@[simp] theorem State.setOut_mem (s : State) (k : Nat) (x : Out) : (s.setOut k x).mem = s.mem := rfl
@[simp] theorem State.setOut_poison (s : State) (k : Nat) (x : Out) : (s.setOut k x).poison = s.poison := rfl
@[simp] theorem State.setOut_full (s : State) (k : Nat) (x : Out) : (s.setOut k x).full = s.full := rfl
@[simp] theorem State.setOut_live (s : State) (k : Nat) (x : Out) : (s.setOut k x).live = s.live := rfl
@[simp] theorem State.setOut_badFrames (s : State) (k : Nat) (x : Out) : (s.setOut k x).badFrames = s.badFrames := rfl
@[simp] theorem State.setOut_ctxs (s : State) (k : Nat) (x : Out) : (s.setOut k x).ctxs = s.ctxs := rfl
@[simp] theorem State.setOut_ifs (s : State) (k : Nat) (x : Out) : (s.setOut k x).ifs = s.ifs := rfl
@[simp] theorem State.setOut_dies (s : State) (k : Nat) (x : Out) : (s.setOut k x).dies = s.dies := rfl
@[simp] theorem State.setOut_copses (s : State) (k : Nat) (x : Out) : (s.setOut k x).copses = s.copses := rfl
@[simp] theorem State.setOut_cores (s : State) (k : Nat) (x : Out) : (s.setOut k x).cores = s.cores := rfl
@[simp] theorem State.setOut_homes (s : State) (k : Nat) (x : Out) : (s.setOut k x).homes = s.homes := rfl
@[simp] theorem State.setOut_launches (s : State) (k : Nat) (x : Out) : (s.setOut k x).launches = s.launches := rfl
@[simp] theorem State.setOut_groves (s : State) (k : Nat) (x : Out) : (s.setOut k x).groves = s.groves := rfl
@[simp] theorem State.setOut_stands (s : State) (k : Nat) (x : Out) : (s.setOut k x).stands = s.stands := rfl
@[simp] theorem State.setOut_gens (s : State) (k : Nat) (x : Out) : (s.setOut k x).gens = s.gens := rfl
@[simp] theorem State.setOut_groups (s : State) (k : Nat) (x : Out) : (s.setOut k x).groups = s.groups := rfl
@[simp] theorem State.setOut_queues (s : State) (k : Nat) (x : Out) : (s.setOut k x).queues = s.queues := rfl
@[simp] theorem State.setOut_chains (s : State) (k : Nat) (x : Out) : (s.setOut k x).chains = s.chains := rfl
@[simp] theorem State.setOut_endpoints (s : State) (k : Nat) (x : Out) : (s.setOut k x).endpoints = s.endpoints := rfl
@[simp] theorem State.setOut_qdrop (s : State) (k : Nat) (x : Out) : (s.setOut k x).qdrop = s.qdrop := rfl
@[simp] theorem State.setOut_ahead (s : State) (k : Nat) (x : Out) : (s.setOut k x).ahead = s.ahead := rfl
@[simp] theorem State.setOut_pubs (s : State) (k : Nat) (x : Out) : (s.setOut k x).pubs = s.pubs := rfl
@[simp] theorem State.setOut_enqs (s : State) (k : Nat) (x : Out) : (s.setOut k x).enqs = s.enqs := rfl
@[simp] theorem State.setOut_fab (s : State) (k : Nat) (x : Out) : (s.setOut k x).fab = s.fab := rfl
@[simp] theorem State.setOut_sent (s : State) (k : Nat) (x : Out) : (s.setOut k x).sent = s.sent := rfl
@[simp] theorem State.setOut_cur (s : State) (k : Nat) (x : Out) : (s.setOut k x).cur = s.cur := rfl
@[simp] theorem State.setOut_turn (s : State) (k : Nat) (x : Out) : (s.setOut k x).turn = s.turn := rfl
@[simp] theorem State.setOut_nextId (s : State) (k : Nat) (x : Out) : (s.setOut k x).nextId = s.nextId := rfl
@[simp] theorem State.setOut_agenda (s : State) (k : Nat) (x : Out) : (s.setOut k x).agenda = s.agenda := rfl

@[simp] theorem State.dropOut_power (s : State) (k : Nat) : (s.dropOut k).power = s.power := rfl
@[simp] theorem State.dropOut_firmware (s : State) (k : Nat) : (s.dropOut k).firmware = s.firmware := rfl
@[simp] theorem State.dropOut_measured (s : State) (k : Nat) : (s.dropOut k).measured = s.measured := rfl
@[simp] theorem State.dropOut_devid (s : State) (k : Nat) : (s.dropOut k).devid = s.devid := rfl
@[simp] theorem State.dropOut_mem (s : State) (k : Nat) : (s.dropOut k).mem = s.mem := rfl
@[simp] theorem State.dropOut_poison (s : State) (k : Nat) : (s.dropOut k).poison = s.poison := rfl
@[simp] theorem State.dropOut_full (s : State) (k : Nat) : (s.dropOut k).full = s.full := rfl
@[simp] theorem State.dropOut_live (s : State) (k : Nat) : (s.dropOut k).live = s.live := rfl
@[simp] theorem State.dropOut_badFrames (s : State) (k : Nat) : (s.dropOut k).badFrames = s.badFrames := rfl
@[simp] theorem State.dropOut_ctxs (s : State) (k : Nat) : (s.dropOut k).ctxs = s.ctxs := rfl
@[simp] theorem State.dropOut_ifs (s : State) (k : Nat) : (s.dropOut k).ifs = s.ifs := rfl
@[simp] theorem State.dropOut_dies (s : State) (k : Nat) : (s.dropOut k).dies = s.dies := rfl
@[simp] theorem State.dropOut_copses (s : State) (k : Nat) : (s.dropOut k).copses = s.copses := rfl
@[simp] theorem State.dropOut_cores (s : State) (k : Nat) : (s.dropOut k).cores = s.cores := rfl
@[simp] theorem State.dropOut_homes (s : State) (k : Nat) : (s.dropOut k).homes = s.homes := rfl
@[simp] theorem State.dropOut_launches (s : State) (k : Nat) : (s.dropOut k).launches = s.launches := rfl
@[simp] theorem State.dropOut_groves (s : State) (k : Nat) : (s.dropOut k).groves = s.groves := rfl
@[simp] theorem State.dropOut_stands (s : State) (k : Nat) : (s.dropOut k).stands = s.stands := rfl
@[simp] theorem State.dropOut_gens (s : State) (k : Nat) : (s.dropOut k).gens = s.gens := rfl
@[simp] theorem State.dropOut_groups (s : State) (k : Nat) : (s.dropOut k).groups = s.groups := rfl
@[simp] theorem State.dropOut_queues (s : State) (k : Nat) : (s.dropOut k).queues = s.queues := rfl
@[simp] theorem State.dropOut_chains (s : State) (k : Nat) : (s.dropOut k).chains = s.chains := rfl
@[simp] theorem State.dropOut_endpoints (s : State) (k : Nat) : (s.dropOut k).endpoints = s.endpoints := rfl
@[simp] theorem State.dropOut_qdrop (s : State) (k : Nat) : (s.dropOut k).qdrop = s.qdrop := rfl
@[simp] theorem State.dropOut_ahead (s : State) (k : Nat) : (s.dropOut k).ahead = s.ahead := rfl
@[simp] theorem State.dropOut_pubs (s : State) (k : Nat) : (s.dropOut k).pubs = s.pubs := rfl
@[simp] theorem State.dropOut_enqs (s : State) (k : Nat) : (s.dropOut k).enqs = s.enqs := rfl
@[simp] theorem State.dropOut_fab (s : State) (k : Nat) : (s.dropOut k).fab = s.fab := rfl
@[simp] theorem State.dropOut_sent (s : State) (k : Nat) : (s.dropOut k).sent = s.sent := rfl
@[simp] theorem State.dropOut_cur (s : State) (k : Nat) : (s.dropOut k).cur = s.cur := rfl
@[simp] theorem State.dropOut_turn (s : State) (k : Nat) : (s.dropOut k).turn = s.turn := rfl
@[simp] theorem State.dropOut_nextId (s : State) (k : Nat) : (s.dropOut k).nextId = s.nextId := rfl
@[simp] theorem State.dropOut_agenda (s : State) (k : Nat) : (s.dropOut k).agenda = s.agenda := rfl

@[simp] theorem State.tell_power (s : State) (m : Msg) : (s.tell m).power = s.power := rfl
@[simp] theorem State.tell_firmware (s : State) (m : Msg) : (s.tell m).firmware = s.firmware := rfl
@[simp] theorem State.tell_measured (s : State) (m : Msg) : (s.tell m).measured = s.measured := rfl
@[simp] theorem State.tell_devid (s : State) (m : Msg) : (s.tell m).devid = s.devid := rfl
@[simp] theorem State.tell_mem (s : State) (m : Msg) : (s.tell m).mem = s.mem := rfl
@[simp] theorem State.tell_poison (s : State) (m : Msg) : (s.tell m).poison = s.poison := rfl
@[simp] theorem State.tell_full (s : State) (m : Msg) : (s.tell m).full = s.full := rfl
@[simp] theorem State.tell_live (s : State) (m : Msg) : (s.tell m).live = s.live := rfl
@[simp] theorem State.tell_badFrames (s : State) (m : Msg) : (s.tell m).badFrames = s.badFrames := rfl
@[simp] theorem State.tell_ctxs (s : State) (m : Msg) : (s.tell m).ctxs = s.ctxs := rfl
@[simp] theorem State.tell_ifs (s : State) (m : Msg) : (s.tell m).ifs = s.ifs := rfl
@[simp] theorem State.tell_dies (s : State) (m : Msg) : (s.tell m).dies = s.dies := rfl
@[simp] theorem State.tell_copses (s : State) (m : Msg) : (s.tell m).copses = s.copses := rfl
@[simp] theorem State.tell_cores (s : State) (m : Msg) : (s.tell m).cores = s.cores := rfl
@[simp] theorem State.tell_homes (s : State) (m : Msg) : (s.tell m).homes = s.homes := rfl
@[simp] theorem State.tell_launches (s : State) (m : Msg) : (s.tell m).launches = s.launches := rfl
@[simp] theorem State.tell_groves (s : State) (m : Msg) : (s.tell m).groves = s.groves := rfl
@[simp] theorem State.tell_stands (s : State) (m : Msg) : (s.tell m).stands = s.stands := rfl
@[simp] theorem State.tell_gens (s : State) (m : Msg) : (s.tell m).gens = s.gens := rfl
@[simp] theorem State.tell_groups (s : State) (m : Msg) : (s.tell m).groups = s.groups := rfl
@[simp] theorem State.tell_queues (s : State) (m : Msg) : (s.tell m).queues = s.queues := rfl
@[simp] theorem State.tell_chains (s : State) (m : Msg) : (s.tell m).chains = s.chains := rfl
@[simp] theorem State.tell_endpoints (s : State) (m : Msg) : (s.tell m).endpoints = s.endpoints := rfl
@[simp] theorem State.tell_qdrop (s : State) (m : Msg) : (s.tell m).qdrop = s.qdrop := rfl
@[simp] theorem State.tell_outs (s : State) (m : Msg) : (s.tell m).outs = s.outs := rfl
@[simp] theorem State.tell_ahead (s : State) (m : Msg) : (s.tell m).ahead = s.ahead := rfl
@[simp] theorem State.tell_pubs (s : State) (m : Msg) : (s.tell m).pubs = s.pubs := rfl
@[simp] theorem State.tell_enqs (s : State) (m : Msg) : (s.tell m).enqs = s.enqs := rfl
@[simp] theorem State.tell_fab (s : State) (m : Msg) : (s.tell m).fab = s.fab := rfl
@[simp] theorem State.tell_cur (s : State) (m : Msg) : (s.tell m).cur = s.cur := rfl
@[simp] theorem State.tell_turn (s : State) (m : Msg) : (s.tell m).turn = s.turn := rfl
@[simp] theorem State.tell_nextId (s : State) (m : Msg) : (s.tell m).nextId = s.nextId := rfl
@[simp] theorem State.tell_agenda (s : State) (m : Msg) : (s.tell m).agenda = s.agenda := rfl

@[simp] theorem State.bump_power (s : State) : (s.bump).power = s.power := rfl
@[simp] theorem State.bump_firmware (s : State) : (s.bump).firmware = s.firmware := rfl
@[simp] theorem State.bump_measured (s : State) : (s.bump).measured = s.measured := rfl
@[simp] theorem State.bump_devid (s : State) : (s.bump).devid = s.devid := rfl
@[simp] theorem State.bump_mem (s : State) : (s.bump).mem = s.mem := rfl
@[simp] theorem State.bump_poison (s : State) : (s.bump).poison = s.poison := rfl
@[simp] theorem State.bump_full (s : State) : (s.bump).full = s.full := rfl
@[simp] theorem State.bump_live (s : State) : (s.bump).live = s.live := rfl
@[simp] theorem State.bump_badFrames (s : State) : (s.bump).badFrames = s.badFrames := rfl
@[simp] theorem State.bump_ctxs (s : State) : (s.bump).ctxs = s.ctxs := rfl
@[simp] theorem State.bump_ifs (s : State) : (s.bump).ifs = s.ifs := rfl
@[simp] theorem State.bump_dies (s : State) : (s.bump).dies = s.dies := rfl
@[simp] theorem State.bump_copses (s : State) : (s.bump).copses = s.copses := rfl
@[simp] theorem State.bump_cores (s : State) : (s.bump).cores = s.cores := rfl
@[simp] theorem State.bump_homes (s : State) : (s.bump).homes = s.homes := rfl
@[simp] theorem State.bump_launches (s : State) : (s.bump).launches = s.launches := rfl
@[simp] theorem State.bump_groves (s : State) : (s.bump).groves = s.groves := rfl
@[simp] theorem State.bump_stands (s : State) : (s.bump).stands = s.stands := rfl
@[simp] theorem State.bump_gens (s : State) : (s.bump).gens = s.gens := rfl
@[simp] theorem State.bump_groups (s : State) : (s.bump).groups = s.groups := rfl
@[simp] theorem State.bump_queues (s : State) : (s.bump).queues = s.queues := rfl
@[simp] theorem State.bump_chains (s : State) : (s.bump).chains = s.chains := rfl
@[simp] theorem State.bump_endpoints (s : State) : (s.bump).endpoints = s.endpoints := rfl
@[simp] theorem State.bump_qdrop (s : State) : (s.bump).qdrop = s.qdrop := rfl
@[simp] theorem State.bump_outs (s : State) : (s.bump).outs = s.outs := rfl
@[simp] theorem State.bump_ahead (s : State) : (s.bump).ahead = s.ahead := rfl
@[simp] theorem State.bump_pubs (s : State) : (s.bump).pubs = s.pubs := rfl
@[simp] theorem State.bump_enqs (s : State) : (s.bump).enqs = s.enqs := rfl
@[simp] theorem State.bump_fab (s : State) : (s.bump).fab = s.fab := rfl
@[simp] theorem State.bump_sent (s : State) : (s.bump).sent = s.sent := rfl
@[simp] theorem State.bump_cur (s : State) : (s.bump).cur = s.cur := rfl
@[simp] theorem State.bump_turn (s : State) : (s.bump).turn = s.turn := rfl
@[simp] theorem State.bump_agenda (s : State) : (s.bump).agenda = s.agenda := rfl

@[simp] theorem State.putHome_power (s : State) (a : Nat) (b : Byte) : (s.putHome a b).power = s.power := rfl
@[simp] theorem State.putHome_firmware (s : State) (a : Nat) (b : Byte) : (s.putHome a b).firmware = s.firmware := rfl
@[simp] theorem State.putHome_measured (s : State) (a : Nat) (b : Byte) : (s.putHome a b).measured = s.measured := rfl
@[simp] theorem State.putHome_devid (s : State) (a : Nat) (b : Byte) : (s.putHome a b).devid = s.devid := rfl
@[simp] theorem State.putHome_poison (s : State) (a : Nat) (b : Byte) : (s.putHome a b).poison = s.poison := rfl
@[simp] theorem State.putHome_full (s : State) (a : Nat) (b : Byte) : (s.putHome a b).full = s.full := rfl
@[simp] theorem State.putHome_live (s : State) (a : Nat) (b : Byte) : (s.putHome a b).live = s.live := rfl
@[simp] theorem State.putHome_badFrames (s : State) (a : Nat) (b : Byte) : (s.putHome a b).badFrames = s.badFrames := rfl
@[simp] theorem State.putHome_ctxs (s : State) (a : Nat) (b : Byte) : (s.putHome a b).ctxs = s.ctxs := rfl
@[simp] theorem State.putHome_ifs (s : State) (a : Nat) (b : Byte) : (s.putHome a b).ifs = s.ifs := rfl
@[simp] theorem State.putHome_dies (s : State) (a : Nat) (b : Byte) : (s.putHome a b).dies = s.dies := rfl
@[simp] theorem State.putHome_copses (s : State) (a : Nat) (b : Byte) : (s.putHome a b).copses = s.copses := rfl
@[simp] theorem State.putHome_cores (s : State) (a : Nat) (b : Byte) : (s.putHome a b).cores = s.cores := rfl
@[simp] theorem State.putHome_homes (s : State) (a : Nat) (b : Byte) : (s.putHome a b).homes = s.homes := rfl
@[simp] theorem State.putHome_launches (s : State) (a : Nat) (b : Byte) : (s.putHome a b).launches = s.launches := rfl
@[simp] theorem State.putHome_groves (s : State) (a : Nat) (b : Byte) : (s.putHome a b).groves = s.groves := rfl
@[simp] theorem State.putHome_stands (s : State) (a : Nat) (b : Byte) : (s.putHome a b).stands = s.stands := rfl
@[simp] theorem State.putHome_gens (s : State) (a : Nat) (b : Byte) : (s.putHome a b).gens = s.gens := rfl
@[simp] theorem State.putHome_groups (s : State) (a : Nat) (b : Byte) : (s.putHome a b).groups = s.groups := rfl
@[simp] theorem State.putHome_queues (s : State) (a : Nat) (b : Byte) : (s.putHome a b).queues = s.queues := rfl
@[simp] theorem State.putHome_chains (s : State) (a : Nat) (b : Byte) : (s.putHome a b).chains = s.chains := rfl
@[simp] theorem State.putHome_endpoints (s : State) (a : Nat) (b : Byte) : (s.putHome a b).endpoints = s.endpoints := rfl
@[simp] theorem State.putHome_qdrop (s : State) (a : Nat) (b : Byte) : (s.putHome a b).qdrop = s.qdrop := rfl
@[simp] theorem State.putHome_outs (s : State) (a : Nat) (b : Byte) : (s.putHome a b).outs = s.outs := rfl
@[simp] theorem State.putHome_ahead (s : State) (a : Nat) (b : Byte) : (s.putHome a b).ahead = s.ahead := rfl
@[simp] theorem State.putHome_pubs (s : State) (a : Nat) (b : Byte) : (s.putHome a b).pubs = s.pubs := rfl
@[simp] theorem State.putHome_enqs (s : State) (a : Nat) (b : Byte) : (s.putHome a b).enqs = s.enqs := rfl
@[simp] theorem State.putHome_fab (s : State) (a : Nat) (b : Byte) : (s.putHome a b).fab = s.fab := rfl
@[simp] theorem State.putHome_sent (s : State) (a : Nat) (b : Byte) : (s.putHome a b).sent = s.sent := rfl
@[simp] theorem State.putHome_cur (s : State) (a : Nat) (b : Byte) : (s.putHome a b).cur = s.cur := rfl
@[simp] theorem State.putHome_turn (s : State) (a : Nat) (b : Byte) : (s.putHome a b).turn = s.turn := rfl
@[simp] theorem State.putHome_nextId (s : State) (a : Nat) (b : Byte) : (s.putHome a b).nextId = s.nextId := rfl
@[simp] theorem State.putHome_agenda (s : State) (a : Nat) (b : Byte) : (s.putHome a b).agenda = s.agenda := rfl

@[simp] theorem State.setPoison_power (s : State) (p : Nat) (b : Bool) : (s.setPoison p b).power = s.power := rfl
@[simp] theorem State.setPoison_firmware (s : State) (p : Nat) (b : Bool) : (s.setPoison p b).firmware = s.firmware := rfl
@[simp] theorem State.setPoison_measured (s : State) (p : Nat) (b : Bool) : (s.setPoison p b).measured = s.measured := rfl
@[simp] theorem State.setPoison_devid (s : State) (p : Nat) (b : Bool) : (s.setPoison p b).devid = s.devid := rfl
@[simp] theorem State.setPoison_mem (s : State) (p : Nat) (b : Bool) : (s.setPoison p b).mem = s.mem := rfl
@[simp] theorem State.setPoison_full (s : State) (p : Nat) (b : Bool) : (s.setPoison p b).full = s.full := rfl
@[simp] theorem State.setPoison_live (s : State) (p : Nat) (b : Bool) : (s.setPoison p b).live = s.live := rfl
@[simp] theorem State.setPoison_badFrames (s : State) (p : Nat) (b : Bool) : (s.setPoison p b).badFrames = s.badFrames := rfl
@[simp] theorem State.setPoison_ctxs (s : State) (p : Nat) (b : Bool) : (s.setPoison p b).ctxs = s.ctxs := rfl
@[simp] theorem State.setPoison_ifs (s : State) (p : Nat) (b : Bool) : (s.setPoison p b).ifs = s.ifs := rfl
@[simp] theorem State.setPoison_dies (s : State) (p : Nat) (b : Bool) : (s.setPoison p b).dies = s.dies := rfl
@[simp] theorem State.setPoison_copses (s : State) (p : Nat) (b : Bool) : (s.setPoison p b).copses = s.copses := rfl
@[simp] theorem State.setPoison_cores (s : State) (p : Nat) (b : Bool) : (s.setPoison p b).cores = s.cores := rfl
@[simp] theorem State.setPoison_homes (s : State) (p : Nat) (b : Bool) : (s.setPoison p b).homes = s.homes := rfl
@[simp] theorem State.setPoison_launches (s : State) (p : Nat) (b : Bool) : (s.setPoison p b).launches = s.launches := rfl
@[simp] theorem State.setPoison_groves (s : State) (p : Nat) (b : Bool) : (s.setPoison p b).groves = s.groves := rfl
@[simp] theorem State.setPoison_stands (s : State) (p : Nat) (b : Bool) : (s.setPoison p b).stands = s.stands := rfl
@[simp] theorem State.setPoison_gens (s : State) (p : Nat) (b : Bool) : (s.setPoison p b).gens = s.gens := rfl
@[simp] theorem State.setPoison_groups (s : State) (p : Nat) (b : Bool) : (s.setPoison p b).groups = s.groups := rfl
@[simp] theorem State.setPoison_queues (s : State) (p : Nat) (b : Bool) : (s.setPoison p b).queues = s.queues := rfl
@[simp] theorem State.setPoison_chains (s : State) (p : Nat) (b : Bool) : (s.setPoison p b).chains = s.chains := rfl
@[simp] theorem State.setPoison_endpoints (s : State) (p : Nat) (b : Bool) : (s.setPoison p b).endpoints = s.endpoints := rfl
@[simp] theorem State.setPoison_qdrop (s : State) (p : Nat) (b : Bool) : (s.setPoison p b).qdrop = s.qdrop := rfl
@[simp] theorem State.setPoison_outs (s : State) (p : Nat) (b : Bool) : (s.setPoison p b).outs = s.outs := rfl
@[simp] theorem State.setPoison_ahead (s : State) (p : Nat) (b : Bool) : (s.setPoison p b).ahead = s.ahead := rfl
@[simp] theorem State.setPoison_pubs (s : State) (p : Nat) (b : Bool) : (s.setPoison p b).pubs = s.pubs := rfl
@[simp] theorem State.setPoison_enqs (s : State) (p : Nat) (b : Bool) : (s.setPoison p b).enqs = s.enqs := rfl
@[simp] theorem State.setPoison_fab (s : State) (p : Nat) (b : Bool) : (s.setPoison p b).fab = s.fab := rfl
@[simp] theorem State.setPoison_sent (s : State) (p : Nat) (b : Bool) : (s.setPoison p b).sent = s.sent := rfl
@[simp] theorem State.setPoison_cur (s : State) (p : Nat) (b : Bool) : (s.setPoison p b).cur = s.cur := rfl
@[simp] theorem State.setPoison_turn (s : State) (p : Nat) (b : Bool) : (s.setPoison p b).turn = s.turn := rfl
@[simp] theorem State.setPoison_nextId (s : State) (p : Nat) (b : Bool) : (s.setPoison p b).nextId = s.nextId := rfl
@[simp] theorem State.setPoison_agenda (s : State) (p : Nat) (b : Bool) : (s.setPoison p b).agenda = s.agenda := rfl

@[simp] theorem State.setGroup_power (s : State) (k : Nat) (x : Group) : (s.setGroup k x).power = s.power := rfl
@[simp] theorem State.setGroup_firmware (s : State) (k : Nat) (x : Group) : (s.setGroup k x).firmware = s.firmware := rfl
@[simp] theorem State.setGroup_measured (s : State) (k : Nat) (x : Group) : (s.setGroup k x).measured = s.measured := rfl
@[simp] theorem State.setGroup_devid (s : State) (k : Nat) (x : Group) : (s.setGroup k x).devid = s.devid := rfl
@[simp] theorem State.setGroup_mem (s : State) (k : Nat) (x : Group) : (s.setGroup k x).mem = s.mem := rfl
@[simp] theorem State.setGroup_poison (s : State) (k : Nat) (x : Group) : (s.setGroup k x).poison = s.poison := rfl
@[simp] theorem State.setGroup_full (s : State) (k : Nat) (x : Group) : (s.setGroup k x).full = s.full := rfl
@[simp] theorem State.setGroup_live (s : State) (k : Nat) (x : Group) : (s.setGroup k x).live = s.live := rfl
@[simp] theorem State.setGroup_badFrames (s : State) (k : Nat) (x : Group) : (s.setGroup k x).badFrames = s.badFrames := rfl
@[simp] theorem State.setGroup_ctxs (s : State) (k : Nat) (x : Group) : (s.setGroup k x).ctxs = s.ctxs := rfl
@[simp] theorem State.setGroup_ifs (s : State) (k : Nat) (x : Group) : (s.setGroup k x).ifs = s.ifs := rfl
@[simp] theorem State.setGroup_dies (s : State) (k : Nat) (x : Group) : (s.setGroup k x).dies = s.dies := rfl
@[simp] theorem State.setGroup_copses (s : State) (k : Nat) (x : Group) : (s.setGroup k x).copses = s.copses := rfl
@[simp] theorem State.setGroup_cores (s : State) (k : Nat) (x : Group) : (s.setGroup k x).cores = s.cores := rfl
@[simp] theorem State.setGroup_homes (s : State) (k : Nat) (x : Group) : (s.setGroup k x).homes = s.homes := rfl
@[simp] theorem State.setGroup_launches (s : State) (k : Nat) (x : Group) : (s.setGroup k x).launches = s.launches := rfl
@[simp] theorem State.setGroup_groves (s : State) (k : Nat) (x : Group) : (s.setGroup k x).groves = s.groves := rfl
@[simp] theorem State.setGroup_stands (s : State) (k : Nat) (x : Group) : (s.setGroup k x).stands = s.stands := rfl
@[simp] theorem State.setGroup_gens (s : State) (k : Nat) (x : Group) : (s.setGroup k x).gens = s.gens := rfl
@[simp] theorem State.setGroup_queues (s : State) (k : Nat) (x : Group) : (s.setGroup k x).queues = s.queues := rfl
@[simp] theorem State.setGroup_chains (s : State) (k : Nat) (x : Group) : (s.setGroup k x).chains = s.chains := rfl
@[simp] theorem State.setGroup_endpoints (s : State) (k : Nat) (x : Group) : (s.setGroup k x).endpoints = s.endpoints := rfl
@[simp] theorem State.setGroup_qdrop (s : State) (k : Nat) (x : Group) : (s.setGroup k x).qdrop = s.qdrop := rfl
@[simp] theorem State.setGroup_outs (s : State) (k : Nat) (x : Group) : (s.setGroup k x).outs = s.outs := rfl
@[simp] theorem State.setGroup_ahead (s : State) (k : Nat) (x : Group) : (s.setGroup k x).ahead = s.ahead := rfl
@[simp] theorem State.setGroup_pubs (s : State) (k : Nat) (x : Group) : (s.setGroup k x).pubs = s.pubs := rfl
@[simp] theorem State.setGroup_enqs (s : State) (k : Nat) (x : Group) : (s.setGroup k x).enqs = s.enqs := rfl
@[simp] theorem State.setGroup_fab (s : State) (k : Nat) (x : Group) : (s.setGroup k x).fab = s.fab := rfl
@[simp] theorem State.setGroup_sent (s : State) (k : Nat) (x : Group) : (s.setGroup k x).sent = s.sent := rfl
@[simp] theorem State.setGroup_cur (s : State) (k : Nat) (x : Group) : (s.setGroup k x).cur = s.cur := rfl
@[simp] theorem State.setGroup_turn (s : State) (k : Nat) (x : Group) : (s.setGroup k x).turn = s.turn := rfl
@[simp] theorem State.setGroup_nextId (s : State) (k : Nat) (x : Group) : (s.setGroup k x).nextId = s.nextId := rfl
@[simp] theorem State.setGroup_agenda (s : State) (k : Nat) (x : Group) : (s.setGroup k x).agenda = s.agenda := rfl

@[simp] theorem State.stand_setStand (s : State) (k : Nat) (x : Stand) (j : Nat) : (s.setStand k x).stand j = if j = k then x else s.stand j := by
  simp [State.stand, State.setStand]
@[simp] theorem State.copse_setCopse (s : State) (k : Nat) (x : Copse) (j : Nat) : (s.setCopse k x).copse j = if j = k then x else s.copse j := by
  simp [State.copse, State.setCopse]
@[simp] theorem State.die_setDie (s : State) (k : Nat) (x : Die) (j : Nat) : (s.setDie k x).die j = if j = k then x else s.die j := by
  simp [State.die, State.setDie]
@[simp] theorem State.ctx_setCtx (s : State) (k : Nat) (x : Ctx) (j : Nat) : (s.setCtx k x).ctx j = if j = k then x else s.ctx j := by
  simp [State.ctx, State.setCtx]
@[simp] theorem State.home_setHome (s : State) (k : Nat) (x : Home) (j : Nat) : (s.setHome k x).home j = if j = k then x else s.home j := by
  simp [State.home, State.setHome]
@[simp] theorem State.iface_setIface (s : State) (k : Nat) (x : TenantIf) (j : Nat) : (s.setIface k x).iface j = if j = k then x else s.iface j := by
  simp [State.iface, State.setIface]
@[simp] theorem State.grove_setGrove (s : State) (k : Nat) (x : Grove) (j : Nat) : (s.setGrove k x).grove j = if j = k then x else s.grove j := by
  simp [State.grove, State.setGrove]
@[simp] theorem State.launch_setLaunch (s : State) (k : Nat) (x : Launch) (j : Nat) : (s.setLaunch k x).launch j = if j = k then x else s.launch j := by
  simp [State.launch, State.setLaunch]
@[simp] theorem State.core_setCore (s : State) (k : Nat) (x : Core) (j : Nat) : (s.setCore k x).core j = if j = k then x else s.core j := by
  by_cases h : j = k <;> simp [State.core, State.setCore, h]
@[simp] theorem State.homeByte_putHome (s : State) (a : Nat) (b : Byte) (c : Nat) : (s.putHome a b).homeByte c = if c = a then b else s.homeByte c := by
  simp [State.homeByte, State.putHome]
@[simp] theorem Stand.path_setPath (st : Stand) (i : Nat) (p : Path) (j : Nat) : (st.setPath i p).path j = if j = i then p else st.path j := by
  simp [Stand.path, Stand.setPath]
@[simp] theorem State.stand_setCore (s : State) (k : Nat) (x : Core) (j : Nat) : (s.setCore k x).stand j = s.stand j := rfl
@[simp] theorem State.stand_setCopse (s : State) (k : Nat) (x : Copse) (j : Nat) : (s.setCopse k x).stand j = s.stand j := rfl
@[simp] theorem State.stand_setDie (s : State) (k : Nat) (x : Die) (j : Nat) : (s.setDie k x).stand j = s.stand j := rfl
@[simp] theorem State.stand_setCtx (s : State) (k : Nat) (x : Ctx) (j : Nat) : (s.setCtx k x).stand j = s.stand j := rfl
@[simp] theorem State.stand_setHome (s : State) (k : Nat) (x : Home) (j : Nat) : (s.setHome k x).stand j = s.stand j := rfl
@[simp] theorem State.stand_setIface (s : State) (k : Nat) (x : TenantIf) (j : Nat) : (s.setIface k x).stand j = s.stand j := rfl
@[simp] theorem State.stand_setGrove (s : State) (k : Nat) (x : Grove) (j : Nat) : (s.setGrove k x).stand j = s.stand j := rfl
@[simp] theorem State.stand_setLaunch (s : State) (k : Nat) (x : Launch) (j : Nat) : (s.setLaunch k x).stand j = s.stand j := rfl
@[simp] theorem State.stand_setOut (s : State) (k : Nat) (x : Out) (j : Nat) : (s.setOut k x).stand j = s.stand j := rfl
@[simp] theorem State.stand_dropOut (s : State) (k : Nat) (j : Nat) : (s.dropOut k).stand j = s.stand j := rfl
@[simp] theorem State.stand_tell (s : State) (m : Msg) (j : Nat) : (s.tell m).stand j = s.stand j := rfl
@[simp] theorem State.stand_bump (s : State) (j : Nat) : (s.bump ).stand j = s.stand j := rfl
@[simp] theorem State.stand_putHome (s : State) (a : Nat) (b : Byte) (j : Nat) : (s.putHome a b).stand j = s.stand j := rfl
@[simp] theorem State.stand_setPoison (s : State) (p : Nat) (b : Bool) (j : Nat) : (s.setPoison p b).stand j = s.stand j := rfl
@[simp] theorem State.stand_setGroup (s : State) (k : Nat) (x : Group) (j : Nat) : (s.setGroup k x).stand j = s.stand j := rfl
@[simp] theorem State.copse_setStand (s : State) (k : Nat) (x : Stand) (j : Nat) : (s.setStand k x).copse j = s.copse j := rfl
@[simp] theorem State.copse_modStand_listed (s : State) (k : Nat) (f : Stand → Stand) (j : Nat) : (s.modStand? k f).copse j = s.copse j := rfl
@[simp] theorem State.copse_setCore (s : State) (k : Nat) (x : Core) (j : Nat) : (s.setCore k x).copse j = s.copse j := rfl
@[simp] theorem State.copse_setDie (s : State) (k : Nat) (x : Die) (j : Nat) : (s.setDie k x).copse j = s.copse j := rfl
@[simp] theorem State.copse_setCtx (s : State) (k : Nat) (x : Ctx) (j : Nat) : (s.setCtx k x).copse j = s.copse j := rfl
@[simp] theorem State.copse_setHome (s : State) (k : Nat) (x : Home) (j : Nat) : (s.setHome k x).copse j = s.copse j := rfl
@[simp] theorem State.copse_setIface (s : State) (k : Nat) (x : TenantIf) (j : Nat) : (s.setIface k x).copse j = s.copse j := rfl
@[simp] theorem State.copse_setGrove (s : State) (k : Nat) (x : Grove) (j : Nat) : (s.setGrove k x).copse j = s.copse j := rfl
@[simp] theorem State.copse_setLaunch (s : State) (k : Nat) (x : Launch) (j : Nat) : (s.setLaunch k x).copse j = s.copse j := rfl
@[simp] theorem State.copse_setOut (s : State) (k : Nat) (x : Out) (j : Nat) : (s.setOut k x).copse j = s.copse j := rfl
@[simp] theorem State.copse_dropOut (s : State) (k : Nat) (j : Nat) : (s.dropOut k).copse j = s.copse j := rfl
@[simp] theorem State.copse_tell (s : State) (m : Msg) (j : Nat) : (s.tell m).copse j = s.copse j := rfl
@[simp] theorem State.copse_bump (s : State) (j : Nat) : (s.bump ).copse j = s.copse j := rfl
@[simp] theorem State.copse_putHome (s : State) (a : Nat) (b : Byte) (j : Nat) : (s.putHome a b).copse j = s.copse j := rfl
@[simp] theorem State.copse_setPoison (s : State) (p : Nat) (b : Bool) (j : Nat) : (s.setPoison p b).copse j = s.copse j := rfl
@[simp] theorem State.copse_setGroup (s : State) (k : Nat) (x : Group) (j : Nat) : (s.setGroup k x).copse j = s.copse j := rfl
@[simp] theorem State.die_setStand (s : State) (k : Nat) (x : Stand) (j : Nat) : (s.setStand k x).die j = s.die j := rfl
@[simp] theorem State.die_modStand_listed (s : State) (k : Nat) (f : Stand → Stand) (j : Nat) : (s.modStand? k f).die j = s.die j := rfl
@[simp] theorem State.die_setCore (s : State) (k : Nat) (x : Core) (j : Nat) : (s.setCore k x).die j = s.die j := rfl
@[simp] theorem State.die_setCopse (s : State) (k : Nat) (x : Copse) (j : Nat) : (s.setCopse k x).die j = s.die j := rfl
@[simp] theorem State.die_setCtx (s : State) (k : Nat) (x : Ctx) (j : Nat) : (s.setCtx k x).die j = s.die j := rfl
@[simp] theorem State.die_setHome (s : State) (k : Nat) (x : Home) (j : Nat) : (s.setHome k x).die j = s.die j := rfl
@[simp] theorem State.die_setIface (s : State) (k : Nat) (x : TenantIf) (j : Nat) : (s.setIface k x).die j = s.die j := rfl
@[simp] theorem State.die_setGrove (s : State) (k : Nat) (x : Grove) (j : Nat) : (s.setGrove k x).die j = s.die j := rfl
@[simp] theorem State.die_setLaunch (s : State) (k : Nat) (x : Launch) (j : Nat) : (s.setLaunch k x).die j = s.die j := rfl
@[simp] theorem State.die_setOut (s : State) (k : Nat) (x : Out) (j : Nat) : (s.setOut k x).die j = s.die j := rfl
@[simp] theorem State.die_dropOut (s : State) (k : Nat) (j : Nat) : (s.dropOut k).die j = s.die j := rfl
@[simp] theorem State.die_tell (s : State) (m : Msg) (j : Nat) : (s.tell m).die j = s.die j := rfl
@[simp] theorem State.die_bump (s : State) (j : Nat) : (s.bump ).die j = s.die j := rfl
@[simp] theorem State.die_putHome (s : State) (a : Nat) (b : Byte) (j : Nat) : (s.putHome a b).die j = s.die j := rfl
@[simp] theorem State.die_setPoison (s : State) (p : Nat) (b : Bool) (j : Nat) : (s.setPoison p b).die j = s.die j := rfl
@[simp] theorem State.die_setGroup (s : State) (k : Nat) (x : Group) (j : Nat) : (s.setGroup k x).die j = s.die j := rfl
@[simp] theorem State.ctx_setStand (s : State) (k : Nat) (x : Stand) (j : Nat) : (s.setStand k x).ctx j = s.ctx j := rfl
@[simp] theorem State.ctx_modStand_listed (s : State) (k : Nat) (f : Stand → Stand) (j : Nat) : (s.modStand? k f).ctx j = s.ctx j := rfl
@[simp] theorem State.ctx_setCore (s : State) (k : Nat) (x : Core) (j : Nat) : (s.setCore k x).ctx j = s.ctx j := rfl
@[simp] theorem State.ctx_setCopse (s : State) (k : Nat) (x : Copse) (j : Nat) : (s.setCopse k x).ctx j = s.ctx j := rfl
@[simp] theorem State.ctx_setDie (s : State) (k : Nat) (x : Die) (j : Nat) : (s.setDie k x).ctx j = s.ctx j := rfl
@[simp] theorem State.ctx_setHome (s : State) (k : Nat) (x : Home) (j : Nat) : (s.setHome k x).ctx j = s.ctx j := rfl
@[simp] theorem State.ctx_setIface (s : State) (k : Nat) (x : TenantIf) (j : Nat) : (s.setIface k x).ctx j = s.ctx j := rfl
@[simp] theorem State.ctx_setGrove (s : State) (k : Nat) (x : Grove) (j : Nat) : (s.setGrove k x).ctx j = s.ctx j := rfl
@[simp] theorem State.ctx_setLaunch (s : State) (k : Nat) (x : Launch) (j : Nat) : (s.setLaunch k x).ctx j = s.ctx j := rfl
@[simp] theorem State.ctx_setOut (s : State) (k : Nat) (x : Out) (j : Nat) : (s.setOut k x).ctx j = s.ctx j := rfl
@[simp] theorem State.ctx_dropOut (s : State) (k : Nat) (j : Nat) : (s.dropOut k).ctx j = s.ctx j := rfl
@[simp] theorem State.ctx_tell (s : State) (m : Msg) (j : Nat) : (s.tell m).ctx j = s.ctx j := rfl
@[simp] theorem State.ctx_bump (s : State) (j : Nat) : (s.bump ).ctx j = s.ctx j := rfl
@[simp] theorem State.ctx_putHome (s : State) (a : Nat) (b : Byte) (j : Nat) : (s.putHome a b).ctx j = s.ctx j := rfl
@[simp] theorem State.ctx_setPoison (s : State) (p : Nat) (b : Bool) (j : Nat) : (s.setPoison p b).ctx j = s.ctx j := rfl
@[simp] theorem State.ctx_setGroup (s : State) (k : Nat) (x : Group) (j : Nat) : (s.setGroup k x).ctx j = s.ctx j := rfl
@[simp] theorem State.home_setStand (s : State) (k : Nat) (x : Stand) (j : Nat) : (s.setStand k x).home j = s.home j := rfl
@[simp] theorem State.home_modStand_listed (s : State) (k : Nat) (f : Stand → Stand) (j : Nat) : (s.modStand? k f).home j = s.home j := rfl
@[simp] theorem State.home_setCore (s : State) (k : Nat) (x : Core) (j : Nat) : (s.setCore k x).home j = s.home j := rfl
@[simp] theorem State.home_setCopse (s : State) (k : Nat) (x : Copse) (j : Nat) : (s.setCopse k x).home j = s.home j := rfl
@[simp] theorem State.home_setDie (s : State) (k : Nat) (x : Die) (j : Nat) : (s.setDie k x).home j = s.home j := rfl
@[simp] theorem State.home_setCtx (s : State) (k : Nat) (x : Ctx) (j : Nat) : (s.setCtx k x).home j = s.home j := rfl
@[simp] theorem State.home_setIface (s : State) (k : Nat) (x : TenantIf) (j : Nat) : (s.setIface k x).home j = s.home j := rfl
@[simp] theorem State.home_setGrove (s : State) (k : Nat) (x : Grove) (j : Nat) : (s.setGrove k x).home j = s.home j := rfl
@[simp] theorem State.home_setLaunch (s : State) (k : Nat) (x : Launch) (j : Nat) : (s.setLaunch k x).home j = s.home j := rfl
@[simp] theorem State.home_setOut (s : State) (k : Nat) (x : Out) (j : Nat) : (s.setOut k x).home j = s.home j := rfl
@[simp] theorem State.home_dropOut (s : State) (k : Nat) (j : Nat) : (s.dropOut k).home j = s.home j := rfl
@[simp] theorem State.home_tell (s : State) (m : Msg) (j : Nat) : (s.tell m).home j = s.home j := rfl
@[simp] theorem State.home_bump (s : State) (j : Nat) : (s.bump ).home j = s.home j := rfl
@[simp] theorem State.home_putHome (s : State) (a : Nat) (b : Byte) (j : Nat) : (s.putHome a b).home j = s.home j := rfl
@[simp] theorem State.home_setPoison (s : State) (p : Nat) (b : Bool) (j : Nat) : (s.setPoison p b).home j = s.home j := rfl
@[simp] theorem State.home_setGroup (s : State) (k : Nat) (x : Group) (j : Nat) : (s.setGroup k x).home j = s.home j := rfl
@[simp] theorem State.iface_setStand (s : State) (k : Nat) (x : Stand) (j : Nat) : (s.setStand k x).iface j = s.iface j := rfl
@[simp] theorem State.iface_modStand_listed (s : State) (k : Nat) (f : Stand → Stand) (j : Nat) : (s.modStand? k f).iface j = s.iface j := rfl
@[simp] theorem State.iface_setCore (s : State) (k : Nat) (x : Core) (j : Nat) : (s.setCore k x).iface j = s.iface j := rfl
@[simp] theorem State.iface_setCopse (s : State) (k : Nat) (x : Copse) (j : Nat) : (s.setCopse k x).iface j = s.iface j := rfl
@[simp] theorem State.iface_setDie (s : State) (k : Nat) (x : Die) (j : Nat) : (s.setDie k x).iface j = s.iface j := rfl
@[simp] theorem State.iface_setCtx (s : State) (k : Nat) (x : Ctx) (j : Nat) : (s.setCtx k x).iface j = s.iface j := rfl
@[simp] theorem State.iface_setHome (s : State) (k : Nat) (x : Home) (j : Nat) : (s.setHome k x).iface j = s.iface j := rfl
@[simp] theorem State.iface_setGrove (s : State) (k : Nat) (x : Grove) (j : Nat) : (s.setGrove k x).iface j = s.iface j := rfl
@[simp] theorem State.iface_setLaunch (s : State) (k : Nat) (x : Launch) (j : Nat) : (s.setLaunch k x).iface j = s.iface j := rfl
@[simp] theorem State.iface_setOut (s : State) (k : Nat) (x : Out) (j : Nat) : (s.setOut k x).iface j = s.iface j := rfl
@[simp] theorem State.iface_dropOut (s : State) (k : Nat) (j : Nat) : (s.dropOut k).iface j = s.iface j := rfl
@[simp] theorem State.iface_tell (s : State) (m : Msg) (j : Nat) : (s.tell m).iface j = s.iface j := rfl
@[simp] theorem State.iface_bump (s : State) (j : Nat) : (s.bump ).iface j = s.iface j := rfl
@[simp] theorem State.iface_putHome (s : State) (a : Nat) (b : Byte) (j : Nat) : (s.putHome a b).iface j = s.iface j := rfl
@[simp] theorem State.iface_setPoison (s : State) (p : Nat) (b : Bool) (j : Nat) : (s.setPoison p b).iface j = s.iface j := rfl
@[simp] theorem State.iface_setGroup (s : State) (k : Nat) (x : Group) (j : Nat) : (s.setGroup k x).iface j = s.iface j := rfl
@[simp] theorem State.grove_setStand (s : State) (k : Nat) (x : Stand) (j : Nat) : (s.setStand k x).grove j = s.grove j := rfl
@[simp] theorem State.grove_modStand_listed (s : State) (k : Nat) (f : Stand → Stand) (j : Nat) : (s.modStand? k f).grove j = s.grove j := rfl
@[simp] theorem State.grove_setCore (s : State) (k : Nat) (x : Core) (j : Nat) : (s.setCore k x).grove j = s.grove j := rfl
@[simp] theorem State.grove_setCopse (s : State) (k : Nat) (x : Copse) (j : Nat) : (s.setCopse k x).grove j = s.grove j := rfl
@[simp] theorem State.grove_setDie (s : State) (k : Nat) (x : Die) (j : Nat) : (s.setDie k x).grove j = s.grove j := rfl
@[simp] theorem State.grove_setCtx (s : State) (k : Nat) (x : Ctx) (j : Nat) : (s.setCtx k x).grove j = s.grove j := rfl
@[simp] theorem State.grove_setHome (s : State) (k : Nat) (x : Home) (j : Nat) : (s.setHome k x).grove j = s.grove j := rfl
@[simp] theorem State.grove_setIface (s : State) (k : Nat) (x : TenantIf) (j : Nat) : (s.setIface k x).grove j = s.grove j := rfl
@[simp] theorem State.grove_setLaunch (s : State) (k : Nat) (x : Launch) (j : Nat) : (s.setLaunch k x).grove j = s.grove j := rfl
@[simp] theorem State.grove_setOut (s : State) (k : Nat) (x : Out) (j : Nat) : (s.setOut k x).grove j = s.grove j := rfl
@[simp] theorem State.grove_dropOut (s : State) (k : Nat) (j : Nat) : (s.dropOut k).grove j = s.grove j := rfl
@[simp] theorem State.grove_tell (s : State) (m : Msg) (j : Nat) : (s.tell m).grove j = s.grove j := rfl
@[simp] theorem State.grove_bump (s : State) (j : Nat) : (s.bump ).grove j = s.grove j := rfl
@[simp] theorem State.grove_putHome (s : State) (a : Nat) (b : Byte) (j : Nat) : (s.putHome a b).grove j = s.grove j := rfl
@[simp] theorem State.grove_setPoison (s : State) (p : Nat) (b : Bool) (j : Nat) : (s.setPoison p b).grove j = s.grove j := rfl
@[simp] theorem State.grove_setGroup (s : State) (k : Nat) (x : Group) (j : Nat) : (s.setGroup k x).grove j = s.grove j := rfl
@[simp] theorem State.launch_setStand (s : State) (k : Nat) (x : Stand) (j : Nat) : (s.setStand k x).launch j = s.launch j := rfl
@[simp] theorem State.launch_modStand_listed (s : State) (k : Nat) (f : Stand → Stand) (j : Nat) : (s.modStand? k f).launch j = s.launch j := rfl
@[simp] theorem State.launch_setCore (s : State) (k : Nat) (x : Core) (j : Nat) : (s.setCore k x).launch j = s.launch j := rfl
@[simp] theorem State.launch_setCopse (s : State) (k : Nat) (x : Copse) (j : Nat) : (s.setCopse k x).launch j = s.launch j := rfl
@[simp] theorem State.launch_setDie (s : State) (k : Nat) (x : Die) (j : Nat) : (s.setDie k x).launch j = s.launch j := rfl
@[simp] theorem State.launch_setCtx (s : State) (k : Nat) (x : Ctx) (j : Nat) : (s.setCtx k x).launch j = s.launch j := rfl
@[simp] theorem State.launch_setHome (s : State) (k : Nat) (x : Home) (j : Nat) : (s.setHome k x).launch j = s.launch j := rfl
@[simp] theorem State.launch_setIface (s : State) (k : Nat) (x : TenantIf) (j : Nat) : (s.setIface k x).launch j = s.launch j := rfl
@[simp] theorem State.launch_setGrove (s : State) (k : Nat) (x : Grove) (j : Nat) : (s.setGrove k x).launch j = s.launch j := rfl
@[simp] theorem State.launch_setOut (s : State) (k : Nat) (x : Out) (j : Nat) : (s.setOut k x).launch j = s.launch j := rfl
@[simp] theorem State.launch_dropOut (s : State) (k : Nat) (j : Nat) : (s.dropOut k).launch j = s.launch j := rfl
@[simp] theorem State.launch_tell (s : State) (m : Msg) (j : Nat) : (s.tell m).launch j = s.launch j := rfl
@[simp] theorem State.launch_bump (s : State) (j : Nat) : (s.bump ).launch j = s.launch j := rfl
@[simp] theorem State.launch_putHome (s : State) (a : Nat) (b : Byte) (j : Nat) : (s.putHome a b).launch j = s.launch j := rfl
@[simp] theorem State.launch_setPoison (s : State) (p : Nat) (b : Bool) (j : Nat) : (s.setPoison p b).launch j = s.launch j := rfl
@[simp] theorem State.launch_setGroup (s : State) (k : Nat) (x : Group) (j : Nat) : (s.setGroup k x).launch j = s.launch j := rfl
@[simp] theorem State.core_setStand (s : State) (k : Nat) (x : Stand) (j : Nat) : (s.setStand k x).core j = s.core j := rfl
@[simp] theorem State.core_modStand_listed (s : State) (k : Nat) (f : Stand → Stand) (j : Nat) : (s.modStand? k f).core j = s.core j := rfl
@[simp] theorem State.core_setCopse (s : State) (k : Nat) (x : Copse) (j : Nat) : (s.setCopse k x).core j = s.core j := rfl
@[simp] theorem State.core_setDie (s : State) (k : Nat) (x : Die) (j : Nat) : (s.setDie k x).core j = s.core j := rfl
@[simp] theorem State.core_setCtx (s : State) (k : Nat) (x : Ctx) (j : Nat) : (s.setCtx k x).core j = s.core j := rfl
@[simp] theorem State.core_setHome (s : State) (k : Nat) (x : Home) (j : Nat) : (s.setHome k x).core j = s.core j := rfl
@[simp] theorem State.core_setIface (s : State) (k : Nat) (x : TenantIf) (j : Nat) : (s.setIface k x).core j = s.core j := rfl
@[simp] theorem State.core_setGrove (s : State) (k : Nat) (x : Grove) (j : Nat) : (s.setGrove k x).core j = s.core j := rfl
@[simp] theorem State.core_setLaunch (s : State) (k : Nat) (x : Launch) (j : Nat) : (s.setLaunch k x).core j = s.core j := rfl
@[simp] theorem State.core_setOut (s : State) (k : Nat) (x : Out) (j : Nat) : (s.setOut k x).core j = s.core j := rfl
@[simp] theorem State.core_dropOut (s : State) (k : Nat) (j : Nat) : (s.dropOut k).core j = s.core j := rfl
@[simp] theorem State.core_tell (s : State) (m : Msg) (j : Nat) : (s.tell m).core j = s.core j := rfl
@[simp] theorem State.core_bump (s : State) (j : Nat) : (s.bump ).core j = s.core j := rfl
@[simp] theorem State.core_putHome (s : State) (a : Nat) (b : Byte) (j : Nat) : (s.putHome a b).core j = s.core j := rfl
@[simp] theorem State.core_setPoison (s : State) (p : Nat) (b : Bool) (j : Nat) : (s.setPoison p b).core j = s.core j := rfl
@[simp] theorem State.core_setGroup (s : State) (k : Nat) (x : Group) (j : Nat) : (s.setGroup k x).core j = s.core j := rfl
@[simp] theorem State.homeByte_setStand (s : State) (k : Nat) (x : Stand) (a : Nat) : (s.setStand k x).homeByte a = s.homeByte a := rfl
@[simp] theorem State.coreByte_setStand (s : State) (k : Nat) (x : Stand) (c a : Nat) : (s.setStand k x).coreByte c a = s.coreByte c a := rfl
@[simp] theorem State.homeByte_modStand_listed (s : State) (k : Nat) (f : Stand → Stand) (a : Nat) : (s.modStand? k f).homeByte a = s.homeByte a := rfl
@[simp] theorem State.coreByte_modStand_listed (s : State) (k : Nat) (f : Stand → Stand) (c a : Nat) : (s.modStand? k f).coreByte c a = s.coreByte c a := rfl
@[simp] theorem State.homeByte_setCore (s : State) (k : Nat) (x : Core) (a : Nat) : (s.setCore k x).homeByte a = s.homeByte a := rfl
@[simp] theorem State.homeByte_setCopse (s : State) (k : Nat) (x : Copse) (a : Nat) : (s.setCopse k x).homeByte a = s.homeByte a := rfl
@[simp] theorem State.homeByte_setDie (s : State) (k : Nat) (x : Die) (a : Nat) : (s.setDie k x).homeByte a = s.homeByte a := rfl
@[simp] theorem State.coreByte_setDie (s : State) (k : Nat) (x : Die) (c a : Nat) : (s.setDie k x).coreByte c a = s.coreByte c a := rfl
@[simp] theorem State.homeByte_setCtx (s : State) (k : Nat) (x : Ctx) (a : Nat) : (s.setCtx k x).homeByte a = s.homeByte a := rfl
@[simp] theorem State.coreByte_setCtx (s : State) (k : Nat) (x : Ctx) (c a : Nat) : (s.setCtx k x).coreByte c a = s.coreByte c a := rfl
@[simp] theorem State.homeByte_setHome (s : State) (k : Nat) (x : Home) (a : Nat) : (s.setHome k x).homeByte a = s.homeByte a := rfl
@[simp] theorem State.coreByte_setHome (s : State) (k : Nat) (x : Home) (c a : Nat) : (s.setHome k x).coreByte c a = s.coreByte c a := rfl
@[simp] theorem State.homeByte_setIface (s : State) (k : Nat) (x : TenantIf) (a : Nat) : (s.setIface k x).homeByte a = s.homeByte a := rfl
@[simp] theorem State.coreByte_setIface (s : State) (k : Nat) (x : TenantIf) (c a : Nat) : (s.setIface k x).coreByte c a = s.coreByte c a := rfl
@[simp] theorem State.homeByte_setGrove (s : State) (k : Nat) (x : Grove) (a : Nat) : (s.setGrove k x).homeByte a = s.homeByte a := rfl
@[simp] theorem State.coreByte_setGrove (s : State) (k : Nat) (x : Grove) (c a : Nat) : (s.setGrove k x).coreByte c a = s.coreByte c a := rfl
@[simp] theorem State.homeByte_setLaunch (s : State) (k : Nat) (x : Launch) (a : Nat) : (s.setLaunch k x).homeByte a = s.homeByte a := rfl
@[simp] theorem State.coreByte_setLaunch (s : State) (k : Nat) (x : Launch) (c a : Nat) : (s.setLaunch k x).coreByte c a = s.coreByte c a := rfl
@[simp] theorem State.homeByte_setOut (s : State) (k : Nat) (x : Out) (a : Nat) : (s.setOut k x).homeByte a = s.homeByte a := rfl
@[simp] theorem State.coreByte_setOut (s : State) (k : Nat) (x : Out) (c a : Nat) : (s.setOut k x).coreByte c a = s.coreByte c a := rfl
@[simp] theorem State.homeByte_dropOut (s : State) (k : Nat) (a : Nat) : (s.dropOut k).homeByte a = s.homeByte a := rfl
@[simp] theorem State.coreByte_dropOut (s : State) (k : Nat) (c a : Nat) : (s.dropOut k).coreByte c a = s.coreByte c a := rfl
@[simp] theorem State.homeByte_tell (s : State) (m : Msg) (a : Nat) : (s.tell m).homeByte a = s.homeByte a := rfl
@[simp] theorem State.coreByte_tell (s : State) (m : Msg) (c a : Nat) : (s.tell m).coreByte c a = s.coreByte c a := rfl
@[simp] theorem State.homeByte_bump (s : State) (a : Nat) : (s.bump ).homeByte a = s.homeByte a := rfl
@[simp] theorem State.coreByte_bump (s : State) (c a : Nat) : (s.bump ).coreByte c a = s.coreByte c a := rfl
@[simp] theorem State.homeByte_setPoison (s : State) (p : Nat) (b : Bool) (a : Nat) : (s.setPoison p b).homeByte a = s.homeByte a := rfl
@[simp] theorem State.coreByte_setPoison (s : State) (p : Nat) (b : Bool) (c a : Nat) : (s.setPoison p b).coreByte c a = s.coreByte c a := rfl
@[simp] theorem State.homeByte_setGroup (s : State) (k : Nat) (x : Group) (a : Nat) : (s.setGroup k x).homeByte a = s.homeByte a := rfl
@[simp] theorem State.coreByte_setGroup (s : State) (k : Nat) (x : Group) (c a : Nat) : (s.setGroup k x).coreByte c a = s.coreByte c a := rfl

end Sys2Proof.Machine
end

