-- ==== Sys2Proof/Laws/Ahead.lean ====
section
/-! SUPPORT. What is issued ahead of a branch: taking it back, following it and claiming it leave memory alone. -/

namespace Sys2Proof.Machine

theorem State.modSlot_mem (s : State) (k c : Nat) (f : CtxSlot → CtxSlot) : (s.modSlot k c f).mem = s.mem := by
  simp only [State.modSlot, State.modCore]
  split <;> rfl

theorem State.unstallSpec_mem (s : State) (key idx : Nat) : (s.unstallSpec key idx).mem = s.mem := State.modSlot_mem s _ _ _

theorem State.returnDrawn_mem (s : State) (key c d : Nat) : (s.returnDrawn key c d).mem = s.mem := by
  simp only [State.returnDrawn]
  split
  · rfl
  · exact State.modSlot_mem s _ _ _

/-- A squashed operation leaves memory alone (R24). -/
theorem State.squashOp_mem (s : State) (op : Nat) (o : Out) : (s.squashOp op o).mem = s.mem := by
  simp only [State.squashOp, State.dropOut_mem, State.uncount, State.modOwner, State.growRefund, State.releaseFixed]
  repeat' split
  all_goals simp only [State.modStand_listed_mem, State.returnDrawn_mem, State.modSlot_mem]

theorem squashAll_mem (l : List (Nat × Out)) (s : State) : (l.foldl (fun u kv => u.squashOp kv.1 kv.2) s).mem = s.mem := by
  induction l generalizing s with
  | nil => rfl
  | cons x xs ih => exact (ih _).trans (s.squashOp_mem x.1 x.2)

/-- All that a path issued ahead is squashed without a change of memory (R24). -/
theorem State.squashPath_mem (s : State) (key idx : Nat) : (s.squashPath key idx).mem = s.mem := (State.unstallSpec_mem _ key idx).trans (squashAll_mem _ s)

/-- Claiming a load leaves memory alone. -/
theorem State.claim_mem (s : State) (c : Cand) (pc : BitVec 17) : (s.claim c pc).1.mem = s.mem := by
  simp only [State.claim]
  repeat' split
  all_goals first
    | rfl
    | simp only [State.modSlot_mem, State.squashOp_mem]

/-- What follows a step leaves memory alone (R24). -/
theorem State.settleAhead_mem (s : State) : s.settleAhead.mem = s.mem := by
  have h : ∀ (l : List (Nat × Ahead)) (f : State → Nat × Ahead → State), (∀ u x, (f u x).mem = u.mem) → ∀ u : State, (l.foldl f u).mem = u.mem := by
    intro l f hf
    induction l with
    | nil => exact fun _ => rfl
    | cons x xs ih => exact fun u => (ih _).trans (hf u x)
  refine h _ _ (fun u x => ?_) s
  dsimp only
  repeat' split
  all_goals first
    | rfl
    | simp only [State.unstallSpec_mem, State.modSlot_mem, State.squashOp_mem]

/-- A claimed load's answer has the memory of its own meaning. -/
theorem keepSeen_next {op key ctx : Nat} {seen : SMap Byte} {stalled : List Stall} {r : Out?} {t : State} (h : keepSeen op key ctx seen stalled r = .next t) : ∃ u, r = .next u ∧ t.mem = u.mem := by
  cases r with
  | next u =>
    refine ⟨u, rfl, ?_⟩
    simp only [keepSeen] at h
    cases h
    repeat' split
    all_goals simp only [State.setOut_mem, State.modSlot_mem]
  | _ => simp [keepSeen] at h

end Sys2Proof.Machine
end

