-- ==== Sys2Proof/Laws/Channel.lean ====
section
/-! SUPPORT. What a home's serving of a request can do: it moves the home's queue and nothing else, and an operation performs with the last of
its homes or is marked at those that have served it. -/

namespace Sys2Proof.Machine

/-- A home that serves a request changes the homes alone. -/
theorem State.serve_homes (s : State) (home op sub : Nat) : ∃ hs, s.serve home op sub = { s with homes := hs } := ⟨_, rfl⟩

/-- Some homes that serve an operation change the homes alone. -/
theorem State.serveAll_homes (s : State) (op : Nat) (l : List Nat) : ∃ hs, s.serveAll op l = { s with homes := hs } := by
  induction l generalizing s with
  | nil => exact ⟨s.homes, rfl⟩
  | cons h hs ih =>
    obtain ⟨x, hx⟩ := s.serve_homes h op 0
    obtain ⟨y, hy⟩ := ih (s.serve h op 0)
    exact ⟨y, by rw [show s.serveAll op (h :: hs) = (s.serve h op 0).serveAll op hs from rfl, hy, hx]⟩

@[simp] theorem State.serveAll_mem (s : State) (op : Nat) (l : List Nat) : (s.serveAll op l).mem = s.mem := by
  obtain ⟨x, hx⟩ := s.serveAll_homes op l; rw [hx]
@[simp] theorem State.serveAll_outs (s : State) (op : Nat) (l : List Nat) : (s.serveAll op l).outs = s.outs := by
  obtain ⟨x, hx⟩ := s.serveAll_homes op l; rw [hx]
@[simp] theorem State.serveAll_stands (s : State) (op : Nat) (l : List Nat) : (s.serveAll op l).stands = s.stands := by
  obtain ⟨x, hx⟩ := s.serveAll_homes op l; rw [hx]

/-- An operation goes through its homes in two ways: the last of them have served it and it performs, or it is marked at some and nothing else
changes. -/
theorem State.through_cases {s t : State} {op : Nat} {o : Out} {hold : Bool} {f : State → Option State} (h : s.through op o hold f = some t) :
    (s.turns op o = s.needs o ∧ hold = false ∧ f (s.serveAll op (s.needs o)) = some t) ∨
    (s.turns op o ≠ [] ∧ t = (s.serveAll op (s.turns op o)).setOut op { o with gone := o.gone ++ s.turns op o }) := by
  simp only [State.through] at h
  split at h
  · next hc => exact .inl ⟨hc.1, hc.2, hc.1 ▸ h⟩
  · simp only [due, Bool.not_eq_eq_eq_not, Bool.not_true, List.isEmpty_eq_false_iff] at h
    split at h
    · next hn => exact .inr ⟨hn, (Option.some.inj h).symm⟩
    · cases h

/-- Where performing keeps memory's form, so does going through the homes. -/
theorem State.through_memOk {s t : State} {op : Nat} {o : Out} {hold : Bool} {f : State → Option State} (h : s.through op o hold f = some t)
    (hm : s.MemOk) (hf : ∀ u v : State, u.mem = s.mem → f u = some v → v.MemOk) : t.MemOk := by
  rcases State.through_cases h with ⟨_, _, hp⟩ | ⟨_, rfl⟩
  · exact hf _ _ (s.serveAll_mem op _) hp
  · simpa [State.MemOk] using hm

end Sys2Proof.Machine
end

