-- ==== Sys2Proof/Laws/Dispatch.lean ====
section
/-! SUPPORT. The dispatch, one equation for each constructor: every arm is its own meaning. -/

namespace Sys2Proof.Machine

theorem exec_illegal (word : Word) (s : State) : exec (.illegal word) s = execIllegal word s := rfl
theorem exec_nop (h : Hdr) (s : State) : exec (.nop h) s = execNop h s := rfl
theorem exec_bra (h : Hdr) (neg : Bool) (p : PReg) (tgt : BitVec 16) (jn : BitVec 16) (s : State) : exec (.bra h neg p tgt jn) s = execBra h neg p tgt jn s := rfl
theorem exec_brx (h : Hdr) (n : BitVec 7) (a : VReg) (b : SReg) (s : State) : exec (.brx h n a b) s = execBrx h n a b s := rfl
theorem exec_join (h : Hdr) (s : State) : exec (.join h) s = execJoin h s := rfl
theorem exec_call (h : Hdr) (d : SReg) (lit : Word) (s : State) : exec (.call h d lit) s = execCall h d lit s := rfl
theorem exec_ret (h : Hdr) (a : SReg) (s : State) : exec (.ret h a) s = execRet h a s := rfl
theorem exec_exit (h : Hdr) (s : State) : exec (.exit h) s = execExit h s := rfl
theorem exec_wait (h : Hdr) (lit : Word) (s : State) : exec (.wait h lit) s = execWait h lit s := rfl
theorem exec_yield (h : Hdr) (s : State) : exec (.yield h) s = execYield h s := rfl
theorem exec_spawn (h : Hdr) (d : SReg) (a : SReg) (lit : Word) (s : State) : exec (.spawn h d a lit) s = execSpawn h d a lit s := rfl
theorem exec_trap (h : Hdr) (a : SReg) (code : BitVec 7) (s : State) : exec (.trap h a code) s = execTrap h a code s := rfl
theorem exec_eret (h : Hdr) (s : State) : exec (.eret h) s = execEret h s := rfl
theorem exec_brk (h : Hdr) (s : State) : exec (.brk h) s = execBrk h s := rfl
theorem exec_idem (h : Hdr) (s : State) : exec (.idem h) s = execIdem h s := rfl
theorem exec_mode (h : Hdr) (msk : BitVec 7) (lit : Word) (s : State) : exec (.mode h msk lit) s = execMode h msk lit s := rfl
theorem exec_iadd (h : Hdr) (d : VReg) (a : VReg) (b : VReg) (s : State) : exec (.iadd h d a b) s = execIadd h d a b s := rfl
theorem exec_isub (h : Hdr) (d : VReg) (a : VReg) (b : VReg) (s : State) : exec (.isub h d a b) s = execIsub h d a b s := rfl
theorem exec_imul (h : Hdr) (d : VReg) (a : VReg) (b : VReg) (s : State) : exec (.imul h d a b) s = execImul h d a b s := rfl
theorem exec_imulh (h : Hdr) (d : VReg) (a : VReg) (b : VReg) (s : State) : exec (.imulh h d a b) s = execImulh h d a b s := rfl
theorem exec_imad (h : Hdr) (d : VReg) (a : VReg) (b : VReg) (s : State) : exec (.imad h d a b) s = execImad h d a b s := rfl
theorem exec_imin (h : Hdr) (d : VReg) (a : VReg) (b : VReg) (s : State) : exec (.imin h d a b) s = execImin h d a b s := rfl
theorem exec_imax (h : Hdr) (d : VReg) (a : VReg) (b : VReg) (s : State) : exec (.imax h d a b) s = execImax h d a b s := rfl
theorem exec_and (h : Hdr) (d : VReg) (a : VReg) (b : VReg) (s : State) : exec (.and h d a b) s = execAnd h d a b s := rfl
theorem exec_or (h : Hdr) (d : VReg) (a : VReg) (b : VReg) (s : State) : exec (.or h d a b) s = execOr h d a b s := rfl
theorem exec_xor (h : Hdr) (d : VReg) (a : VReg) (b : VReg) (s : State) : exec (.xor h d a b) s = execXor h d a b s := rfl
theorem exec_shl (h : Hdr) (d : VReg) (a : VReg) (b : VReg) (s : State) : exec (.shl h d a b) s = execShl h d a b s := rfl
theorem exec_shr (h : Hdr) (d : VReg) (a : VReg) (b : VReg) (s : State) : exec (.shr h d a b) s = execShr h d a b s := rfl
theorem exec_sar (h : Hdr) (d : VReg) (a : VReg) (b : VReg) (s : State) : exec (.sar h d a b) s = execSar h d a b s := rfl
theorem exec_iset (h : Hdr) (c : BitVec 3) (p : BitVec 4) (a : VReg) (b : VReg) (s : State) : exec (.iset h c p a b) s = execIset h c p a b s := rfl
theorem exec_sel (h : Hdr) (d : VReg) (a : VReg) (p : PReg) (s : State) : exec (.sel h d a p) s = execSel h d a p s := rfl
theorem exec_idp4 (h : Hdr) (d : VReg) (a : VReg) (b : VReg) (s : State) : exec (.idp4 h d a b) s = execIdp4 h d a b s := rfl
theorem exec_fadd (h : Hdr) (d : VReg) (a : VReg) (b : VReg) (s : State) : exec (.fadd h d a b) s = execFadd h d a b s := rfl
theorem exec_fsub (h : Hdr) (d : VReg) (a : VReg) (b : VReg) (s : State) : exec (.fsub h d a b) s = execFsub h d a b s := rfl
theorem exec_fmul (h : Hdr) (d : VReg) (a : VReg) (b : VReg) (s : State) : exec (.fmul h d a b) s = execFmul h d a b s := rfl
theorem exec_ffma (h : Hdr) (d : VReg) (a : VReg) (b : VReg) (s : State) : exec (.ffma h d a b) s = execFfma h d a b s := rfl
theorem exec_fmin (h : Hdr) (d : VReg) (a : VReg) (b : VReg) (s : State) : exec (.fmin h d a b) s = execFmin h d a b s := rfl
theorem exec_fmax (h : Hdr) (d : VReg) (a : VReg) (b : VReg) (s : State) : exec (.fmax h d a b) s = execFmax h d a b s := rfl
theorem exec_fset (h : Hdr) (c : BitVec 3) (p : BitVec 4) (a : VReg) (b : VReg) (s : State) : exec (.fset h c p a b) s = execFset h c p a b s := rfl
theorem exec_fdp2 (h : Hdr) (d : VReg) (a : VReg) (b : VReg) (s : State) : exec (.fdp2 h d a b) s = execFdp2 h d a b s := rfl
theorem exec_mov (h : Hdr) (d : VReg) (a : VReg) (s : State) : exec (.mov h d a) s = execMov h d a s := rfl
theorem exec_not (h : Hdr) (d : VReg) (a : VReg) (s : State) : exec (.not h d a) s = execNot h d a s := rfl
theorem exec_iabs (h : Hdr) (d : VReg) (a : VReg) (s : State) : exec (.iabs h d a) s = execIabs h d a s := rfl
theorem exec_ineg (h : Hdr) (d : VReg) (a : VReg) (s : State) : exec (.ineg h d a) s = execIneg h d a s := rfl
theorem exec_popc (h : Hdr) (d : VReg) (a : VReg) (s : State) : exec (.popc h d a) s = execPopc h d a s := rfl
theorem exec_clz (h : Hdr) (d : VReg) (a : VReg) (s : State) : exec (.clz h d a) s = execClz h d a s := rfl
theorem exec_brev (h : Hdr) (d : VReg) (a : VReg) (s : State) : exec (.brev h d a) s = execBrev h d a s := rfl
theorem exec_lrank (h : Hdr) (d : VReg) (a : VReg) (s : State) : exec (.lrank h d a) s = execLrank h d a s := rfl
theorem exec_lidx (h : Hdr) (d : VReg) (s : State) : exec (.lidx h d) s = execLidx h d s := rfl
theorem exec_fabs (h : Hdr) (d : VReg) (a : VReg) (s : State) : exec (.fabs h d a) s = execFabs h d a s := rfl
theorem exec_fneg (h : Hdr) (d : VReg) (a : VReg) (s : State) : exec (.fneg h d a) s = execFneg h d a s := rfl
theorem exec_frcp (h : Hdr) (d : VReg) (a : VReg) (s : State) : exec (.frcp h d a) s = execFrcp h d a s := rfl
theorem exec_frsq (h : Hdr) (d : VReg) (a : VReg) (s : State) : exec (.frsq h d a) s = execFrsq h d a s := rfl
theorem exec_fsqrt (h : Hdr) (d : VReg) (a : VReg) (s : State) : exec (.fsqrt h d a) s = execFsqrt h d a s := rfl
theorem exec_fexp2 (h : Hdr) (d : VReg) (a : VReg) (s : State) : exec (.fexp2 h d a) s = execFexp2 h d a s := rfl
theorem exec_flog2 (h : Hdr) (d : VReg) (a : VReg) (s : State) : exec (.flog2 h d a) s = execFlog2 h d a s := rfl
theorem exec_fsin (h : Hdr) (d : VReg) (a : VReg) (s : State) : exec (.fsin h d a) s = execFsin h d a s := rfl
theorem exec_fcos (h : Hdr) (d : VReg) (a : VReg) (s : State) : exec (.fcos h d a) s = execFcos h d a s := rfl
theorem exec_cvt (h : Hdr) (src : BitVec 4) (d : VReg) (a : VReg) (s : State) : exec (.cvt h src d a) s = execCvt h src d a s := rfl
theorem exec_iaddk (h : Hdr) (d : VReg) (a : VReg) (lit : Word) (s : State) : exec (.iaddk h d a lit) s = execIaddk h d a lit s := rfl
theorem exec_movk (h : Hdr) (d : VReg) (lit : Word) (s : State) : exec (.movk h d lit) s = execMovk h d lit s := rfl
theorem exec_csrr (h : Hdr) (d : SReg) (n : BitVec 14) (s : State) : exec (.csrr h d n) s = execCsrr h d n s := rfl
theorem exec_csrw (h : Hdr) (d : SReg) (n : BitVec 14) (s : State) : exec (.csrw h d n) s = execCsrw h d n s := rfl
theorem exec_pand (h : Hdr) (d : PReg) (a : PReg) (b : PReg) (s : State) : exec (.pand h d a b) s = execPand h d a b s := rfl
theorem exec_por (h : Hdr) (d : PReg) (a : PReg) (b : PReg) (s : State) : exec (.por h d a b) s = execPor h d a b s := rfl
theorem exec_pxor (h : Hdr) (d : PReg) (a : PReg) (b : PReg) (s : State) : exec (.pxor h d a b) s = execPxor h d a b s := rfl
theorem exec_pandn (h : Hdr) (d : PReg) (a : PReg) (b : PReg) (s : State) : exec (.pandn h d a b) s = execPandn h d a b s := rfl
theorem exec_p2s (h : Hdr) (d : SReg) (a : PReg) (s : State) : exec (.p2s h d a) s = execP2s h d a s := rfl
theorem exec_s2p (h : Hdr) (d : PReg) (a : SReg) (s : State) : exec (.s2p h d a) s = execS2p h d a s := rfl
theorem exec_lshf (h : Hdr) (d : VReg) (a : VReg) (b : VReg) (s : State) : exec (.lshf h d a b) s = execLshf h d a b s := rfl
theorem exec_lbcs (h : Hdr) (d : VReg) (a : VReg) (lane : BitVec 5) (s : State) : exec (.lbcs h d a lane) s = execLbcs h d a lane s := rfl
theorem exec_lmatch (h : Hdr) (d : VReg) (a : VReg) (s : State) : exec (.lmatch h d a) s = execLmatch h d a s := rfl
theorem exec_lpfx (h : Hdr) (d : VReg) (a : VReg) (excl : Bool) (s : State) : exec (.lpfx h d a excl) s = execLpfx h d a excl s := rfl
theorem exec_lred (h : Hdr) (d : VReg) (a : VReg) (kind : BitVec 2) (s : State) : exec (.lred h d a kind) s = execLred h d a kind s := rfl
theorem exec_lvote (h : Hdr) (kind : BitVec 2) (p : BitVec 4) (a : PReg) (s : State) : exec (.lvote h kind p a) s = execLvote h kind p a s := rfl
theorem exec_xchg (h : Hdr) (d : VReg) (a : VReg) (hd : HReg) (s : State) : exec (.xchg h d a hd) s = execXchg h d a hd s := rfl
theorem exec_v2s (h : Hdr) (d : SReg) (a : VReg) (lane : BitVec 5) (s : State) : exec (.v2s h d a lane) s = execV2s h d a lane s := rfl
theorem exec_s2v (h : Hdr) (d : VReg) (a : SReg) (hi : Bool) (s : State) : exec (.s2v h d a hi) s = execS2v h d a hi s := rfl
theorem exec_sadd (h : Hdr) (d : SReg) (a : SReg) (b : SReg) (s : State) : exec (.sadd h d a b) s = execSadd h d a b s := rfl
theorem exec_ssub (h : Hdr) (d : SReg) (a : SReg) (b : SReg) (s : State) : exec (.ssub h d a b) s = execSsub h d a b s := rfl
theorem exec_smul (h : Hdr) (d : SReg) (a : SReg) (b : SReg) (s : State) : exec (.smul h d a b) s = execSmul h d a b s := rfl
theorem exec_sand (h : Hdr) (d : SReg) (a : SReg) (b : SReg) (s : State) : exec (.sand h d a b) s = execSand h d a b s := rfl
theorem exec_sor (h : Hdr) (d : SReg) (a : SReg) (b : SReg) (s : State) : exec (.sor h d a b) s = execSor h d a b s := rfl
theorem exec_sxor (h : Hdr) (d : SReg) (a : SReg) (b : SReg) (s : State) : exec (.sxor h d a b) s = execSxor h d a b s := rfl
theorem exec_sshl (h : Hdr) (d : SReg) (a : SReg) (b : SReg) (s : State) : exec (.sshl h d a b) s = execSshl h d a b s := rfl
theorem exec_sshr (h : Hdr) (d : SReg) (a : SReg) (b : SReg) (s : State) : exec (.sshr h d a b) s = execSshr h d a b s := rfl
theorem exec_sset (h : Hdr) (c : BitVec 3) (p : BitVec 4) (a : SReg) (b : SReg) (s : State) : exec (.sset h c p a b) s = execSset h c p a b s := rfl
theorem exec_smovk (h : Hdr) (d : SReg) (lit : Word) (s : State) : exec (.smovk h d lit) s = execSmovk h d lit s := rfl
theorem exec_saddk (h : Hdr) (d : SReg) (a : SReg) (lit : Word) (s : State) : exec (.saddk h d a lit) s = execSaddk h d a lit s := rfl
theorem exec_sld (h : Hdr) (d : SReg) (a : SReg) (s : State) : exec (.sld h d a) s = execSld h d a s := rfl
theorem exec_sst (h : Hdr) (d : SReg) (a : SReg) (s : State) : exec (.sst h d a) s = execSst h d a s := rfl
theorem exec_ld (h : Hdr) (d : VReg) (a : VReg) (b : SReg) (s : State) : exec (.ld h d a b) s = execLd h d a b s := rfl
theorem exec_st (h : Hdr) (d : VReg) (a : VReg) (b : SReg) (s : State) : exec (.st h d a b) s = execSt h d a b s := rfl
theorem exec_pref (h : Hdr) (copse : Bool) (a : VReg) (b : SReg) (s : State) : exec (.pref h copse a b) s = execPref h copse a b s := rfl
theorem exec_phase (h : Hdr) (kind : BitVec 2) (scope : BitVec 3) (s : State) : exec (.phase h kind scope) s = execPhase h kind scope s := rfl
theorem exec_acvt (h : Hdr) (toGen : Bool) (win : BitVec 2) (d : VReg) (a : VReg) (s : State) : exec (.acvt h toGen win d a) s = execAcvt h toGen win d a s := rfl
theorem exec_awin (h : Hdr) (d : PReg) (a : VReg) (kind : BitVec 2) (s : State) : exec (.awin h d a kind) s = execAwin h d a kind s := rfl
theorem exec_discard (h : Hdr) (a : SReg) (b : SReg) (s : State) : exec (.discard h a b) s = execDiscard h a b s := rfl
theorem exec_aadd (h : Hdr) (d : VReg) (a : VReg) (b : VReg) (s : State) : exec (.aadd h d a b) s = execAadd h d a b s := rfl
theorem exec_amin (h : Hdr) (d : VReg) (a : VReg) (b : VReg) (s : State) : exec (.amin h d a b) s = execAmin h d a b s := rfl
theorem exec_amax (h : Hdr) (d : VReg) (a : VReg) (b : VReg) (s : State) : exec (.amax h d a b) s = execAmax h d a b s := rfl
theorem exec_aand (h : Hdr) (d : VReg) (a : VReg) (b : VReg) (s : State) : exec (.aand h d a b) s = execAand h d a b s := rfl
theorem exec_aor (h : Hdr) (d : VReg) (a : VReg) (b : VReg) (s : State) : exec (.aor h d a b) s = execAor h d a b s := rfl
theorem exec_axor (h : Hdr) (d : VReg) (a : VReg) (b : VReg) (s : State) : exec (.axor h d a b) s = execAxor h d a b s := rfl
theorem exec_axch (h : Hdr) (d : VReg) (a : VReg) (b : VReg) (s : State) : exec (.axch h d a b) s = execAxch h d a b s := rfl
theorem exec_acas (h : Hdr) (d : VReg) (a : VReg) (b : VReg) (s : State) : exec (.acas h d a b) s = execAcas h d a b s := rfl
theorem exec_tacc (h : Hdr) (d : AReg) (a : SReg) (lit : Word) (s : State) : exec (.tacc h d a lit) s = execTacc h d a lit s := rfl
theorem exec_ast (h : Hdr) (d : AReg) (a : SReg) (lit : Word) (s : State) : exec (.ast h d a lit) s = execAst h d a lit s := rfl
theorem exec_ald (h : Hdr) (d : AReg) (a : SReg) (lit : Word) (s : State) : exec (.ald h d a lit) s = execAld h d a lit s := rfl
theorem exec_rflush (h : Hdr) (a : SReg) (b : SReg) (s : State) : exec (.rflush h a b) s = execRflush h a b s := rfl
theorem exec_tagset (h : Hdr) (a : VReg) (b : VReg) (s : State) : exec (.tagset h a b) s = execTagset h a b s := rfl
theorem exec_tagget (h : Hdr) (d : VReg) (a : VReg) (s : State) : exec (.tagget h d a) s = execTagget h d a s := rfl
theorem exec_cpin (h : Hdr) (slot : Bool) (k : Tok) (a : SReg) (b : SReg) (rows : BitVec 12) (bytes : BitVec 20) (s : State) : exec (.cpin h slot k a b rows bytes) s = execCpin h slot k a b rows bytes s := rfl
theorem exec_cpout (h : Hdr) (k : Tok) (a : SReg) (b : SReg) (rows : BitVec 12) (bytes : BitVec 20) (s : State) : exec (.cpout h k a b rows bytes) s = execCpout h k a b rows bytes s := rfl
theorem exec_ktst (h : Hdr) (d : PReg) (k : Tok) (s : State) : exec (.ktst h d k) s = execKtst h d k s := rfl
theorem exec_tmark (h : Hdr) (a : SReg) (s : State) : exec (.tmark h a) s = execTmark h a s := rfl
theorem exec_vres (h : Hdr) (a : SReg) (s : State) : exec (.vres h a) s = execVres h a s := rfl
theorem exec_vrel (h : Hdr) (s : State) : exec (.vrel h) s = execVrel h s := rfl
theorem exec_ptst (h : Hdr) (d : SReg) (a : SReg) (s : State) : exec (.ptst h d a) s = execPtst h d a s := rfl
theorem exec_ptld (h : Hdr) (a : SReg) (s : State) : exec (.ptld h a) s = execPtld h a s := rfl
theorem exec_btake (h : Hdr) (matrix : Bool) (s : State) : exec (.btake h matrix) s = execBtake h matrix s := rfl
theorem exec_bpass (h : Hdr) (matrix : Bool) (s : State) : exec (.bpass h matrix) s = execBpass h matrix s := rfl
theorem exec_oclm (h : Hdr) (d : OReg) (s : State) : exec (.oclm h d) s = execOclm h d s := rfl
theorem exec_orel (h : Hdr) (d : OReg) (s : State) : exec (.orel h d) s = execOrel h d s := rfl
theorem exec_old (h : Hdr) (d : OReg) (a : SReg) (rows : BitVec 7) (s : State) : exec (.old h d a rows) s = execOld h d a rows s := rfl
theorem exec_mma (h : Hdr) (d : AReg) (a : OReg) (b : OReg) (s : State) : exec (.mma h d a b) s = execMma h d a b s := rfl
theorem exec_azero (h : Hdr) (d : AReg) (s : State) : exec (.azero h d) s = execAzero h d s := rfl
theorem exec_amov (h : Hdr) (d : VReg) (a : AReg) (col : Bool) (n : BitVec 5) (s : State) : exec (.amov h d a col n) s = execAmov h d a col n s := rfl
theorem exec_amovv (h : Hdr) (d : AReg) (a : VReg) (col : Bool) (n : BitVec 5) (s : State) : exec (.amovv h d a col n) s = execAmovv h d a col n s := rfl
theorem exec_gang (h : Hdr) (a : SReg) (s : State) : exec (.gang h a) s = execGang h a s := rfl
theorem exec_cbld (h : Hdr) (tab : BitVec 3) (a : SReg) (s : State) : exec (.cbld h tab a) s = execCbld h tab a s := rfl
theorem exec_gcrt (h : Hdr) (d : SReg) (a : SReg) (b : HReg) (s : State) : exec (.gcrt h d a b) s = execGcrt h d a b s := rfl
theorem exec_gjoin (h : Hdr) (d : SReg) (a : HReg) (s : State) : exec (.gjoin h d a) s = execGjoin h d a s := rfl
theorem exec_gleave (h : Hdr) (d : SReg) (a : HReg) (s : State) : exec (.gleave h d a) s = execGleave h d a s := rfl
theorem exec_gbar (h : Hdr) (d : SReg) (a : HReg) (s : State) : exec (.gbar h d a) s = execGbar h d a s := rfl
theorem exec_gvote (h : Hdr) (kind : BitVec 2) (p : BitVec 4) (a : HReg) (b : SReg) (s : State) : exec (.gvote h kind p a b) s = execGvote h kind p a b s := rfl
theorem exec_gred (h : Hdr) (d : SReg) (a : HReg) (b : SReg) (op : BitVec 2) (s : State) : exec (.gred h d a b op) s = execGred h d a b op s := rfl
theorem exec_ginfo (h : Hdr) (d : SReg) (a : HReg) (s : State) : exec (.ginfo h d a) s = execGinfo h d a s := rfl
theorem exec_gdel (h : Hdr) (d : SReg) (a : HReg) (s : State) : exec (.gdel h d a) s = execGdel h d a s := rfl
theorem exec_h2s (h : Hdr) (d : SReg) (a : HReg) (s : State) : exec (.h2s h d a) s = execH2s h d a s := rfl
theorem exec_s2h (h : Hdr) (d : HReg) (a : SReg) (clr : BitVec 4) (s : State) : exec (.s2h h d a clr) s = execS2h h d a clr s := rfl
theorem exec_qenq (h : Hdr) (d : SReg) (a : HReg) (b : SReg) (s : State) : exec (.qenq h d a b) s = execQenq h d a b s := rfl
theorem exec_qdeq (h : Hdr) (d : SReg) (a : HReg) (b : SReg) (s : State) : exec (.qdeq h d a b) s = execQdeq h d a b s := rfl
theorem exec_qsteal (h : Hdr) (d : SReg) (a : HReg) (b : SReg) (s : State) : exec (.qsteal h d a b) s = execQsteal h d a b s := rfl
theorem exec_tdone (h : Hdr) (d : SReg) (a : SReg) (s : State) : exec (.tdone h d a) s = execTdone h d a s := rfl
theorem exec_tfull (h : Hdr) (d : SReg) (a : SReg) (s : State) : exec (.tfull h d a) s = execTfull h d a s := rfl
theorem exec_tempty (h : Hdr) (d : SReg) (a : SReg) (s : State) : exec (.tempty h d a) s = execTempty h d a s := rfl
theorem exec_tstat (h : Hdr) (d : SReg) (a : SReg) (s : State) : exec (.tstat h d a) s = execTstat h d a s := rfl
theorem exec_chapp (h : Hdr) (d : SReg) (a : HReg) (b : SReg) (s : State) : exec (.chapp h d a b) s = execChapp h d a b s := rfl
theorem exec_chadv (h : Hdr) (a : HReg) (s : State) : exec (.chadv h a) s = execChadv h a s := rfl
theorem exec_chseq (h : Hdr) (d : SReg) (a : HReg) (s : State) : exec (.chseq h d a) s = execChseq h d a s := rfl
theorem exec_launchRecordEnqueue (q : Nat) (bytes : List Byte) (s : State) : exec (.launchRecordEnqueue q bytes) s = execLaunchRecordEnqueue q bytes s := rfl
theorem exec_grovePlacement (die : Nat) (s : State) : exec (.grovePlacement die) s = execGrovePlacement die s := rfl
theorem exec_colevelLaunchPlacement (die : Nat) (s : State) : exec (.colevelLaunchPlacement die) s = execColevelLaunchPlacement die s := rfl
theorem exec_stealMessage (die : Nat) (s : State) : exec (.stealMessage die) s = execStealMessage die s := rfl
theorem exec_standRetire (st : Nat) (s : State) : exec (.standRetire st) s = execStandRetire st s := rfl
theorem exec_completionCounterDecrement (l : Nat) (s : State) : exec (.completionCounterDecrement l) s = execCompletionCounterDecrement l s := rfl
theorem exec_forwardedRecord (msg : List Byte) (s : State) : exec (.forwardedRecord msg) s = execForwardedRecord msg s := rfl
theorem exec_schedulerQuery (msg : List Byte) (s : State) : exec (.schedulerQuery msg) s = execSchedulerQuery msg s := rfl
theorem exec_greedyRunLimit (core : Nat) (quarter : Nat) (s : State) : exec (.greedyRunLimit core quarter) s = execGreedyRunLimit core quarter s := rfl
theorem exec_contextSwitchTimeslice (core : Nat) (s : State) : exec (.contextSwitchTimeslice core) s = execContextSwitchTimeslice core s := rfl
theorem exec_contextSwitchIdle (core : Nat) (s : State) : exec (.contextSwitchIdle core) s = execContextSwitchIdle core s := rfl
theorem exec_speculationSquash (st : Nat) (path : Nat) (s : State) : exec (.speculationSquash st path) s = execSpeculationSquash st path s := rfl
theorem exec_pageFaultResolved (st : Nat) (path : Nat) (s : State) : exec (.pageFaultResolved st path) s = execPageFaultResolved st path s := rfl
theorem exec_pageFaultFatal (st : Nat) (path : Nat) (s : State) : exec (.pageFaultFatal st path) s = execPageFaultFatal st path s := rfl
theorem exec_loadDataReturn (op : Nat) (s : State) : exec (.loadDataReturn op) s = execLoadDataReturn op s := rfl
theorem exec_storePerformed (op : Nat) (s : State) : exec (.storePerformed op) s = execStorePerformed op s := rfl
theorem exec_atomicAtHome (op : Nat) (k : Nat) (s : State) : exec (.atomicAtHome op k) s = execAtomicAtHome op k s := rfl
theorem exec_atomicReply (op : Nat) (s : State) : exec (.atomicReply op) s = execAtomicReply op s := rfl
theorem exec_combineEntryTimeout (core : Nat) (k : Nat) (s : State) : exec (.combineEntryTimeout core k) s = execCombineEntryTimeout core k s := rfl
theorem exec_publicationComplete (pub : Nat) (s : State) : exec (.publicationComplete pub) s = execPublicationComplete pub s := rfl
theorem exec_copyComplete (op : Nat) (s : State) : exec (.copyComplete op) s = execCopyComplete op s := rfl
theorem exec_oldFillComplete (op : Nat) (s : State) : exec (.oldFillComplete op) s = execOldFillComplete op s := rfl
theorem exec_mmaArrayStart (op : Nat) (s : State) : exec (.mmaArrayStart op) s = execMmaArrayStart op s := rfl
theorem exec_mmaFinish (op : Nat) (s : State) : exec (.mmaFinish op) s = execMmaFinish op s := rfl
theorem exec_aldComplete (op : Nat) (s : State) : exec (.aldComplete op) s = execAldComplete op s := rfl
theorem exec_astPerformed (op : Nat) (s : State) : exec (.astPerformed op) s = execAstPerformed op s := rfl
theorem exec_cbldTableWrite (op : Nat) (s : State) : exec (.cbldTableWrite op) s = execCbldTableWrite op s := rfl
theorem exec_tileOffer (core : Nat) (s : State) : exec (.tileOffer core) s = execTileOffer core s := rfl
theorem exec_tileHeaderAtHome (op : Nat) (s : State) : exec (.tileHeaderAtHome op) s = execTileHeaderAtHome op s := rfl
theorem exec_tileGrant (op : Nat) (s : State) : exec (.tileGrant op) s = execTileGrant op s := rfl
theorem exec_tileRefused (op : Nat) (s : State) : exec (.tileRefused op) s = execTileRefused op s := rfl
theorem exec_tileReofferTimer (core : Nat) (s : State) : exec (.tileReofferTimer core) s = execTileReofferTimer core s := rfl
theorem exec_residualRetryTimer (st : Nat) (slot : Nat) (s : State) : exec (.residualRetryTimer st slot) s = execResidualRetryTimer st slot s := rfl
theorem exec_flushRequestAtHome (op : Nat) (s : State) : exec (.flushRequestAtHome op) s = execFlushRequestAtHome op s := rfl
theorem exec_tileApply (home : Nat) (op : Nat) (s : State) : exec (.tileApply home op) s = execTileApply home op s := rfl
theorem exec_groupOpAtController (op : Nat) (s : State) : exec (.groupOpAtController op) s = execGroupOpAtController op s := rfl
theorem exec_groupReply (op : Nat) (s : State) : exec (.groupReply op) s = execGroupReply op s := rfl
theorem exec_gredCellsFree (die : Nat) (s : State) : exec (.gredCellsFree die) s = execGredCellsFree die s := rfl
theorem exec_queueOpAtController (op : Nat) (s : State) : exec (.queueOpAtController op) s = execQueueOpAtController op s := rfl
theorem exec_remoteQenqMessage (m : Nat) (s : State) : exec (.remoteQenqMessage m) s = execRemoteQenqMessage m s := rfl
theorem exec_counterDecrementAtHome (op : Nat) (s : State) : exec (.counterDecrementAtHome op) s = execCounterDecrementAtHome op s := rfl
theorem exec_successorEnqueueRetry (m : Nat) (s : State) : exec (.successorEnqueueRetry m) s = execSuccessorEnqueueRetry m s := rfl
theorem exec_bufferBitAtHome (op : Nat) (s : State) : exec (.bufferBitAtHome op) s = execBufferBitAtHome op s := rfl
theorem exec_ioEntryStart (chain : Nat) (s : State) : exec (.ioEntryStart chain) s = execIoEntryStart chain s := rfl
theorem exec_ioEntryComplete (chain : Nat) (n : Nat) (dev : DevResult) (s : State) : exec (.ioEntryComplete chain n dev) s = execIoEntryComplete chain n dev s := rfl
theorem exec_remoteOpTimeout (op : Nat) (s : State) : exec (.remoteOpTimeout op) s = execRemoteOpTimeout op s := rfl
theorem exec_holdNotice (pelfold : Nat) (s : State) : exec (.holdNotice pelfold) s = execHoldNotice pelfold s := rfl
theorem exec_watchdogExpiry (st : Nat) (s : State) : exec (.watchdogExpiry st) s = execWatchdogExpiry st s := rfl
theorem exec_ccmdAdmit (c : Nat) (s : State) : exec (.ccmdAdmit c) s = execCcmdAdmit c s := rfl
theorem exec_ccmdEnd (c : Nat) (s : State) : exec (.ccmdEnd c) s = execCcmdEnd c s := rfl
theorem exec_ccmdVacate (c : Nat) (s : State) : exec (.ccmdVacate c) s = execCcmdVacate c s := rfl
theorem exec_replySlotWrite (c : Nat) (op : Nat) (s : State) : exec (.replySlotWrite c op) s = execReplySlotWrite c op s := rfl
theorem exec_vacateComplete (c : Nat) (s : State) : exec (.vacateComplete c) s = execVacateComplete c s := rfl
theorem exec_ccmdRestore (c : Nat) (s : State) : exec (.ccmdRestore c) s = execCcmdRestore c s := rfl
theorem exec_restoreGrovePlacement (die : Nat) (s : State) : exec (.restoreGrovePlacement die) s = execRestoreGrovePlacement die s := rfl
theorem exec_ccmdAttachDebugger (c : Nat) (s : State) : exec (.ccmdAttachDebugger c) s = execCcmdAttachDebugger c s := rfl
theorem exec_ccmdDetachDebugger (c : Nat) (s : State) : exec (.ccmdDetachDebugger c) s = execCcmdDetachDebugger c s := rfl
theorem exec_tlbInvalidateContext (die : Nat) (v : DWord) (s : State) : exec (.tlbInvalidateContext die v) s = execTlbInvalidateContext die v s := rfl
theorem exec_tlbInvalidateRange (die : Nat) (v : DWord) (s : State) : exec (.tlbInvalidateRange die v) s = execTlbInvalidateRange die v s := rfl
theorem exec_tlbInvalidationComplete (die : Nat) (s : State) : exec (.tlbInvalidationComplete die) s = execTlbInvalidationComplete die s := rfl
theorem exec_ddirWrite (die : Nat) (v : DWord) (s : State) : exec (.ddirWrite die v) s = execDdirWrite die v s := rfl
theorem exec_switchCommand (core : Nat) (v : DWord) (s : State) : exec (.switchCommand core v) s = execSwitchCommand core v s := rfl
theorem exec_createQueue (die : Nat) (c : Nat) (s : State) : exec (.createQueue die c) s = execCreateQueue die c s := rfl
theorem exec_destroyQueue (die : Nat) (c : Nat) (s : State) : exec (.destroyQueue die c) s = execDestroyQueue die c s := rfl
theorem exec_createChain (die : Nat) (c : Nat) (s : State) : exec (.createChain die c) s = execCreateChain die c s := rfl
theorem exec_destroyChain (die : Nat) (c : Nat) (s : State) : exec (.destroyChain die c) s = execDestroyChain die c s := rfl
theorem exec_createEndpoint (die : Nat) (c : Nat) (s : State) : exec (.createEndpoint die c) s = execCreateEndpoint die c s := rfl
theorem exec_destroyEndpoint (die : Nat) (c : Nat) (s : State) : exec (.destroyEndpoint die c) s = execDestroyEndpoint die c s := rfl
theorem exec_configRegisterWrite (addr : Nat) (size : Nat) (v : DWord) (s : State) : exec (.configRegisterWrite addr size v) s = execConfigRegisterWrite addr size v s := rfl
theorem exec_lockInterfaceRequest (n : Nat) (s : State) : exec (.lockInterfaceRequest n) s = execLockInterfaceRequest n s := rfl
theorem exec_startInterfaceRequest (n : Nat) (s : State) : exec (.startInterfaceRequest n) s = execStartInterfaceRequest n s := rfl
theorem exec_stopInterfaceRequest (n : Nat) (s : State) : exec (.stopInterfaceRequest n) s = execStopInterfaceRequest n s := rfl
theorem exec_interfaceLinkError (n : Nat) (s : State) : exec (.interfaceLinkError n) s = execInterfaceLinkError n s := rfl
theorem exec_uncorrectableError (loc : ErrLoc) (s : State) : exec (.uncorrectableError loc) s = execUncorrectableError loc s := rfl
theorem exec_errorSelfTest (tgt : TestTarget) (pass : Bool) (s : State) : exec (.errorSelfTest tgt pass) s = execErrorSelfTest tgt pass s := rfl
theorem exec_coppiceScanEnd (die : Nat) (copse : Nat) (pass : Bool) (s : State) : exec (.coppiceScanEnd die copse pass) s = execCoppiceScanEnd die copse pass s := rfl
theorem exec_tokenTapVisit (home : Nat) (s : State) : exec (.tokenTapVisit home) s = execTokenTapVisit home s := rfl
theorem exec_limiterRefill (die : Nat) (c : Nat) (s : State) : exec (.limiterRefill die c) s = execLimiterRefill die c s := rfl
theorem exec_packetArrival (src : Nat) (seq : Nat) (op : Nat) (s : State) : exec (.packetArrival src seq op) s = execPacketArrival src seq op s := rfl
theorem exec_flitPayloadError (c : Nat) (op : Nat) (s : State) : exec (.flitPayloadError c op) s = execFlitPayloadError c op s := rfl
theorem exec_linkFailure (link : Nat) (s : State) : exec (.linkFailure link) s = execLinkFailure link s := rfl
theorem exec_wavelengthErrorWindow (fibre : Nat) (wl : Nat) (errors : Nat) (s : State) : exec (.wavelengthErrorWindow fibre wl errors) s = execWavelengthErrorWindow fibre wl errors s := rfl
theorem exec_wavelengthRetrainDone (fibre : Nat) (wl : Nat) (ok : Bool) (s : State) : exec (.wavelengthRetrainDone fibre wl ok) s = execWavelengthRetrainDone fibre wl ok s := rfl
theorem exec_supplySag (die : Nat) (mhz : Nat) (s : State) : exec (.supplySag die mhz) s = execSupplySag die mhz s := rfl
theorem exec_thermalThrottle (die : Nat) (hot : Bool) (s : State) : exec (.thermalThrottle die hot) s = execThermalThrottle die hot s := rfl
theorem exec_thermalAlert (die : Nat) (s : State) : exec (.thermalAlert die) s = execThermalAlert die s := rfl
theorem exec_debugHalt (c : Nat) (tgt : HaltTarget) (s : State) : exec (.debugHalt c tgt) s = execDebugHalt c tgt s := rfl
theorem exec_debugSetHeld (st : Nat) (path : Nat) (s : State) : exec (.debugSetHeld st path) s = execDebugSetHeld st path s := rfl
theorem exec_breakpointHit (st : Nat) (path : Nat) (s : State) : exec (.breakpointHit st path) s = execBreakpointHit st path s := rfl
theorem exec_singleStep (st : Nat) (path : Nat) (s : State) : exec (.singleStep st path) s = execSingleStep st path s := rfl
theorem exec_debugSetBreakpoint (core : Nat) (k : Nat) (bp : Option Breakpoint) (s : State) : exec (.debugSetBreakpoint core k bp) s = execDebugSetBreakpoint core k bp s := rfl
theorem exec_debugSetWatchpoint (core : Nat) (k : Nat) (wp : Option Watchpoint) (s : State) : exec (.debugSetWatchpoint core k wp) s = execDebugSetWatchpoint core k wp s := rfl
theorem exec_debugReleaseHeld (st : Nat) (path : Nat) (s : State) : exec (.debugReleaseHeld st path) s = execDebugReleaseHeld st path s := rfl
theorem exec_deterministicModeSwitch (core : Nat) (on : Bool) (base : Nat) (len : Nat) (s : State) : exec (.deterministicModeSwitch core on base len) s = execDeterministicModeSwitch core on base len s := rfl
theorem exec_schedulerMessageDropped (msg : List Byte) (s : State) : exec (.schedulerMessageDropped msg) s = execSchedulerMessageDropped msg s := rfl
theorem exec_holdNoticeSend (s : State) : exec (.holdNoticeSend) s = execHoldNoticeSend s := rfl
theorem exec_spdmMeasurementsRequest (s : State) : exec (.spdmMeasurementsRequest) s = execSpdmMeasurementsRequest s := rfl
theorem exec_boot (s : State) : exec (.boot) s = execBoot s := rfl
theorem exec_flitHeaderError (s : State) : exec (.flitHeaderError) s = execFlitHeaderError s := rfl
theorem exec_thermalShutdown (s : State) : exec (.thermalShutdown) s = execThermalShutdown s := rfl
theorem exec_partitionReinitialise (s : State) : exec (.partitionReinitialise) s = execPartitionReinitialise s := rfl

end Sys2Proof.Machine
end

