-- ==== Sys2Proof/Laws/Float.lean ====
section
/-! SUPPORT. What the one rounding operation of the arithmetic gives (R107). -/

namespace Sys2Proof.Machine
open Sys2Proof.Rule

/-- A shift to the left is exact. -/
theorem shrRound_nonpos (rm : Nat) (neg : Bool) (m : Nat) {sh : Int} (h : sh ≤ 0) : shrRound rm neg m sh = (m * 2 ^ (-sh).toNat, false) := by
  simp [shrRound, h]

/-- `m / 2^sh` is rounded to a whole number as the mode says, and the second component tells whether that was inexact. -/
theorem shrRound_rounds {rm : Nat} (neg : Bool) (m : Nat) (sh : Int) (h : rm ≤ 4) :
    Rounds id rm neg (left 0 m (-sh)) (right 0 (-sh)) (shrRound rm neg m sh).1 ∧
      ((shrRound rm neg m sh).2 = false ↔ left 0 m (-sh) = right 0 (-sh) (4 * (shrRound rm neg m sh).1)) := by
  by_cases hs : sh ≤ 0
  · rw [shrRound_nonpos rm neg m hs]
    have e1 : (0 - -sh).toNat = 0 := by omega
    have e2 : (-sh - 0).toNat = (-sh).toNat := by omega
    simp only [left, right, Rounds, id_eq, e1, e2, Nat.pow_zero, Nat.mul_one, Nat.mul_assoc]
    generalize m * 2 ^ (-sh).toNat = x
    refine ⟨?_, by simp⟩
    split
    · refine ⟨by omega, by omega, ?_⟩; split <;> omega
    · split <;> omega
  · obtain ⟨k, rfl⟩ : ∃ k : Nat, sh = ((k + 1 : Nat) : Int) := ⟨sh.toNat - 1, by omega⟩
    have e1 : (0 - -((k + 1 : Nat) : Int)).toNat = k + 1 := by omega
    have e2 : (-((k + 1 : Nat) : Int) - 0).toNat = 0 := by omega
    have e3 : ((k + 1 : Nat) : Int).toNat = k + 1 := by omega
    have hd := Nat.div_add_mod m (2 ^ (k + 1))
    have hl : m % 2 ^ (k + 1) < 2 ^ (k + 1) := Nat.mod_lt _ (Nat.two_pow_pos _)
    have hp : 2 ^ (k + 1) = 2 * 2 ^ k := by rw [Nat.pow_succ]; omega
    have key : ∀ n, right 0 (-((k + 1 : Nat) : Int)) n = 2 ^ (k + 1) * n := fun n => by rw [right, e1, Nat.mul_comm]
    have ka : left 0 m (-((k + 1 : Nat) : Int)) = 4 * m := by rw [left, e2, Nat.pow_zero, Nat.mul_one]
    simp only [Rounds, key, ka, shrRound, hs, if_false, e3, Nat.shiftRight_eq_div_pow, id_eq, Nat.add_sub_cancel]
    generalize m / 2 ^ (k + 1) = q at *
    generalize m % 2 ^ (k + 1) = r at *
    rw [hp] at hd hl ⊢
    generalize 2 ^ k = P at *
    subst hd
    -- the grid points about `q` and `q + 1`, as multiples of `P`
    have d (x y : Nat) : 2 * P * (2 * (x + y)) = 4 * (P * x) + 4 * (P * y) := by
      rw [Nat.mul_assoc, Nat.mul_left_comm P, Nat.mul_add]; omega
    have f (x : Nat) : 2 * P * (4 * x) = 8 * (P * x) := by rw [Nat.mul_assoc, Nat.mul_left_comm P]; omega
    have g : 4 * (2 * P * q + r) = 8 * (P * q) + 4 * r := by rw [Nat.mul_assoc]; omega
    have one : P * (q + 1) = P * q + P := Nat.mul_add_one P q
    have two : P * (q + 1 + 1) = P * q + P + P := by rw [Nat.mul_add_one, one]
    have pred : 0 < q → P * q = P * (q - 1) + P := fun h => by rw [← Nat.mul_add_one, Nat.sub_add_cancel h]
    simp only [d, f, g]
    generalize hu : (if rm = RM.rne then decide (P < r) || decide (r = P) && decide (q % 2 = 1) else if rm = RM.rna then decide (P ≤ r)
      else if rm = RM.rup then !neg else if rm = RM.rdn then neg else false) = up
    have cases : rm = 0 ∨ rm = 1 ∨ rm = 2 ∨ rm = 3 ∨ rm = 4 := by omega
    clear e1 e2 e3 key ka hs
    by_cases hr : r = 0
    · clear hu
      simp only [hr, if_true, one]
      refine ⟨?_, by simp⟩
      rcases cases with rfl | rfl | rfl | rfl | rfl <;> cases neg <;> simp [toward] <;> omega
    · have pr : q + 1 - 1 = q := rfl
      cases up <;> simp only [hr, if_false, if_true, Bool.false_eq_true, pr, one, two]
      all_goals
        refine ⟨?_, by simp; omega⟩
        rcases cases with rfl | rfl | rfl | rfl | rfl <;> cases neg <;> simp [toward, RM.rne, RM.rna, RM.rup, RM.rdn] at hu ⊢ <;> omega

end Sys2Proof.Machine
end

