-- ==== Sys2Proof/Laws/Regs.lean ====
section
/-! SUPPORT. What the shared operations of the register instructions can do: the gate, commitment, and the writes of vectors, predicates and
scalars. -/

namespace Sys2Proof.Machine

/-! ### The environment at issue -/

@[simp] theorem env_key (i : Instr) (s : State) : (s.env i).key = s.cur.st := rfl
@[simp] theorem env_idx (i : Instr) (s : State) : (s.env i).idx = s.cur.path := rfl
@[simp] theorem env_st (i : Instr) (s : State) : (s.env i).st = s.me := rfl
@[simp] theorem env_path (i : Instr) (s : State) : (s.env i).path = s.myPath := rfl
@[simp] theorem env_ker (i : Instr) (s : State) : (s.env i).ker = s.kernelOf s.me := rfl
@[simp] theorem env_em (i : Instr) (s : State) : (s.env i).em = s.em := rfl
@[simp] theorem env_replay (i : Instr) (s : State) : (s.env i).replay = s.cur.replay := rfl
@[simp] theorem env_ins (i : Instr) (s : State) : (s.env i).ins = i := rfl
@[simp] theorem env_act (i : Instr) (s : State) : (s.env i).act = s.acts i := rfl
@[simp] theorem env_core (i : Instr) (s : State) : (s.env i).core = s.myCore := rfl
@[simp] theorem env_v (i : Instr) (s : State) (r : VReg) (l : Nat) : (s.env i).v r l = s.me.vreg r l := rfl
@[simp] theorem env_s (i : Instr) (s : State) (r : SReg) : (s.env i).s r = s.me.sreg r := rfl
@[simp] theorem env_p (i : Instr) (s : State) (n : Nat) : (s.env i).p n = s.pred n := rfl
@[simp] theorem env_h (i : Instr) (s : State) (r : HReg) : (s.env i).h r = s.me.hreg r := rfl
@[simp] theorem env_pair (i : Instr) (s : State) (r : VReg) (l : Nat) : (s.env i).pair r l = s.me.pair r l := rfl
theorem env_pc (i : Instr) (s : State) (h : s.cur.replay = false) : (s.env i).pc = s.myPath.pc := by
  simp only [State.env, h]; rfl

/-- The gate lets an instruction through to its own meaning. -/
theorem gate_passes {i : Instr} {s : State} (h : Passes i s) (k : Env → State → Out?) : gate i s k = k (s.env i) s := by
  have h1 := h.declared; have h2 := h.armed; have h3 := h.det; have h4 := h.ready
  unfold gate
  simp only [h1, Bool.not_true]
  rw [show (s.env i).st.armed.find? (consumes (s.env i)) = none from h2]
  simp only [show ((s.core (s.env i).core).det && detRefused i) = false from h3, h4]
  rfl

/-! ### Commitment -/

@[simp] theorem me_setStand (s : State) (st : Stand) : (s.setStand s.cur.st st).me = st := by
  show (s.setStand s.cur.st st).stand s.cur.st = st
  rw [State.stand_setStand]; simp

@[simp] theorem setPath_vregs (st : Stand) (i : Nat) (p : Path) : (st.setPath i p).vregs = st.vregs := rfl
@[simp] theorem setPath_sregs (st : Stand) (i : Nat) (p : Path) : (st.setPath i p).sregs = st.sregs := rfl
@[simp] theorem setPath_preds (st : Stand) (i : Nat) (p : Path) : (st.setPath i p).preds = st.preds := rfl
@[simp] theorem setPath_dis (st : Stand) (i : Nat) (p : Path) : (st.setPath i p).dis = st.dis := rfl
@[simp] theorem setPath_mode (st : Stand) (i : Nat) (p : Path) : (st.setPath i p).mode = st.mode := rfl
@[simp] theorem setPath_flags (st : Stand) (i : Nat) (p : Path) : (st.setPath i p).flags = st.flags := rfl
@[simp] theorem setPath_rest (st : Stand) (i : Nat) (p : Path) : (st.setPath i p).rest = st.rest := rfl

/-- The stand that a commitment leaves, when the instruction itself left `st` there. -/
def committed (i : Instr) (s : State) (st : Stand) : Stand :=
  if s.cur.replay then { st with replays := st.replays.drop 1, retcnt := if s.me.firstReplay.counts then st.retcnt + 1 else st.retcnt }
  else
    let t := (st.modPath s.cur.path fun p => { p with pc := s.nextPc i }).modPath s.cur.path fun p => { p with part := none, parked := none }
    { t with
      retcnt := if st.inHandler.isNone then st.retcnt + 1 else st.retcnt,
      lastRet := s.cycOf s.myCore,
      region := regionAt s.myPath.pc st.region }

theorem insert_insert {α : Type} (m : SMap α) (k : Nat) (x y : α) : SMap.insert (SMap.insert m k x) k y = SMap.insert m k y := by
  induction m with
  | nil => simp [SMap.insert]
  | cons kv t ih =>
    obtain ⟨k', v'⟩ := kv
    by_cases h1 : k < k'
    · simp [SMap.insert, h1]
    · by_cases h2 : k = k'
      · subst h2; simp [SMap.insert]
      · simp [SMap.insert, h1, h2, ih]

theorem setStand_twice (s : State) (k : Nat) (x y : Stand) : (s.setStand k x).setStand k y = s.setStand k y := by
  simp [State.setStand, insert_insert]

theorem modStand_setStand (s : State) (k : Nat) (x : Stand) (f : Stand → Stand) : (s.setStand k x).modStand k f = s.setStand k (f x) := by
  simp [State.modStand, setStand_twice]

/-- Commitment after an instruction that has left `st` at the issue position. -/
theorem commit_setStand (i : Instr) (s : State) (st : Stand) :
    (s.env i).commit (s.setStand s.cur.st st) = .next (s.setStand s.cur.st (committed i s st)) := by
  unfold Env.commit Env.done committed
  cases hr : s.cur.replay
  · simp [hr, modStand_setStand, env_pc i s hr, State.nextPc, State.cycOf, Stand.modPath, Stand.setPath]
  · simp [hr, modStand_setStand]; rfl

/-- Two stands that differ in vector registers, scalars, predicates, `mode`, `flags` and `dis` at most. -/
structure Stand.Alike (a b : Stand) : Prop where
  rest : a.rest = b.rest
  paths : a.paths = b.paths
  retcnt : a.retcnt = b.retcnt
  lastRet : a.lastRet = b.lastRet
  region : a.region = b.region
  replays : a.replays = b.replays

theorem Stand.Alike.refl (a : Stand) : a.Alike a := ⟨rfl, rfl, rfl, rfl, rfl, rfl⟩

theorem Stand.rest_inHandler {a b : Stand} (h : a.rest = b.rest) : a.inHandler = b.inHandler := by
  have := congrArg Stand.inHandler h; exact this

theorem homeByte_setStand' (s : State) (k : Nat) (x : Stand) (a : Nat) : (s.setStand k x).homeByte a = s.homeByte a := rfl

/-- Nothing but the stand at the issue position changes when it is put back. -/
theorem onlyMe_setStand (s : State) (x : Stand) : OnlyMe s (s.setStand s.cur.st x) :=
  ⟨rfl, fun k hk => by simp [hk], fun _ => rfl, fun _ _ => rfl⟩

@[simp] theorem myPath_setStand (s : State) (x : Stand) : (s.setStand s.cur.st x).myPath = x.path s.cur.path := by
  show ((s.setStand s.cur.st x).me).path s.cur.path = _
  rw [me_setStand]

@[simp] theorem committed_rest (i : Instr) (s : State) (st : Stand) : (committed i s st).rest = st.rest := by
  unfold committed; split <;> rfl
@[simp] theorem committed_vregs (i : Instr) (s : State) (st : Stand) : (committed i s st).vregs = st.vregs := by
  unfold committed; split <;> rfl
@[simp] theorem committed_sregs (i : Instr) (s : State) (st : Stand) : (committed i s st).sregs = st.sregs := by
  unfold committed; split <;> rfl
@[simp] theorem committed_preds (i : Instr) (s : State) (st : Stand) : (committed i s st).preds = st.preds := by
  unfold committed; split <;> rfl
@[simp] theorem committed_dis (i : Instr) (s : State) (st : Stand) : (committed i s st).dis = st.dis := by
  unfold committed; split <;> rfl
@[simp] theorem committed_mode (i : Instr) (s : State) (st : Stand) : (committed i s st).mode = st.mode := by
  unfold committed; split <;> rfl
@[simp] theorem committed_flags (i : Instr) (s : State) (st : Stand) : (committed i s st).flags = st.flags := by
  unfold committed; split <;> rfl

/-- Commitment moves the path on and changes nothing else of the path table. -/
theorem committed_path (i : Instr) (s : State) (st : Stand) (j : Nat) : (committed i s st).path j =
    if s.cur.replay = false ∧ j = s.cur.path then { st.path j with pc := s.nextPc i, part := none, parked := none } else st.path j := by
  unfold committed
  cases hr : s.cur.replay
  · by_cases hj : j = s.cur.path
    · subst hj; simp [Stand.modPath, Stand.path, Stand.setPath]
    · simp [Stand.modPath, Stand.path, Stand.setPath, hj]
  · simp [Stand.path]

/-- The advance of a register instruction. -/
theorem regStep_committed (i : Instr) (s : State) (st : Stand) (h : st.Alike s.me) : RegStep i s (s.setStand s.cur.st (committed i s st)) := by
  have hp : ∀ j, st.path j = s.me.path j := fun j => by simp [Stand.path, h.paths]
  have hi := Stand.rest_inHandler h.rest
  refine ⟨⟨⟨rfl, ?_, ?_, fun hr => ?_, ?_⟩, fun hr => ?_, fun hr => ?_, fun j hj => ?_⟩, onlyMe_setStand s _, by simp [h.rest]⟩
  · rw [me_setStand]; unfold committed
    cases hr : s.cur.replay
    · cases hh : s.me.inHandler <;> simp [h.retcnt, hi, hh]
    · simp [h.retcnt]
  · rw [me_setStand]; unfold committed
    cases hr : s.cur.replay <;> simp [h.lastRet]
  · rw [me_setStand]; unfold committed; simp [hr, h.region, regionAt]
  · rw [me_setStand]; unfold committed
    cases hr : s.cur.replay <;> simp [h.replays, Stand.modPath, Stand.setPath]
  · simp [committed_path, hr, hp, State.myPath]
  · simp [committed_path, hr, hp, State.myPath]
  · simp [committed_path, hj, hp]

/-! ### Writes of vector registers -/

theorem Mask.mem_toList (m : Mask) (l : Nat) : l ∈ Mask.toList m ↔ l < 32 ∧ m.getLsbD l = true := by
  have hl : ∀ l, l ∈ lanes ↔ l < 32 := by
    intro l
    have : lanes = List.range 32 := by decide
    rw [this, List.mem_range]
  simp [Mask.toList, hl]

/-- Writing lanes of a register, read back. -/
theorem foldl_set_get (r : Nat) (f : Nat → Word) (ls : List Nat) (m : SMap Word) (k : Nat) :
    SMap.get 0 (ls.foldl (fun m l => SMap.set 0 m (32 * r + l) (f l)) m) k
      = if ∃ l ∈ ls, k = 32 * r + l then f (k - 32 * r) else SMap.get 0 m k := by
  induction ls generalizing m with
  | nil => simp
  | cons l ls ih =>
    rw [List.foldl_cons, ih]
    by_cases h : ∃ l ∈ ls, k = 32 * r + l
    · rw [if_pos h, if_pos (by obtain ⟨x, hx, e⟩ := h; exact ⟨x, List.mem_cons_of_mem _ hx, e⟩)]
    · rw [if_neg h, SMap.get_set]
      by_cases hk : k = 32 * r + l
      · subst hk; rw [if_pos rfl, if_pos ⟨l, List.mem_cons_self, rfl⟩]; congr 1; omega
      · rw [if_neg hk, if_neg]
        rintro ⟨x, hx, e⟩
        rcases List.mem_cons.1 hx with rfl | hx
        · exact hk e
        · exact h ⟨x, hx, e⟩

theorem setV_alike (st : Stand) (r : Nat) (ls : List Nat) (f : Nat → Word) : (st.setV r ls f).Alike st := by
  unfold Stand.setV; split <;> exact ⟨rfl, rfl, rfl, rfl, rfl, rfl⟩

/-- A vector register after lanes of it have been written. -/
theorem vreg_setV (st : Stand) (d r : VReg) (m : Mask) (f : Nat → Word) (l : Nat) (hl : l < 32) :
    (st.setV d.toNat (Mask.toList m) f).vreg r l = if d ≠ 127 ∧ r = d ∧ m.getLsbD l = true then f l else st.vreg r l := by
  unfold Stand.setV Stand.vreg
  have h127 : d.toNat = 127 ↔ d = 127 := by
    constructor
    · intro h; apply BitVec.eq_of_toNat_eq; simpa using h
    · rintro rfl; rfl
  by_cases hd : d = 127
  · simp [hd]
  · rw [if_neg (fun h => hd (h127.1 h))]
    by_cases hr : r = 127
    · subst hr
      have : ¬ (127#7 = d) := fun h => hd h.symm
      simp [this]
    · simp only [hr, if_false]
      rw [foldl_set_get]
      by_cases he : r = d
      · subst he
        have : (∃ x ∈ Mask.toList m, 32 * r.toNat + l = 32 * r.toNat + x) ↔ m.getLsbD l = true := by
          constructor
          · rintro ⟨x, hx, e⟩; have : x = l := by omega
            subst this; exact ((Mask.mem_toList m x).1 hx).2
          · intro h; exact ⟨l, (Mask.mem_toList m l).2 ⟨hl, h⟩, rfl⟩
        have e : 32 * r.toNat + l - 32 * r.toNat = l := by omega
        by_cases hb : m.getLsbD l = true
        · rw [if_pos (this.2 hb), if_pos ⟨hd, rfl, hb⟩, e]
        · rw [if_neg (fun h => hb (this.1 h)), if_neg (fun h => hb h.2.2)]
      · have : ¬ ∃ x ∈ Mask.toList m, 32 * r.toNat + l = 32 * d.toNat + x := by
          rintro ⟨x, hx, e⟩
          have hx := ((Mask.mem_toList m x).1 hx).1
          have : r.toNat = d.toNat := by omega
          exact he (BitVec.eq_of_toNat_eq this)
        simp [this, he]

/-- A lane instruction completes, and writes the active lanes of its destination. -/
theorem laneOp_writes {i : Instr} {s : State} (h : Passes i s) (d : VReg) (f : Env → Nat → Word) :
    ∃ t, laneOp i s d f = .next t ∧ WritesV i s t d (f (s.env i)) 0 := by
  refine ⟨_, by unfold laneOp plain; rw [gate_passes h]; exact commit_setStand i s _, ?_⟩
  have ha := setV_alike s.me d.toNat (Mask.toList (s.acts i)) (f (s.env i))
  refine ⟨regStep_committed i s _ ha, fun l hl => ?_, fun r l hl hr => ?_, ?_, ⟨?_⟩, ⟨?_, ?_⟩, ⟨?_⟩⟩
  · have := vreg_setV s.me d d (s.acts i) (f (s.env i)) l hl
    rw [me_setStand]
    simp only [Stand.vreg, committed_vregs] at this ⊢
    simpa [Env.putV, Env.lanes] using this
  · have := vreg_setV s.me d r (s.acts i) (f (s.env i)) l hl
    rw [me_setStand]
    simp only [Stand.vreg, committed_vregs] at this ⊢
    simpa [Env.putV, Env.lanes, hr] using this
  all_goals (rw [me_setStand]; simp [Env.putV, Stand.setV]; split <;> simp)

end Sys2Proof.Machine
end

