-- ==== Sys2Proof/Laws/Issue.lean ====
section
/-! SUPPORT. What the shared operations of the instructions that issue can answer: a charge, an operation that becomes outstanding, an access, a detached
operation. -/

namespace Sys2Proof.Machine

/-! ### Charges (R151, R152, R155) -/

/-- A charge that fits is taken, and the instruction goes on. -/
theorem charge_ok {e : Env} {s : State} {cls fixed b drawn : Nat} (h : chargeAns s e.key e.idx cls fixed b = .ok drawn) (k : State → Nat → Out?) :
    e.charge s cls fixed b k = k (s.takeCharge e.key e.idx fixed b drawn) drawn := by
  simp only [Env.charge, h]

/-- All that a charge can answer: it is taken, it traps with VXEXCEED, or the path waits for it. -/
theorem charge_cases (e : Env) (s : State) (cls fixed b : Nat) (k : State → Nat → Out?) :
    (∃ drawn, chargeAns s e.key e.idx cls fixed b = .ok drawn ∧ e.charge s cls fixed b k = k (s.takeCharge e.key e.idx fixed b drawn) drawn) ∨
    (∃ v hl, chargeAns s e.key e.idx cls fixed b = .exceed v hl ∧ e.charge s cls fixed b k = e.raise s Cause.vxexceed v) ∨
    (chargeAns s e.key e.idx cls fixed b = .stall ∧ ∃ u, e.charge s cls fixed b k = e.wait u .vacate ∧ u.mem = s.mem ∧ u.outs = s.outs ∧
      ∀ j, j ≠ e.key → u.stand j = s.stand j) := by
  cases h : chargeAns s e.key e.idx cls fixed b with
  | ok d => exact .inl ⟨d, rfl, charge_ok h k⟩
  | exceed v hl => exact .inr (.inl ⟨v, hl, rfl, by simp only [Env.charge, h]⟩)
  | stall =>
    refine .inr (.inr ⟨rfl, _, by simp only [Env.charge, h]; rfl, ?_, ?_, ?_⟩)
    · simp only [State.modSlot]; split <;> rfl
    · simp only [State.modSlot]; split <;> rfl
    · intro j hj
      simp only [State.modSlot, State.modStand]; split <;> simp [hj, State.modCore]

@[simp] theorem modSlot_mem (s : State) (k c : Nat) (f : CtxSlot → CtxSlot) : (s.modSlot k c f).mem = s.mem := by
  unfold State.modSlot; split <;> rfl
@[simp] theorem modSlot_outs (s : State) (k c : Nat) (f : CtxSlot → CtxSlot) : (s.modSlot k c f).outs = s.outs := by
  unfold State.modSlot; split <;> rfl
@[simp] theorem modSlot_stands (s : State) (k c : Nat) (f : CtxSlot → CtxSlot) : (s.modSlot k c f).stands = s.stands := by
  unfold State.modSlot; split <;> rfl
@[simp] theorem modSlot_stand (s : State) (k c : Nat) (f : CtxSlot → CtxSlot) (j : Nat) : (s.modSlot k c f).stand j = s.stand j := by
  simp only [State.stand, modSlot_stands]

/-- A charge that is taken changes a stand's reservation and the context slot's terms, and nothing else that these lemmas name. -/
theorem takeCharge_stand (s : State) (key idx fixed b drawn j : Nat) : (s.takeCharge key idx fixed b drawn).stand j =
    if j = key then { s.stand key with avail := (s.stand key).avail - drawn, lent := (s.stand key).lent + drawn } else s.stand j := by
  simp [State.takeCharge, State.modStand]
@[simp] theorem takeCharge_mem (s : State) (key idx fixed b drawn : Nat) : (s.takeCharge key idx fixed b drawn).mem = s.mem := by
  simp [State.takeCharge, State.modStand]
@[simp] theorem takeCharge_outs (s : State) (key idx fixed b drawn : Nat) : (s.takeCharge key idx fixed b drawn).outs = s.outs := by
  simp [State.takeCharge, State.modStand]

/-! ### An operation becomes outstanding (R48) -/

theorem issue_outs (s : State) (o : Out) (j : Nat) : SMap.get? (s.issue o).outs j = if j = s.nextId then some o else SMap.get? s.outs j := by
  show SMap.get? (SMap.insert s.outs s.nextId o) j = _
  exact SMap.get?_insert s.outs s.nextId o j

theorem issue_stand (s : State) (o : Out) (j : Nat) : (s.issue o).stand j =
    if j = o.st then (s.stand o.st).setCount o.ctr ((s.stand o.st).count o.ctr + 1) else s.stand j := by
  simp only [State.issue, State.modStand, State.stand_setStand]; rfl

@[simp] theorem issue_mem (s : State) (o : Out) : (s.issue o).mem = s.mem := rfl
@[simp] theorem issue_nextId (s : State) (o : Out) : (s.issue o).nextId = s.nextId + 1 := rfl

/-! ### Accesses and detached operations -/

/-- An access that an ordering rule holds back waits. -/
theorem access_waits {e : Env} {s : State} {scalar : Bool} {nd : Need} {ask : List (Nat × DWord)} {pl : Plan} {w : Acc → Nat} {mk : List Acc → Work}
    {lanesOf : List Acc → Mask} {upd : List Acc → Stand → Stand} {why : Wait} (h : e.accessWait s pl.read (pl.ordered && modeRel e.st.mode) = some why) :
    e.access s scalar nd ask pl w mk lanesOf upd = e.wait s why := by
  simp only [Env.access, h]

/-- An access whose checks find a trap raises it; nothing of it performs (R131, R254). -/
theorem access_traps {e : Env} {s s1 : State} {scalar : Bool} {nd : Need} {ask : List (Nat × DWord)} {pl : Plan} {w : Acc → Nat} {mk : List Acc → Work}
    {lanesOf : List Acc → Mask} {upd : List Acc → Stand → Stand} {c : Nat} {v : DWord} {m : Mask}
    (h : e.accessWait s pl.read (pl.ordered && modeRel e.st.mode) = none) (hs : s.access e.key scalar nd ask = (s1, .trap c v m)) :
    e.access s scalar nd ask pl w mk lanesOf upd =
      if scalar then e.trapFor s1 c (e.flatTval c v) e.em else e.trapFor s1 c v m := by
  simp only [Env.access, h, hs]

/-- The first issue of an access with every lane through its checks, no copy in flight or failed on its bytes, no failed table, and room, is charged, issued
and committed. -/
theorem access_issues {e : Env} {s s1 : State} {scalar : Bool} {nd : Need} {ask : List (Nat × DWord)} {pl : Plan} {w : Acc → Nat} {mk : List Acc → Work}
    {lanesOf : List Acc → Mask} {upd : List Acc → Stand → Stand} {accs : List Acc} {low : DWord} {drawn : Nat}
    (h : e.accessWait s pl.read (pl.ordered && modeRel e.st.mode) = none) (hs : s.access e.key scalar nd ask = (s1, .go accs 0 low))
    (hf : (accs.any fun a => (a.pl.span (w a)).any (s1.rangeHeld pl.meet)) = false) (hr : e.full s1 pl.ctr = false)
    (hu : pl.read = true → e.st.failedInto (accs.flatMap fun a => a.pl.span (w a)) (e.tablesRead pl.ordered accs) = none)
    (ho : e.own = none) (hc : chargeAns s1 e.key e.idx pl.cls pl.vu 0 = .ok drawn) :
    e.access s scalar nd ask pl w mk lanesOf upd =
      let s2 := s1.takeCharge e.key e.idx pl.vu 0 drawn
      let o := { e.op s2 pl.cls pl.vu drawn 0 pl.ctr (lanesOf accs) (mk accs) with
        mode := if pl.ordered then e.st.mode else 0, remote := s2.remoteOf (accs.map (·.pl)) }
      e.commit ((if pl.ordered then e.issueOrdered s2 o else s2.issue o).modStand e.key (upd accs)) := by
  have hn : (if pl.read = true then e.st.failedInto (accs.flatMap fun a => a.pl.span (w a)) (e.tablesRead pl.ordered accs) else none) = none := by
    by_cases hp : pl.read = true
    · rw [if_pos hp, hu hp]
    · rw [if_neg hp]
  simp only [Env.access, h, hs, hf, hr, ho, Env.unlessFailed, hn, Env.issueAccess, charge_ok hc, State.closeLead]
  simp

/-- A detached operation that nothing holds back releases, is charged, issued and committed (R50, R219). -/
theorem detach_issues {e : Env} {s : State} {ctr : Ctr} {rel acq : Option Nat} {ask : Ask} {far : Option Nat} {drawn : Nat}
    (ha : rel.isSome = true → s.accessesDone e.st.uid = true) (hr : e.full s ctr = false)
    (hc : chargeAns s e.key e.idx Cls.detach Config.chargeDetach 0 = .ok drawn) :
    e.detach s ctr rel acq ask far =
      let s1 := s.takeCharge e.key e.idx Config.chargeDetach 0 drawn
      let s2 := match rel with
        | some sc => s1.startRelease e.key sc false
        | none => s1
      e.commit (s2.issue { e.op s2 Cls.detach Config.chargeDetach drawn 0 ctr e.act (.det .sent ask {}) with acq := acq, remote := far }) := by
  unfold Env.detach
  have : (rel.isSome && !s.accessesDone e.st.uid) = false := by
    cases h : rel.isSome
    · rfl
    · simp [ha h]
  rw [this, hr, charge_ok hc]
  rfl

end Sys2Proof.Machine
end

