-- ==== Sys2Proof/Laws/Memory.lean ====
section
/-! SUPPORT. Memory: reading a byte after a write, that a write leaves every other byte alone, and that every operation which changes memory keeps its
canonical form. -/

namespace Sys2Proof.Machine

/-! ### Read after write -/

theorem homeByte_putHome (s : State) (pa a : Nat) (b : Byte) : (s.putHome pa b).homeByte a = if a = pa then b else s.homeByte a :=
  SMap.get_set 0 s.mem pa b a

theorem homeByte_putHomes_outside (s : State) (pa a : Nat) (bs : List Byte) (h : a < pa ∨ pa + bs.length ≤ a) :
    (s.putHomes pa bs).homeByte a = s.homeByte a := by
  induction bs generalizing s pa with
  | nil => rfl
  | cons b bs ih =>
    simp only [List.length_cons] at h
    rw [State.putHomes, ih _ _ (by omega), homeByte_putHome, if_neg (by omega)]

theorem homeByte_putHomes_inside (s : State) (pa i : Nat) (bs : List Byte) (h : i < bs.length) :
    (s.putHomes pa bs).homeByte (pa + i) = bs[i] := by
  induction bs generalizing s pa i with
  | nil => simp at h
  | cons b bs ih =>
    rw [State.putHomes]
    cases i with
    | zero => rw [homeByte_putHomes_outside _ _ _ _ (by omega), homeByte_putHome]; simp
    | succ i =>
      have := ih (s.putHome pa b) (pa + 1) i (by simpa using h)
      rw [show pa + (i + 1) = pa + 1 + i by omega]
      simpa using this

/-! ### The canonical form -/

theorem memOk_of_mem {s t : State} (h : s.MemOk) (e : t.mem = s.mem) : t.MemOk := by unfold State.MemOk; rw [e]; exact h

theorem memOk_reset : State.reset.MemOk := rfl

theorem memOk_putHome {s : State} (pa : Nat) (b : Byte) (h : s.MemOk) : (s.putHome pa b).MemOk := SMap.wf_set pa b h

theorem memOk_putHomes {s : State} (pa : Nat) (bs : List Byte) (h : s.MemOk) : (s.putHomes pa bs).MemOk := by
  induction bs generalizing s pa with
  | nil => exact h
  | cons b bs ih => exact ih _ (memOk_putHome pa b h)

theorem memOk_zeroRange {s : State} (pa n : Nat) (h : s.MemOk) : (s.zeroRange pa n).MemOk := SMap.wf_filter _ h

/-- A fold of operations that each keep the form keeps it. -/
theorem memOk_foldl {α : Type} (f : State → α → State) (hf : ∀ s x, s.MemOk → (f s x).MemOk) (l : List α) {s : State} (h : s.MemOk) :
    (l.foldl f s).MemOk := by
  induction l generalizing s with
  | nil => exact h
  | cons x l ih => exact ih (hf s x h)

theorem memOk_storePoc {s : State} (k sc pa : Nat) (b : Byte) (h : s.MemOk) : (s.storePoc k sc pa b).MemOk := by
  simp only [State.storePoc]
  split
  · exact h
  · split
    · exact h
    · exact memOk_putHome pa b h

theorem memOk_modDie {s : State} (d : Nat) (f : Die → Die) (h : s.MemOk) : (s.modDie d f).MemOk := h
theorem memOk_modCtx {s : State} (c : Nat) (f : Ctx → Ctx) (h : s.MemOk) : (s.modCtx c f).MemOk := h
theorem memOk_modCore {s : State} (k : Nat) (f : Core → Core) (h : s.MemOk) : (s.modCore k f).MemOk := h
theorem memOk_setCopse {s : State} (k : Nat) (x : Copse) (h : s.MemOk) : (s.setCopse k x).MemOk := h
theorem memOk_modStand {s : State} (k : Nat) (f : Stand → Stand) (h : s.MemOk) : (s.modStand k f).MemOk := h
theorem memOk_modLine {s : State} (k pa : Nat) (f : Line → Line) (h : s.MemOk) : (s.modLine k pa f).MemOk := h
theorem memOk_modCopseLine {s : State} (cp pa : Nat) (f : Line → Line) (h : s.MemOk) : (s.modCopseLine cp pa f).MemOk := h
theorem memOk_tell {s : State} (m : Msg) (h : s.MemOk) : (s.tell m).MemOk := h

/-- A machine check's report keeps it: the record goes to a die's error log. -/
theorem memOk_logError {s : State} (d : Nat) (r : MCheck) (h : s.MemOk) : (s.logError d r).MemOk := by
  simp only [State.logError]
  split
  · exact h
  · exact memOk_modDie _ _ (memOk_putHomes _ _ h)

theorem memOk_grouplineCheck {s : State} (c d pa : Nat) (h : s.MemOk) : (s.grouplineCheck c d pa).MemOk :=
  memOk_logError d _ (memOk_tell _ (memOk_tell _ (memOk_modCtx _ _ h)))

theorem memOk_disownOp {s : State} (op : Nat) (h : s.MemOk) : (s.disownOp op).MemOk := h

theorem memOk_lostWrite {s : State} (d : Nat) (w : Owner) (h : s.MemOk) : (s.lostWrite d w).MemOk := by
  have h1 := memOk_disownOp w.op h
  simp only [State.lostWrite]
  split
  · exact memOk_grouplineCheck _ _ _ h1
  · split
    · exact memOk_grouplineCheck _ _ _ h1
    · split
      · exact h1
      · exact memOk_modStand _ _ h1

theorem memOk_outBytes {s : State} (d base : Nat) (l : Line) (h : s.MemOk) : (s.outBytes d base l).MemOk := by
  have hs := memOk_foldl (fun u o => u.putHome (base + o) (l.byte o)) (fun _ o hu => memOk_putHome (base + o) (l.byte o) hu)
    (l.dirtyOffs.filter fun o => !s.liveAt (base + o)) h
  exact memOk_foldl _ (fun _ w hu => memOk_lostWrite d w hu) _ hs

/-- A line that leaves a cache keeps memory's form. -/
theorem memOk_outLineCopse {s : State} (k n : Nat) (h : s.MemOk) : (outLineCopse k s n).MemOk := by
  simp only [outLineCopse]
  split
  · exact h
  · exact memOk_outBytes _ _ _ (memOk_modCopseLine _ _ _ h)

theorem memOk_outLineCore {s : State} (k sc n : Nat) (h : s.MemOk) : (outLineCore k sc s n).MemOk := by
  simp only [outLineCore]
  split
  · exact h
  · split
    · exact memOk_modCopseLine _ _ _ (memOk_modLine _ _ _ h)
    · exact memOk_outBytes _ _ _ (memOk_modCopseLine _ _ _ (memOk_modLine _ _ _ h))

/-- A release keeps memory's form. -/
theorem memOk_publishCore {s : State} (k sc : Nat) (h : s.MemOk) : (s.publishCore k sc).MemOk := by
  simp only [State.publishCore]
  split
  · exact h
  · refine memOk_foldl _ (fun s x hs => memOk_outLineCore k sc x hs) _ ?_
    split
    · exact h
    · exact memOk_foldl _ (fun s x hs => memOk_outLineCopse k x hs) _ h

theorem memOk_flushLine {s : State} (k pa : Nat) (h : s.MemOk) : (s.flushLine k pa).MemOk :=
  memOk_outLineCore k 3 _ (memOk_outLineCopse k _ h)

theorem memOk_evictCore {s : State} (k n : Nat) (h : s.MemOk) : (evictCore k s n).MemOk :=
  memOk_modCore _ _ (memOk_flushLine k _ (memOk_flushLine k _ h))
theorem memOk_evictCopse {s : State} (cp n : Nat) (h : s.MemOk) : (evictCopse cp s n).MemOk :=
  memOk_setCopse _ _ (memOk_outLineCopse _ _ (memOk_outLineCopse _ n h))

/-- What every step does to caches that are over their capacity keeps it. -/
theorem memOk_trimCaches {s : State} (h : s.MemOk) : s.trimCaches.MemOk := by
  simp only [State.trimCaches]
  split
  · exact h
  refine memOk_foldl _ (fun u kv hu => ?_) _ (memOk_foldl _ (fun u kv hu => ?_) _ h)
  · split
    · exact hu
    · exact memOk_foldl _ (fun v n hv => memOk_evictCopse kv.1 n hv) _ hu
  · split
    · exact hu
    · exact memOk_foldl _ (fun v n hv => memOk_evictCore kv.1 n hv) _ hu

theorem memOk_putScr {s : State} (g off : Nat) (b : Byte) (h : s.MemOk) : (s.putScr g off b).MemOk := by
  simp only [State.putScr]
  split
  · exact h
  · split
    · exact memOk_putHome _ _ h
    · exact h

theorem memOk_writePlace {s : State} (k : Nat) (sc : Option Nat) (b : Byte) (p : Place) (h : s.MemOk) : (s.writePlace k sc b p).MemOk := by
  cases p with
  | scr g off => exact memOk_putScr g off b h
  | mem pa => cases sc with
    | none => exact h
    | some c => exact memOk_storePoc k c pa b h

theorem memOk_putWord {s : State} (pa : Nat) (w : Word) (h : s.MemOk) : (s.putWord pa w).MemOk := memOk_putHomes pa _ h

theorem memOk_putParts {s : State} (pa : Nat) (parts : List (Nat × List Byte)) (h : s.MemOk) : (s.putParts pa parts).MemOk :=
  memOk_foldl _ (fun _ p hs => memOk_putHomes (pa + p.1) p.2 hs) parts h

theorem memOk_sealImage {s : State} (k : Kernel) (pa : Nat) (h : s.MemOk) : (s.sealImage k pa).MemOk := memOk_putHomes _ _ h

/-- A trace record keeps it. -/
theorem memOk_traceRec {s : State} (key idx type : Nat) (body : List Byte) (h : s.MemOk) : (s.traceRec key idx type body).MemOk := by
  simp only [State.traceRec]
  repeat' split
  all_goals first
    | exact h
    | exact memOk_modCore _ _ (memOk_putHomes _ _ h)

theorem memOk_putEntry {s : State} (pa e : Nat) (h : s.MemOk) : (s.putEntry pa e).MemOk := memOk_putHomes pa _ h

/-- A state in which a program has been placed has memory in its canonical form. -/
theorem memOk_place {s : State} (bytes : List Byte) (h : s.MemOk) : (s.place bytes).MemOk :=
  memOk_of_mem (memOk_putHomes _ bytes (memOk_putEntry _ _ (memOk_putEntry _ _ (memOk_putEntry _ _ h)))) rfl

end Sys2Proof.Machine
end

