-- ==== Sys2Proof/Laws/PerInstr.lean ====
section
/-! SUPPORT. One lemma for each constructor of `Instr`: an encoded instruction's OP is of K format exactly when a literal follows its word (R57), and
a step that has no encoding has none. -/

namespace Sys2Proof.Laws.Encoded

/-- A literal follows the word of a well-formed instruction exactly when its OP is of K format. -/
def Statement (i : Instr) : Prop := ∀ r lit, i.wellFormed = true → encodeRaw i = some (r, lit) → isKFormat r.op = lit.isSome

/-- The common case: OP and literal are what the encoder says. -/
theorem of_encoding {i : Instr} (x : Raw × Option Word) (e : encodeRaw i = some x) (h : isKFormat x.1.op = x.2.isSome) : Statement i := by
  intro r lit _ he
  rw [e] at he
  cases he
  exact h

/-- A step without an encoding. -/
theorem of_none {i : Instr} (e : encodeRaw i = none) : Statement i := by
  intro r lit _ he
  rw [e] at he
  cases he

theorem illegal (word : Word) : Statement (.illegal word) := by
  intro r lit hw he
  simp only [Instr.wellFormed, decide_eq_true_eq] at hw
  simp only [encodeRaw, Option.some.injEq, Prod.mk.injEq] at he
  obtain ⟨rfl, rfl⟩ := he
  show isKFormat (word.extractLsb' 21 7) = false
  rw [hw]; rfl
theorem nop (h : Hdr) : Statement (.nop h) := of_encoding _ rfl rfl
theorem bra (h : Hdr) (neg : Bool) (p : PReg) (tgt : BitVec 16) (jn : BitVec 16) : Statement (.bra h neg p tgt jn) := of_encoding _ rfl rfl
theorem brx (h : Hdr) (n : BitVec 7) (a : VReg) (b : SReg) : Statement (.brx h n a b) := of_encoding _ rfl rfl
theorem join (h : Hdr) : Statement (.join h) := of_encoding _ rfl rfl
theorem call (h : Hdr) (d : SReg) (lit : Word) : Statement (.call h d lit) := of_encoding _ rfl rfl
theorem ret (h : Hdr) (a : SReg) : Statement (.ret h a) := of_encoding _ rfl rfl
theorem exit (h : Hdr) : Statement (.exit h) := of_encoding _ rfl rfl
theorem wait (h : Hdr) (lit : Word) : Statement (.wait h lit) := of_encoding _ rfl rfl
theorem yield (h : Hdr) : Statement (.yield h) := of_encoding _ rfl rfl
theorem spawn (h : Hdr) (d : SReg) (a : SReg) (lit : Word) : Statement (.spawn h d a lit) := of_encoding _ rfl rfl
theorem trap (h : Hdr) (a : SReg) (code : BitVec 7) : Statement (.trap h a code) := of_encoding _ rfl rfl
theorem eret (h : Hdr) : Statement (.eret h) := of_encoding _ rfl rfl
theorem brk (h : Hdr) : Statement (.brk h) := of_encoding _ rfl rfl
theorem idem (h : Hdr) : Statement (.idem h) := of_encoding _ rfl rfl
theorem mode (h : Hdr) (msk : BitVec 7) (lit : Word) : Statement (.mode h msk lit) := of_encoding _ rfl rfl
theorem iadd (h : Hdr) (d : VReg) (a : VReg) (b : VReg) : Statement (.iadd h d a b) := of_encoding _ rfl rfl
theorem isub (h : Hdr) (d : VReg) (a : VReg) (b : VReg) : Statement (.isub h d a b) := of_encoding _ rfl rfl
theorem imul (h : Hdr) (d : VReg) (a : VReg) (b : VReg) : Statement (.imul h d a b) := of_encoding _ rfl rfl
theorem imulh (h : Hdr) (d : VReg) (a : VReg) (b : VReg) : Statement (.imulh h d a b) := of_encoding _ rfl rfl
theorem imad (h : Hdr) (d : VReg) (a : VReg) (b : VReg) : Statement (.imad h d a b) := of_encoding _ rfl rfl
theorem imin (h : Hdr) (d : VReg) (a : VReg) (b : VReg) : Statement (.imin h d a b) := of_encoding _ rfl rfl
theorem imax (h : Hdr) (d : VReg) (a : VReg) (b : VReg) : Statement (.imax h d a b) := of_encoding _ rfl rfl
theorem and (h : Hdr) (d : VReg) (a : VReg) (b : VReg) : Statement (.and h d a b) := of_encoding _ rfl rfl
theorem or (h : Hdr) (d : VReg) (a : VReg) (b : VReg) : Statement (.or h d a b) := of_encoding _ rfl rfl
theorem xor (h : Hdr) (d : VReg) (a : VReg) (b : VReg) : Statement (.xor h d a b) := of_encoding _ rfl rfl
theorem shl (h : Hdr) (d : VReg) (a : VReg) (b : VReg) : Statement (.shl h d a b) := of_encoding _ rfl rfl
theorem shr (h : Hdr) (d : VReg) (a : VReg) (b : VReg) : Statement (.shr h d a b) := of_encoding _ rfl rfl
theorem sar (h : Hdr) (d : VReg) (a : VReg) (b : VReg) : Statement (.sar h d a b) := of_encoding _ rfl rfl
theorem iset (h : Hdr) (c : BitVec 3) (p : BitVec 4) (a : VReg) (b : VReg) : Statement (.iset h c p a b) := of_encoding _ rfl rfl
theorem sel (h : Hdr) (d : VReg) (a : VReg) (p : PReg) : Statement (.sel h d a p) := of_encoding _ rfl rfl
theorem idp4 (h : Hdr) (d : VReg) (a : VReg) (b : VReg) : Statement (.idp4 h d a b) := of_encoding _ rfl rfl
theorem fadd (h : Hdr) (d : VReg) (a : VReg) (b : VReg) : Statement (.fadd h d a b) := of_encoding _ rfl rfl
theorem fsub (h : Hdr) (d : VReg) (a : VReg) (b : VReg) : Statement (.fsub h d a b) := of_encoding _ rfl rfl
theorem fmul (h : Hdr) (d : VReg) (a : VReg) (b : VReg) : Statement (.fmul h d a b) := of_encoding _ rfl rfl
theorem ffma (h : Hdr) (d : VReg) (a : VReg) (b : VReg) : Statement (.ffma h d a b) := of_encoding _ rfl rfl
theorem fmin (h : Hdr) (d : VReg) (a : VReg) (b : VReg) : Statement (.fmin h d a b) := of_encoding _ rfl rfl
theorem fmax (h : Hdr) (d : VReg) (a : VReg) (b : VReg) : Statement (.fmax h d a b) := of_encoding _ rfl rfl
theorem fset (h : Hdr) (c : BitVec 3) (p : BitVec 4) (a : VReg) (b : VReg) : Statement (.fset h c p a b) := of_encoding _ rfl rfl
theorem fdp2 (h : Hdr) (d : VReg) (a : VReg) (b : VReg) : Statement (.fdp2 h d a b) := of_encoding _ rfl rfl
theorem mov (h : Hdr) (d : VReg) (a : VReg) : Statement (.mov h d a) := of_encoding _ rfl rfl
theorem not (h : Hdr) (d : VReg) (a : VReg) : Statement (.not h d a) := of_encoding _ rfl rfl
theorem iabs (h : Hdr) (d : VReg) (a : VReg) : Statement (.iabs h d a) := of_encoding _ rfl rfl
theorem ineg (h : Hdr) (d : VReg) (a : VReg) : Statement (.ineg h d a) := of_encoding _ rfl rfl
theorem popc (h : Hdr) (d : VReg) (a : VReg) : Statement (.popc h d a) := of_encoding _ rfl rfl
theorem clz (h : Hdr) (d : VReg) (a : VReg) : Statement (.clz h d a) := of_encoding _ rfl rfl
theorem brev (h : Hdr) (d : VReg) (a : VReg) : Statement (.brev h d a) := of_encoding _ rfl rfl
theorem lrank (h : Hdr) (d : VReg) (a : VReg) : Statement (.lrank h d a) := of_encoding _ rfl rfl
theorem lidx (h : Hdr) (d : VReg) : Statement (.lidx h d) := of_encoding _ rfl rfl
theorem fabs (h : Hdr) (d : VReg) (a : VReg) : Statement (.fabs h d a) := of_encoding _ rfl rfl
theorem fneg (h : Hdr) (d : VReg) (a : VReg) : Statement (.fneg h d a) := of_encoding _ rfl rfl
theorem frcp (h : Hdr) (d : VReg) (a : VReg) : Statement (.frcp h d a) := of_encoding _ rfl rfl
theorem frsq (h : Hdr) (d : VReg) (a : VReg) : Statement (.frsq h d a) := of_encoding _ rfl rfl
theorem fsqrt (h : Hdr) (d : VReg) (a : VReg) : Statement (.fsqrt h d a) := of_encoding _ rfl rfl
theorem fexp2 (h : Hdr) (d : VReg) (a : VReg) : Statement (.fexp2 h d a) := of_encoding _ rfl rfl
theorem flog2 (h : Hdr) (d : VReg) (a : VReg) : Statement (.flog2 h d a) := of_encoding _ rfl rfl
theorem fsin (h : Hdr) (d : VReg) (a : VReg) : Statement (.fsin h d a) := of_encoding _ rfl rfl
theorem fcos (h : Hdr) (d : VReg) (a : VReg) : Statement (.fcos h d a) := of_encoding _ rfl rfl
theorem cvt (h : Hdr) (src : BitVec 4) (d : VReg) (a : VReg) : Statement (.cvt h src d a) := of_encoding _ rfl rfl
theorem iaddk (h : Hdr) (d : VReg) (a : VReg) (lit : Word) : Statement (.iaddk h d a lit) := of_encoding _ rfl rfl
theorem movk (h : Hdr) (d : VReg) (lit : Word) : Statement (.movk h d lit) := of_encoding _ rfl rfl
theorem csrr (h : Hdr) (d : SReg) (n : BitVec 14) : Statement (.csrr h d n) := of_encoding _ rfl rfl
theorem csrw (h : Hdr) (d : SReg) (n : BitVec 14) : Statement (.csrw h d n) := of_encoding _ rfl rfl
theorem pand (h : Hdr) (d : PReg) (a : PReg) (b : PReg) : Statement (.pand h d a b) := of_encoding _ rfl rfl
theorem por (h : Hdr) (d : PReg) (a : PReg) (b : PReg) : Statement (.por h d a b) := of_encoding _ rfl rfl
theorem pxor (h : Hdr) (d : PReg) (a : PReg) (b : PReg) : Statement (.pxor h d a b) := of_encoding _ rfl rfl
theorem pandn (h : Hdr) (d : PReg) (a : PReg) (b : PReg) : Statement (.pandn h d a b) := of_encoding _ rfl rfl
theorem p2s (h : Hdr) (d : SReg) (a : PReg) : Statement (.p2s h d a) := of_encoding _ rfl rfl
theorem s2p (h : Hdr) (d : PReg) (a : SReg) : Statement (.s2p h d a) := of_encoding _ rfl rfl
theorem lshf (h : Hdr) (d : VReg) (a : VReg) (b : VReg) : Statement (.lshf h d a b) := of_encoding _ rfl rfl
theorem lbcs (h : Hdr) (d : VReg) (a : VReg) (lane : BitVec 5) : Statement (.lbcs h d a lane) := of_encoding _ rfl rfl
theorem lmatch (h : Hdr) (d : VReg) (a : VReg) : Statement (.lmatch h d a) := of_encoding _ rfl rfl
theorem lpfx (h : Hdr) (d : VReg) (a : VReg) (excl : Bool) : Statement (.lpfx h d a excl) := of_encoding _ rfl rfl
theorem lred (h : Hdr) (d : VReg) (a : VReg) (kind : BitVec 2) : Statement (.lred h d a kind) := of_encoding _ rfl rfl
theorem lvote (h : Hdr) (kind : BitVec 2) (p : BitVec 4) (a : PReg) : Statement (.lvote h kind p a) := of_encoding _ rfl rfl
theorem xchg (h : Hdr) (d : VReg) (a : VReg) (hd : HReg) : Statement (.xchg h d a hd) := of_encoding _ rfl rfl
theorem v2s (h : Hdr) (d : SReg) (a : VReg) (lane : BitVec 5) : Statement (.v2s h d a lane) := of_encoding _ rfl rfl
theorem s2v (h : Hdr) (d : VReg) (a : SReg) (hi : Bool) : Statement (.s2v h d a hi) := of_encoding _ rfl rfl
theorem sadd (h : Hdr) (d : SReg) (a : SReg) (b : SReg) : Statement (.sadd h d a b) := of_encoding _ rfl rfl
theorem ssub (h : Hdr) (d : SReg) (a : SReg) (b : SReg) : Statement (.ssub h d a b) := of_encoding _ rfl rfl
theorem smul (h : Hdr) (d : SReg) (a : SReg) (b : SReg) : Statement (.smul h d a b) := of_encoding _ rfl rfl
theorem sand (h : Hdr) (d : SReg) (a : SReg) (b : SReg) : Statement (.sand h d a b) := of_encoding _ rfl rfl
theorem sor (h : Hdr) (d : SReg) (a : SReg) (b : SReg) : Statement (.sor h d a b) := of_encoding _ rfl rfl
theorem sxor (h : Hdr) (d : SReg) (a : SReg) (b : SReg) : Statement (.sxor h d a b) := of_encoding _ rfl rfl
theorem sshl (h : Hdr) (d : SReg) (a : SReg) (b : SReg) : Statement (.sshl h d a b) := of_encoding _ rfl rfl
theorem sshr (h : Hdr) (d : SReg) (a : SReg) (b : SReg) : Statement (.sshr h d a b) := of_encoding _ rfl rfl
theorem sset (h : Hdr) (c : BitVec 3) (p : BitVec 4) (a : SReg) (b : SReg) : Statement (.sset h c p a b) := of_encoding _ rfl rfl
theorem smovk (h : Hdr) (d : SReg) (lit : Word) : Statement (.smovk h d lit) := of_encoding _ rfl rfl
theorem saddk (h : Hdr) (d : SReg) (a : SReg) (lit : Word) : Statement (.saddk h d a lit) := of_encoding _ rfl rfl
theorem sld (h : Hdr) (d : SReg) (a : SReg) : Statement (.sld h d a) := of_encoding _ rfl rfl
theorem sst (h : Hdr) (d : SReg) (a : SReg) : Statement (.sst h d a) := of_encoding _ rfl rfl
theorem ld (h : Hdr) (d : VReg) (a : VReg) (b : SReg) : Statement (.ld h d a b) := of_encoding _ rfl rfl
theorem st (h : Hdr) (d : VReg) (a : VReg) (b : SReg) : Statement (.st h d a b) := of_encoding _ rfl rfl
theorem pref (h : Hdr) (copse : Bool) (a : VReg) (b : SReg) : Statement (.pref h copse a b) := of_encoding _ rfl rfl
theorem phase (h : Hdr) (kind : BitVec 2) (scope : BitVec 3) : Statement (.phase h kind scope) := of_encoding _ rfl rfl
theorem acvt (h : Hdr) (toGen : Bool) (win : BitVec 2) (d : VReg) (a : VReg) : Statement (.acvt h toGen win d a) := of_encoding _ rfl rfl
theorem awin (h : Hdr) (d : PReg) (a : VReg) (kind : BitVec 2) : Statement (.awin h d a kind) := of_encoding _ rfl rfl
theorem discard (h : Hdr) (a : SReg) (b : SReg) : Statement (.discard h a b) := of_encoding _ rfl rfl
theorem aadd (h : Hdr) (d : VReg) (a : VReg) (b : VReg) : Statement (.aadd h d a b) := of_encoding _ rfl rfl
theorem amin (h : Hdr) (d : VReg) (a : VReg) (b : VReg) : Statement (.amin h d a b) := of_encoding _ rfl rfl
theorem amax (h : Hdr) (d : VReg) (a : VReg) (b : VReg) : Statement (.amax h d a b) := of_encoding _ rfl rfl
theorem aand (h : Hdr) (d : VReg) (a : VReg) (b : VReg) : Statement (.aand h d a b) := of_encoding _ rfl rfl
theorem aor (h : Hdr) (d : VReg) (a : VReg) (b : VReg) : Statement (.aor h d a b) := of_encoding _ rfl rfl
theorem axor (h : Hdr) (d : VReg) (a : VReg) (b : VReg) : Statement (.axor h d a b) := of_encoding _ rfl rfl
theorem axch (h : Hdr) (d : VReg) (a : VReg) (b : VReg) : Statement (.axch h d a b) := of_encoding _ rfl rfl
theorem acas (h : Hdr) (d : VReg) (a : VReg) (b : VReg) : Statement (.acas h d a b) := of_encoding _ rfl rfl
theorem tacc (h : Hdr) (d : AReg) (a : SReg) (lit : Word) : Statement (.tacc h d a lit) := of_encoding _ rfl rfl
theorem ast (h : Hdr) (d : AReg) (a : SReg) (lit : Word) : Statement (.ast h d a lit) := of_encoding _ rfl rfl
theorem ald (h : Hdr) (d : AReg) (a : SReg) (lit : Word) : Statement (.ald h d a lit) := of_encoding _ rfl rfl
theorem rflush (h : Hdr) (a : SReg) (b : SReg) : Statement (.rflush h a b) := of_encoding _ rfl rfl
theorem tagset (h : Hdr) (a : VReg) (b : VReg) : Statement (.tagset h a b) := of_encoding _ rfl rfl
theorem tagget (h : Hdr) (d : VReg) (a : VReg) : Statement (.tagget h d a) := of_encoding _ rfl rfl
theorem cpin (h : Hdr) (slot : Bool) (k : Tok) (a : SReg) (b : SReg) (rows : BitVec 12) (bytes : BitVec 20) : Statement (.cpin h slot k a b rows bytes) := of_encoding _ rfl rfl
theorem cpout (h : Hdr) (k : Tok) (a : SReg) (b : SReg) (rows : BitVec 12) (bytes : BitVec 20) : Statement (.cpout h k a b rows bytes) := of_encoding _ rfl rfl
theorem ktst (h : Hdr) (d : PReg) (k : Tok) : Statement (.ktst h d k) := of_encoding _ rfl rfl
theorem tmark (h : Hdr) (a : SReg) : Statement (.tmark h a) := of_encoding _ rfl rfl
theorem vres (h : Hdr) (a : SReg) : Statement (.vres h a) := of_encoding _ rfl rfl
theorem vrel (h : Hdr) : Statement (.vrel h) := of_encoding _ rfl rfl
theorem ptst (h : Hdr) (d : SReg) (a : SReg) : Statement (.ptst h d a) := of_encoding _ rfl rfl
theorem ptld (h : Hdr) (a : SReg) : Statement (.ptld h a) := of_encoding _ rfl rfl
theorem btake (h : Hdr) (matrix : Bool) : Statement (.btake h matrix) := of_encoding _ rfl rfl
theorem bpass (h : Hdr) (matrix : Bool) : Statement (.bpass h matrix) := of_encoding _ rfl rfl
theorem oclm (h : Hdr) (d : OReg) : Statement (.oclm h d) := of_encoding _ rfl rfl
theorem orel (h : Hdr) (d : OReg) : Statement (.orel h d) := of_encoding _ rfl rfl
theorem old (h : Hdr) (d : OReg) (a : SReg) (rows : BitVec 7) : Statement (.old h d a rows) := of_encoding _ rfl rfl
theorem mma (h : Hdr) (d : AReg) (a : OReg) (b : OReg) : Statement (.mma h d a b) := of_encoding _ rfl rfl
theorem azero (h : Hdr) (d : AReg) : Statement (.azero h d) := of_encoding _ rfl rfl
theorem amov (h : Hdr) (d : VReg) (a : AReg) (col : Bool) (n : BitVec 5) : Statement (.amov h d a col n) := of_encoding _ rfl rfl
theorem amovv (h : Hdr) (d : AReg) (a : VReg) (col : Bool) (n : BitVec 5) : Statement (.amovv h d a col n) := of_encoding _ rfl rfl
theorem gang (h : Hdr) (a : SReg) : Statement (.gang h a) := of_encoding _ rfl rfl
theorem cbld (h : Hdr) (tab : BitVec 3) (a : SReg) : Statement (.cbld h tab a) := of_encoding _ rfl rfl
theorem gcrt (h : Hdr) (d : SReg) (a : SReg) (b : HReg) : Statement (.gcrt h d a b) := of_encoding _ rfl rfl
theorem gjoin (h : Hdr) (d : SReg) (a : HReg) : Statement (.gjoin h d a) := of_encoding _ rfl rfl
theorem gleave (h : Hdr) (d : SReg) (a : HReg) : Statement (.gleave h d a) := of_encoding _ rfl rfl
theorem gbar (h : Hdr) (d : SReg) (a : HReg) : Statement (.gbar h d a) := of_encoding _ rfl rfl
theorem gvote (h : Hdr) (kind : BitVec 2) (p : BitVec 4) (a : HReg) (b : SReg) : Statement (.gvote h kind p a b) := of_encoding _ rfl rfl
theorem gred (h : Hdr) (d : SReg) (a : HReg) (b : SReg) (op : BitVec 2) : Statement (.gred h d a b op) := of_encoding _ rfl rfl
theorem ginfo (h : Hdr) (d : SReg) (a : HReg) : Statement (.ginfo h d a) := of_encoding _ rfl rfl
theorem gdel (h : Hdr) (d : SReg) (a : HReg) : Statement (.gdel h d a) := of_encoding _ rfl rfl
theorem h2s (h : Hdr) (d : SReg) (a : HReg) : Statement (.h2s h d a) := of_encoding _ rfl rfl
theorem s2h (h : Hdr) (d : HReg) (a : SReg) (clr : BitVec 4) : Statement (.s2h h d a clr) := of_encoding _ rfl rfl
theorem qenq (h : Hdr) (d : SReg) (a : HReg) (b : SReg) : Statement (.qenq h d a b) := of_encoding _ rfl rfl
theorem qdeq (h : Hdr) (d : SReg) (a : HReg) (b : SReg) : Statement (.qdeq h d a b) := of_encoding _ rfl rfl
theorem qsteal (h : Hdr) (d : SReg) (a : HReg) (b : SReg) : Statement (.qsteal h d a b) := of_encoding _ rfl rfl
theorem tdone (h : Hdr) (d : SReg) (a : SReg) : Statement (.tdone h d a) := of_encoding _ rfl rfl
theorem tfull (h : Hdr) (d : SReg) (a : SReg) : Statement (.tfull h d a) := of_encoding _ rfl rfl
theorem tempty (h : Hdr) (d : SReg) (a : SReg) : Statement (.tempty h d a) := of_encoding _ rfl rfl
theorem tstat (h : Hdr) (d : SReg) (a : SReg) : Statement (.tstat h d a) := of_encoding _ rfl rfl
theorem chapp (h : Hdr) (d : SReg) (a : HReg) (b : SReg) : Statement (.chapp h d a b) := of_encoding _ rfl rfl
theorem chadv (h : Hdr) (a : HReg) : Statement (.chadv h a) := of_encoding _ rfl rfl
theorem chseq (h : Hdr) (d : SReg) (a : HReg) : Statement (.chseq h d a) := of_encoding _ rfl rfl
theorem launchRecordEnqueue (q : Nat) (bytes : List Byte) : Statement (.launchRecordEnqueue q bytes) := of_none rfl
theorem grovePlacement (die : Nat) : Statement (.grovePlacement die) := of_none rfl
theorem colevelLaunchPlacement (die : Nat) : Statement (.colevelLaunchPlacement die) := of_none rfl
theorem stealMessage (die : Nat) : Statement (.stealMessage die) := of_none rfl
theorem standRetire (st : Nat) : Statement (.standRetire st) := of_none rfl
theorem completionCounterDecrement (l : Nat) : Statement (.completionCounterDecrement l) := of_none rfl
theorem forwardedRecord (msg : List Byte) : Statement (.forwardedRecord msg) := of_none rfl
theorem schedulerQuery (msg : List Byte) : Statement (.schedulerQuery msg) := of_none rfl
theorem greedyRunLimit (core : Nat) (quarter : Nat) : Statement (.greedyRunLimit core quarter) := of_none rfl
theorem contextSwitchTimeslice (core : Nat) : Statement (.contextSwitchTimeslice core) := of_none rfl
theorem contextSwitchIdle (core : Nat) : Statement (.contextSwitchIdle core) := of_none rfl
theorem speculationSquash (st : Nat) (path : Nat) : Statement (.speculationSquash st path) := of_none rfl
theorem pageFaultResolved (st : Nat) (path : Nat) : Statement (.pageFaultResolved st path) := of_none rfl
theorem pageFaultFatal (st : Nat) (path : Nat) : Statement (.pageFaultFatal st path) := of_none rfl
theorem loadDataReturn (op : Nat) : Statement (.loadDataReturn op) := of_none rfl
theorem storePerformed (op : Nat) : Statement (.storePerformed op) := of_none rfl
theorem atomicAtHome (op : Nat) (k : Nat) : Statement (.atomicAtHome op k) := of_none rfl
theorem atomicReply (op : Nat) : Statement (.atomicReply op) := of_none rfl
theorem combineEntryTimeout (core : Nat) (k : Nat) : Statement (.combineEntryTimeout core k) := of_none rfl
theorem publicationComplete (pub : Nat) : Statement (.publicationComplete pub) := of_none rfl
theorem copyComplete (op : Nat) : Statement (.copyComplete op) := of_none rfl
theorem oldFillComplete (op : Nat) : Statement (.oldFillComplete op) := of_none rfl
theorem mmaArrayStart (op : Nat) : Statement (.mmaArrayStart op) := of_none rfl
theorem mmaFinish (op : Nat) : Statement (.mmaFinish op) := of_none rfl
theorem aldComplete (op : Nat) : Statement (.aldComplete op) := of_none rfl
theorem astPerformed (op : Nat) : Statement (.astPerformed op) := of_none rfl
theorem cbldTableWrite (op : Nat) : Statement (.cbldTableWrite op) := of_none rfl
theorem tileOffer (core : Nat) : Statement (.tileOffer core) := of_none rfl
theorem tileHeaderAtHome (op : Nat) : Statement (.tileHeaderAtHome op) := of_none rfl
theorem tileGrant (op : Nat) : Statement (.tileGrant op) := of_none rfl
theorem tileRefused (op : Nat) : Statement (.tileRefused op) := of_none rfl
theorem tileReofferTimer (core : Nat) : Statement (.tileReofferTimer core) := of_none rfl
theorem residualRetryTimer (st : Nat) (slot : Nat) : Statement (.residualRetryTimer st slot) := of_none rfl
theorem flushRequestAtHome (op : Nat) : Statement (.flushRequestAtHome op) := of_none rfl
theorem tileApply (home : Nat) (op : Nat) : Statement (.tileApply home op) := of_none rfl
theorem groupOpAtController (op : Nat) : Statement (.groupOpAtController op) := of_none rfl
theorem groupReply (op : Nat) : Statement (.groupReply op) := of_none rfl
theorem gredCellsFree (die : Nat) : Statement (.gredCellsFree die) := of_none rfl
theorem queueOpAtController (op : Nat) : Statement (.queueOpAtController op) := of_none rfl
theorem remoteQenqMessage (m : Nat) : Statement (.remoteQenqMessage m) := of_none rfl
theorem counterDecrementAtHome (op : Nat) : Statement (.counterDecrementAtHome op) := of_none rfl
theorem successorEnqueueRetry (m : Nat) : Statement (.successorEnqueueRetry m) := of_none rfl
theorem bufferBitAtHome (op : Nat) : Statement (.bufferBitAtHome op) := of_none rfl
theorem ioEntryStart (chain : Nat) : Statement (.ioEntryStart chain) := of_none rfl
theorem ioEntryComplete (chain : Nat) (n : Nat) (dev : DevResult) : Statement (.ioEntryComplete chain n dev) := of_none rfl
theorem remoteOpTimeout (op : Nat) : Statement (.remoteOpTimeout op) := of_none rfl
theorem holdNotice (pelfold : Nat) : Statement (.holdNotice pelfold) := of_none rfl
theorem watchdogExpiry (st : Nat) : Statement (.watchdogExpiry st) := of_none rfl
theorem ccmdAdmit (c : Nat) : Statement (.ccmdAdmit c) := of_none rfl
theorem ccmdEnd (c : Nat) : Statement (.ccmdEnd c) := of_none rfl
theorem ccmdVacate (c : Nat) : Statement (.ccmdVacate c) := of_none rfl
theorem replySlotWrite (c : Nat) (op : Nat) : Statement (.replySlotWrite c op) := of_none rfl
theorem vacateComplete (c : Nat) : Statement (.vacateComplete c) := of_none rfl
theorem ccmdRestore (c : Nat) : Statement (.ccmdRestore c) := of_none rfl
theorem restoreGrovePlacement (die : Nat) : Statement (.restoreGrovePlacement die) := of_none rfl
theorem ccmdAttachDebugger (c : Nat) : Statement (.ccmdAttachDebugger c) := of_none rfl
theorem ccmdDetachDebugger (c : Nat) : Statement (.ccmdDetachDebugger c) := of_none rfl
theorem tlbInvalidateContext (die : Nat) (v : DWord) : Statement (.tlbInvalidateContext die v) := of_none rfl
theorem tlbInvalidateRange (die : Nat) (v : DWord) : Statement (.tlbInvalidateRange die v) := of_none rfl
theorem tlbInvalidationComplete (die : Nat) : Statement (.tlbInvalidationComplete die) := of_none rfl
theorem ddirWrite (die : Nat) (v : DWord) : Statement (.ddirWrite die v) := of_none rfl
theorem switchCommand (core : Nat) (v : DWord) : Statement (.switchCommand core v) := of_none rfl
theorem createQueue (die : Nat) (c : Nat) : Statement (.createQueue die c) := of_none rfl
theorem destroyQueue (die : Nat) (c : Nat) : Statement (.destroyQueue die c) := of_none rfl
theorem createChain (die : Nat) (c : Nat) : Statement (.createChain die c) := of_none rfl
theorem destroyChain (die : Nat) (c : Nat) : Statement (.destroyChain die c) := of_none rfl
theorem createEndpoint (die : Nat) (c : Nat) : Statement (.createEndpoint die c) := of_none rfl
theorem destroyEndpoint (die : Nat) (c : Nat) : Statement (.destroyEndpoint die c) := of_none rfl
theorem configRegisterWrite (addr : Nat) (size : Nat) (v : DWord) : Statement (.configRegisterWrite addr size v) := of_none rfl
theorem lockInterfaceRequest (i : Nat) : Statement (.lockInterfaceRequest i) := of_none rfl
theorem startInterfaceRequest (i : Nat) : Statement (.startInterfaceRequest i) := of_none rfl
theorem stopInterfaceRequest (i : Nat) : Statement (.stopInterfaceRequest i) := of_none rfl
theorem interfaceLinkError (i : Nat) : Statement (.interfaceLinkError i) := of_none rfl
theorem uncorrectableError (loc : ErrLoc) : Statement (.uncorrectableError loc) := of_none rfl
theorem errorSelfTest (tgt : TestTarget) (pass : Bool) : Statement (.errorSelfTest tgt pass) := of_none rfl
theorem coppiceScanEnd (die : Nat) (copse : Nat) (pass : Bool) : Statement (.coppiceScanEnd die copse pass) := of_none rfl
theorem tokenTapVisit (home : Nat) : Statement (.tokenTapVisit home) := of_none rfl
theorem limiterRefill (die : Nat) (c : Nat) : Statement (.limiterRefill die c) := of_none rfl
theorem packetArrival (src : Nat) (seq : Nat) (op : Nat) : Statement (.packetArrival src seq op) := of_none rfl
theorem flitPayloadError (c : Nat) (op : Nat) : Statement (.flitPayloadError c op) := of_none rfl
theorem linkFailure (link : Nat) : Statement (.linkFailure link) := of_none rfl
theorem wavelengthErrorWindow (fibre : Nat) (wl : Nat) (errors : Nat) : Statement (.wavelengthErrorWindow fibre wl errors) := of_none rfl
theorem wavelengthRetrainDone (fibre : Nat) (wl : Nat) (ok : Bool) : Statement (.wavelengthRetrainDone fibre wl ok) := of_none rfl
theorem supplySag (die : Nat) (mhz : Nat) : Statement (.supplySag die mhz) := of_none rfl
theorem thermalThrottle (die : Nat) (hot : Bool) : Statement (.thermalThrottle die hot) := of_none rfl
theorem thermalAlert (die : Nat) : Statement (.thermalAlert die) := of_none rfl
theorem debugHalt (c : Nat) (tgt : HaltTarget) : Statement (.debugHalt c tgt) := of_none rfl
theorem debugSetHeld (st : Nat) (path : Nat) : Statement (.debugSetHeld st path) := of_none rfl
theorem breakpointHit (st : Nat) (path : Nat) : Statement (.breakpointHit st path) := of_none rfl
theorem singleStep (st : Nat) (path : Nat) : Statement (.singleStep st path) := of_none rfl
theorem debugSetBreakpoint (core : Nat) (k : Nat) (bp : Option Breakpoint) : Statement (.debugSetBreakpoint core k bp) := of_none rfl
theorem debugSetWatchpoint (core : Nat) (k : Nat) (wp : Option Watchpoint) : Statement (.debugSetWatchpoint core k wp) := of_none rfl
theorem debugReleaseHeld (st : Nat) (path : Nat) : Statement (.debugReleaseHeld st path) := of_none rfl
theorem deterministicModeSwitch (core : Nat) (on : Bool) (base : Nat) (len : Nat) : Statement (.deterministicModeSwitch core on base len) := of_none rfl
theorem schedulerMessageDropped (msg : List Byte) : Statement (.schedulerMessageDropped msg) := of_none rfl
theorem holdNoticeSend : Statement (.holdNoticeSend) := of_none rfl
theorem spdmMeasurementsRequest : Statement (.spdmMeasurementsRequest) := of_none rfl
theorem boot : Statement (.boot) := of_none rfl
theorem flitHeaderError : Statement (.flitHeaderError) := of_none rfl
theorem thermalShutdown : Statement (.thermalShutdown) := of_none rfl
theorem partitionReinitialise : Statement (.partitionReinitialise) := of_none rfl

end Sys2Proof.Laws.Encoded
end

