-- ==== Sys2Proof/Tests/Slice0.lean ====
section
/-! SUPPORT. The model's own tests: what an ill-formed instruction is refused for, words written out from the spec's encodings, single steps on small
states with results worked out from the spec, and for every statement that has hypotheses a state and operands that meet them. -/

namespace Sys2Proof.Tests
open Machine

set_option Elab.async false

/-! ## Helpers -/

/-- A header with VER 1, and one with VER 0. -/
def h1 : Hdr := ⟨.v1, 0⟩
def h0 : Hdr := ⟨.v0, 0⟩

/-- A stand of grove 1 at PC 16 with a mask. -/
def one (m : Mask) : Stand := { uid := 1, ctx := 1, grove := 1, gang := 0x1000000000000#64, paths := [(0, Path.start 0 16 m 0)] }

/-- Pages that the core's TLB holds: 64 KiB of B32 with every permission at 0x10000, of FP32 at 0x20000, of B32 with tags at 0x30000, of B32 without
any permission at 0x40000; each at the physical address of its own number. -/
def pages : List TlbEntry :=
  [⟨1, 0x10000, 65536, 0x10038#64⟩, ⟨1, 0x20000, 65536, 0x0400000000020038#64⟩, ⟨1, 0x30000, 65536, 0x0040000000030038#64⟩, ⟨1, 0x40000, 65536, 0x40000#64⟩]

/-- Core 0 in context 1. -/
def core0 : Core := { Core.init 0 with slot0 := { ctx := some 1 }, tlb := pages }

/-- A machine with that stand on core 0. -/
def mk (st : Stand) : State :=
  { State.reset with power := .on, ctxs := [(1, Place.ctx)], launches := [(1, { ctx := 1, kernel := Place.kernel, left := 1 })],
                     groves := [(1, { launch := 1, core := 0, units := 1, size := 1 })], stands := [(0, st)], cores := [(0, core0)], nextId := 10 }

/-- The conditions of `Passes`, as a test. -/
def passesB (i : Instr) (s : State) : Bool :=
  declaredOk (s.env i).ker i && (s.me.armed.find? (consumes (s.env i))).isNone && !((s.core s.myCore).det && detRefused i) && !s.operandPending (s.env i)

theorem passes {i : Instr} {s : State} (h : passesB i s = true) : Passes i s := by
  simp only [passesB, Bool.and_eq_true, Option.isNone_iff_eq_none, Bool.not_eq_true'] at h
  exact ⟨h.1.1.1, h.1.1.2, h.1.2, h.2⟩

/-- Whether checks let some lane of an access through. -/
def wentInB (x : State × Chk) : Bool :=
  match x.2 with
  | .go .. => true
  | _ => false

/-- Whether checks let every lane of an access through. -/
def goesB (x : State × Chk) (s : State) (accs : List Acc) (rest : Mask) (low : DWord) : Bool :=
  match x with
  | (s1, .go a r l) => decide (s1 = s ∧ a = accs ∧ r = rest ∧ l = low)
  | _ => false

theorem goes {x : State × Chk} {s : State} {accs : List Acc} {rest : Mask} {low : DWord} (h : goesB x s accs rest low = true) :
    x = (s, .go accs rest low) := by
  obtain ⟨s1, c⟩ := x
  cases c with
  | trap => simp [goesB] at h
  | go a r l => simp only [goesB, decide_eq_true_eq] at h; obtain ⟨rfl, rfl, rfl, rfl⟩ := h; rfl

/-- Whether they trap. -/
def trapsB (x : State × Chk) (s : State) (c : Nat) (v : DWord) (m : Mask) : Bool :=
  match x with
  | (s1, .trap a b l) => decide (s1 = s ∧ a = c ∧ b = v ∧ l = m)
  | _ => false

theorem traps {x : State × Chk} {s : State} {c : Nat} {v : DWord} {m : Mask} (h : trapsB x s c v m = true) : x = (s, .trap c v m) := by
  obtain ⟨s1, k⟩ := x
  cases k with
  | go => simp [trapsB] at h
  | trap a b l => simp only [trapsB, decide_eq_true_eq] at h; obtain ⟨rfl, rfl, rfl, rfl⟩ := h; rfl

/-- Whether checks let every lane through, and the places that they found. -/
def wentB (x : State × Chk) : Bool :=
  match x.2 with
  | .go _ r _ => decide (r = 0)
  | _ => false
def accsOf (x : State × Chk) : List Acc :=
  match x.2 with
  | .go a _ _ => a
  | _ => []
def lowOf (x : State × Chk) : DWord :=
  match x.2 with
  | .go _ _ l => l
  | _ => 0

theorem went {x : State × Chk} (h : wentB x = true) : x = (x.1, .go (accsOf x) 0 (lowOf x)) := by
  obtain ⟨s1, c⟩ := x
  cases c with
  | trap => simp [wentB] at h
  | go a r l => simp only [wentB, decide_eq_true_eq] at h; subst h; rfl

/-- Whether every lane faults on its page. -/
def faultsB (x : State × Chk) (rest : Mask) : Bool :=
  match x.2 with
  | .go [] r _ => decide (r = rest)
  | _ => false

theorem faults {x : State × Chk} {rest : Mask} (h : faultsB x rest = true) : x = (x.1, .go [] rest (lowOf x)) := by
  obtain ⟨s1, c⟩ := x
  cases c with
  | trap => simp [faultsB] at h
  | go a r l => cases a with
    | cons => simp [faultsB] at h
    | nil => simp only [faultsB, decide_eq_true_eq] at h; subst h; rfl

/-- An operation of the first stand. -/
def op (i : Instr) (ctr : Ctr) (cls : Nat) (w : Work) : Out :=
  { uid := 1, st := 0, ctx := 1, path := 0, pc := 16, ins := i, mode := 0, lanes := 0xF, ctr := ctr, rpl := false, cls := cls, vu := 0, drawn := 0, grow := 0,
    cyc := 0, acq := none, spec := false, remote := none, redirect := none, orphan := false, work := w, payer := none, more := false, lead := none, fl := 0, counted := true }


/-! ## States and operands that meet the hypotheses of the statements -/

/-- Four lanes with `mode.ET` of a code. -/
def et (n : Word) : State := mk { one 0xF with mode := n, vregs := [(32, 5), (33, 7)], preds := [(3, 0x5)], sregs := [(1, 9)] }

theorem met_IntegerLaneResults :
    (∃ i s d f, Rule.integer s.me i = some (d, f) ∧ Passes i s) ∧
    ∃ s, Passes (.idp4 h1 4 1 2) s ∧ (s.me.mode.toNat % 32 = 9 ∨ s.me.mode.toNat % 32 = 13) :=
  ⟨⟨.iadd h1 3 1 2, et 10, _, _, rfl, passes (by decide +kernel)⟩, et 13, passes (by decide +kernel), by decide +kernel⟩

theorem met_BitLaneResults : ∃ i s d f, Rule.bits s.me i = some (d, f) ∧ Passes i s :=
  ⟨.sar h1 126 1 2, et 0, _, _, rfl, passes (by decide +kernel)⟩

theorem met_LaneMoveResults :
    (∃ i s d f, Rule.moves s i = some (d, f) ∧ Passes i s) ∧ (∃ s, Passes (.lmatch h1 0 1) s) ∧ ∃ s, Passes (.brev h1 0 1) s :=
  ⟨⟨.lbcs h1 3 1 31, et 0, _, _, rfl, passes (by decide +kernel)⟩, ⟨et 0, passes (by decide +kernel)⟩, et 0, passes (by decide +kernel)⟩

theorem met_PredicateResults :
    (∃ s n m f, Rule.predicate s (.iset h1 5 14 1 2) = some (n, m, f) ∧ Passes (.iset h1 5 14 1 2) s) ∧
    (∃ s n m f, Rule.predicate s (.fset h1 7 15 1 2) = some (n, m, f) ∧ Passes (.fset h1 7 15 1 2) s) ∧
    ∃ s n m f, Rule.predicate s (.pand h1 16 3 16) = some (n, m, f) ∧ Passes (.pand h1 16 3 16) s :=
  ⟨⟨et 7, _, _, _, rfl, passes (by decide +kernel)⟩, ⟨et 1, _, _, _, rfl, passes (by decide +kernel)⟩, et 0, _, _, _, rfl, passes (by decide +kernel)⟩

theorem met_ScalarResults : ∃ i s d x, Rule.scalar s i = some (d, x) ∧ Passes i s :=
  ⟨.sadd h1 62 1 63, et 0, _, _, rfl, passes (by decide +kernel)⟩

theorem met_FloatLaneResults :
    (∃ i s d e f, Rule.float s.me i = some (d, e, f) ∧ Passes i s) ∧ (∃ i s d f, Rule.float s.me i = some (d, 1, f) ∧ s.me.mode = 2 ∧ Passes i s) ∧
    (∃ s, Passes (.cvt h1 15 0 1) s ∧ (15#4).toNat ≠ 14 ∧ s.me.mode.toNat % 32 ≠ 14) ∧
    (∃ s, Passes (.cvt h1 14 0 1) s ∧ (14#4).toNat = 14) ∧ (∃ s, Passes (.cvt h1 1 0 1) s ∧ s.me.mode.toNat % 32 = 14) ∧
    (∃ et c, 1 ≤ et ∧ et ≤ 6 ∧ c < 2 * Rule.signBit et ∧ decodeVal et c = .nan) ∧ (∃ et c, et ≤ 6 ∧ c < 2 * Rule.signBit et ∧ decodeVal et c = .fin true 3 0) ∧
    (∃ et a, et ≤ 3 ∧ a < 2 * Rule.signBit et ∧ decodeVal et a = .inf true) ∧
    (∃ m n : Nat, m ≠ 0 ∧ 2 ^ n ≤ m ∧ m < 2 ^ (n + 1)) ∧ (∃ x y rm, x ≤ 15 ∧ y ≤ 15 ∧ x ≠ 14 ∧ y ≠ 14 ∧ x ≠ 0 ∧ y ≠ 0 ∧ x ≠ y ∧ rm ≤ 4) ∧
    ∃ et rm a b d, (et = 2 ∨ et = 3) ∧ rm ≤ 4 ∧ a < 2 ^ 32 ∧ b < 2 ^ 32 ∧ d < 2 ^ 32 :=
  ⟨⟨.ffma h1 3 1 2, et 3, _, _, _, rfl, passes (by decide +kernel)⟩, ⟨.fdp2 h1 3 1 2, et 2, _, _, rfl, rfl, passes (by decide +kernel)⟩,
    ⟨et 15, passes (by decide +kernel), by decide, by decide +kernel⟩, ⟨et 1, passes (by decide +kernel), rfl⟩,
    ⟨et 14, passes (by decide +kernel), by decide +kernel⟩, ⟨1, 0xFFFFFFFF, by decide +kernel⟩, ⟨6, 0xD, by decide +kernel⟩,
    ⟨3, 0xFF80, by decide +kernel⟩, ⟨7, 2, by decide⟩, ⟨15, 1, 4, by decide⟩, 3, 4, 2 ^ 32 - 1, 0, 0, by decide⟩

theorem met_FoldResults :
    (∃ s, Passes (.lpfx h1 3 1 true) s ∧ (s.me.mode.toNat % 32 = 1 ∨ s.me.mode.toNat % 32 = 7 ∨ s.me.mode.toNat % 32 = 11)) ∧
    ∃ s, Passes (.lred h1 3 1 2) s ∧ (2#2).toNat < 3 ∧ (s.me.mode.toNat % 32 = 1 ∨ s.me.mode.toNat % 32 = 7 ∨ s.me.mode.toNat % 32 = 11) :=
  ⟨⟨et 11, passes (by decide +kernel), by decide +kernel⟩, et 1, passes (by decide +kernel), by decide, by decide +kernel⟩

theorem met_ModeFields :
    (∃ s, Passes (.mode h1 0x7F 0x01BFAF4F) s ∧ ¬ Rule.modeRefused 0x7F 0x01BFAF4F) ∧ ∃ s, Passes (.mode h1 1 0x10) s ∧ Rule.modeRefused 1 0x10 :=
  ⟨⟨et 0, passes (by decide +kernel), by simp [Rule.modeRefused]⟩, et 0, passes (by decide +kernel), by simp [Rule.modeRefused]⟩

theorem met_CsrReads :
    (∃ s x, Passes (.csrr h1 1 0x105) s ∧ Rule.csr s 0x105 = some x) ∧
    (∃ s x, Passes (.csrr h1 1 0x011) s ∧ s.csr (s.env (.csrr h1 1 0x011)) 0x011 = some x) ∧
    ∃ s, Passes (.csrr h1 1 0x3FFF) s ∧ s.csr (s.env (.csrr h1 1 0x3FFF)) 0x3FFF = none :=
  ⟨⟨et 0, _, passes (by decide +kernel), rfl⟩, ⟨et 0, _, passes (by decide +kernel), rfl⟩, et 0, passes (by decide +kernel), rfl⟩

theorem met_CsrWrites : ∃ s, Passes (.csrw h1 1 0x100) s ∧ (s.csr (s.env (.csrw h1 1 0x100)) 0x100).isSome = true :=
  ⟨et 0, passes (by decide +kernel), by decide +kernel⟩

theorem met_AddressConversion : ∃ s, Passes (.acvt h1 true 2 125 125) s ∧ (2#2).toNat < 3 ∧ (125#7).toNat ≤ 125 :=
  ⟨et 0, passes (by decide +kernel), by decide, by decide⟩

theorem met_RegisterTraps :
    (∃ s, Passes (.iset h1 6 0 1 2) s ∧ 6 ≤ (6#3).toNat) ∧ (∃ s, Passes (.lvote h1 3 0 1) s) ∧ (∃ s, Passes (.acvt h1 true 3 0 2) s) ∧
    (∃ s, Passes (.lred h1 0 1 3) s) ∧ (∃ s, Passes (.lred h1 0 1 2) s ∧ s.me.mode.toNat % 32 = 2) ∧
    (∃ s, Passes (.lpfx h1 0 1 false) s ∧ s.me.mode.toNat % 32 = 8) ∧ (∃ s, Passes (.idp4 h1 0 1 2) s ∧ s.me.mode.toNat % 32 = 10) ∧
    (∃ s, Passes (.fdp2 h1 0 1 2) s ∧ s.me.mode.toNat % 32 = 1) ∧ (∃ s, Passes (.fadd h1 0 1 2) s ∧ s.me.mode.toNat % 32 = 4) ∧
    (∃ s, Passes (.cvt h1 14 0 1) s) ∧ (∃ s, Passes (.cvt h1 1 0 1) s ∧ s.me.mode.toNat % 32 = 14) ∧
    ∃ s, Passes (.csrw h1 1 0x3FFF) s ∧ s.csr (s.env (.csrw h1 1 0x3FFF)) 0x3FFF = none :=
  ⟨⟨et 0, passes (by decide +kernel), by decide⟩, ⟨et 0, passes (by decide +kernel)⟩, ⟨et 0, passes (by decide +kernel)⟩, ⟨et 0, passes (by decide +kernel)⟩,
    ⟨et 2, passes (by decide +kernel), rfl⟩, ⟨et 8, passes (by decide +kernel), rfl⟩, ⟨et 10, passes (by decide +kernel), rfl⟩,
    ⟨et 1, passes (by decide +kernel), rfl⟩, ⟨et 4, passes (by decide +kernel), rfl⟩, ⟨et 0, passes (by decide +kernel)⟩,
    ⟨et 14, passes (by decide +kernel), rfl⟩, et 0, passes (by decide +kernel), rfl⟩

theorem met_AccumulatorMoves :
    (∃ s, Passes (.azero h1 15) s ∧ s.accBusy s.me.uid 15 = false) ∧ (∃ s, Passes (.amov h1 3 15 true 31) s ∧ s.accBusy s.me.uid 15 = false) ∧
    ∃ s, Passes (.amovv h1 15 3 false 31) s ∧ s.accBusy s.me.uid 15 = false :=
  ⟨⟨et 0, passes (by decide +kernel), by decide +kernel⟩, ⟨et 0, passes (by decide +kernel), by decide +kernel⟩, et 0, passes (by decide +kernel),
    by decide +kernel⟩



/-- A stand whose paths are given, with predicate p3 of alternating lanes. -/
def ways (ps : List (Nat × Path)) : State := mk { one 0xF with paths := ps, preds := [(3, 0x5)] }

/-- An active path of lanes at a PC, below a record. -/
def below (r : Nat) (pc : BitVec 17) (m : Mask) : Path := Path.start r pc m 0

theorem met_NopYieldWait :
    (∃ s, Passes (.nop h0) s) ∧ (∃ s, Passes (.yield h0) s) ∧
    (∃ s, Passes (.wait h1 0xFF041041) s ∧ s.me.loads ≤ 1 ∧ s.me.stores ≤ 1 ∧ s.me.copies ≤ 1 ∧ s.me.tiles ≤ 1 ∧ s.me.tokmask &&& 0xFF#8 = 0) ∧
    ∃ s, Passes (.wait h1 0) s ∧ ¬ s.me.loads ≤ 0 :=
  ⟨⟨et 0, passes (by decide +kernel)⟩, ⟨et 0, passes (by decide +kernel)⟩,
    ⟨mk { one 0xF with loads := 1, stores := 1, copies := 1, tiles := 1 }, passes (by decide +kernel), by decide +kernel⟩,
    mk { one 0xF with loads := 1 }, passes (by decide +kernel), by decide +kernel⟩

theorem met_CallAndReturn :
    (∃ s : State, Passes (.call h1 62 0xFFFFFFFF) s ∧ s.cur.replay = false ∧ ¬ Rule.pcRange (s.myPath.pc.toNat + (0xFFFFFFFF : Word).toInt)) ∧
    (∃ s : State, Passes (.call h0 62 0) s ∧ s.cur.replay = false ∧ Rule.pcRange (s.myPath.pc.toNat + (0 : Word).toInt) ∧ s.em = 0) ∧
    (∃ s : State, Passes (.call h1 63 131055) s ∧ s.cur.replay = false ∧ Rule.pcRange (s.myPath.pc.toNat + (131055 : Word).toInt) ∧ s.em ≠ 0) ∧
    (∃ s : State, Passes (.ret h1 1) s ∧ s.cur.replay = false ∧ ¬ Rule.pcRange (s.me.sreg 1).toNat) ∧
    ∃ s : State, Passes (.ret h1 1) s ∧ s.cur.replay = false ∧ Rule.pcRange (s.me.sreg 1).toNat :=
  ⟨⟨et 0, passes (by decide +kernel), rfl, by unfold Rule.pcRange; decide +kernel⟩,
    ⟨mk { one 0xF with preds := [(0, 0xF)], dis := 0xF }, passes (by decide +kernel), rfl, by unfold Rule.pcRange; decide +kernel, by decide +kernel⟩,
    ⟨et 0, passes (by decide +kernel), rfl, by unfold Rule.pcRange; decide +kernel, by decide +kernel⟩,
    ⟨mk { one 0xF with sregs := [(1, 131072)] }, passes (by decide +kernel), rfl, by unfold Rule.pcRange; decide +kernel⟩,
    mk { one 0xF with sregs := [(1, 131071)] }, passes (by decide +kernel), rfl, by unfold Rule.pcRange; decide +kernel⟩

/-- The target and the join of a BRA of a path in range, and the lanes that take it. -/
def braOk (s : State) (tgt jn : Int) : Prop := Rule.pcRange (s.myPath.pc.toNat + tgt) ∧ (jn = 0 ∨ Rule.pcRange (s.myPath.pc.toNat + jn))

theorem met_BranchMoves :
    (∃ s : State, Passes (.bra h1 false 3 (-1) 4) s ∧ s.cur.replay = false ∧ ¬ braOk s (-1) 4) ∧
    (∃ s : State, Passes (.bra h1 true 4 8 4) s ∧ s.cur.replay = false ∧ braOk s 8 4 ∧ s.em &&& s.pred 4 = 0) ∧
    (∃ s : State, Passes (.bra h1 false 5 8 0) s ∧ s.cur.replay = false ∧ braOk s 8 0 ∧ s.em &&& s.pred 5 = s.em ∧ s.em ≠ 0) ∧
    (∃ s : State, Passes (.bra h1 false 3 8 0) s ∧ s.cur.replay = false ∧ braOk s 8 0 ∧ s.em &&& s.pred 3 ≠ s.em ∧ s.em &&& s.pred 3 ≠ 0) ∧
    (∃ s : State, Passes (.bra h1 false 3 8 10) s ∧ s.cur.replay = false ∧ braOk s 8 10 ∧ s.em &&& s.pred 3 ≠ s.em ∧ s.em &&& s.pred 3 ≠ 0 ∧
      s.myPath.state = .active ∧ ∃ f g more, s.me.freePaths = f :: g :: more) ∧
    (∃ s : State, Passes (.bra h1 false 3 8 10) s ∧ s.cur.replay = false ∧ braOk s 8 10 ∧ s.em &&& s.pred 3 ≠ s.em ∧ s.em &&& s.pred 3 ≠ 0 ∧
      s.myPath.state = .active ∧ s.me.freePaths.length < 2) ∧
    ∃ (s : State) (slot : Nat), Passes (.bra h1 false 3 8 10) s ∧ s.cur.replay = false ∧ braOk s 8 10 ∧ s.em &&& s.pred 3 ≠ s.em ∧ s.em &&& s.pred 3 ≠ 0 ∧
      (s.myPath.state = .serial ∨ s.myPath.state = .serialj) ∧ SMap.lowestFree s.me.ovf 0 32 = some slot :=
  ⟨⟨ways [(0, below 0 16 0xF)], passes (by decide +kernel), rfl, by unfold braOk Rule.pcRange; decide +kernel⟩,
    ⟨ways [(0, below 0 16 0xF)], passes (by decide +kernel), rfl, by unfold braOk Rule.pcRange; decide +kernel, by decide +kernel⟩,
    ⟨mk { one 0xF with preds := [(5, 0xF)] }, passes (by decide +kernel), rfl, by unfold braOk Rule.pcRange; decide +kernel, by decide +kernel⟩,
    ⟨ways [(0, below 0 16 0xF)], passes (by decide +kernel), rfl, by unfold braOk Rule.pcRange; decide +kernel, by decide +kernel⟩,
    ⟨ways [(0, below 0 16 0xF)], passes (by decide +kernel), rfl, by unfold braOk Rule.pcRange; decide +kernel, by decide +kernel, by decide +kernel,
      rfl, _, _, _, rfl⟩,
    ⟨ways ([(0, below 0 16 0xF)] ++ (upFrom 1 6).map fun j => (j, below j 16 0x10)), passes (by decide +kernel), rfl, by unfold braOk Rule.pcRange; decide +kernel,
      by decide +kernel, by decide +kernel, rfl, by decide +kernel⟩,
    ways [(0, { below 0 16 0xF with state := .serial, aux := 0xF0, jt := 30, xpc := 20 })], 0, passes (by decide +kernel), rfl,
      by unfold braOk Rule.pcRange; decide +kernel, by decide +kernel, by decide +kernel, .inl rfl, by decide +kernel⟩

/-- A stand with a table's address in a scalar. -/
def table (m : Mask) : State := mk { one m with dis := m ^^^ 0xF, sregs := [(2, 0x10000)], vregs := [(32, 1), (33, 1), (34, 9), (35, 0xFFFFFFFF)] }

/-- What `Obligations.IndexedBranchMoves` asks of a table of `n` targets whose word of J is `w` and whose join is `j`. -/
def Tabled (n : BitVec 7) (w j : Nat) (s : State) : Prop :=
  let i : Instr := .brx h1 n 1 2
  let used := (Mask.toList s.em).filter fun l => decide ((s.me.vreg 1 l).toNat < n.toNat)
  let ask := (32, s.me.sreg 2) :: used.map fun l => (l, BitVec.ofNat 64 ((s.me.sreg 2).toNat + 8 * (1 + (s.me.vreg 1 l).toNat)))
  let x := s.access s.cur.st true brxNeed ask
  let accs := accsOf x
  let bytes := accs.flatMap fun y => y.pl.span 8
  let s2 := accs.foldl (fun u y => u.readFill s.myCore none y.pl) x.1
  let val := fun (l : Nat) => (accs.find? fun y => y.lane == l).map fun y => leNat ((y.pl.span 8).map (s2.readPlace s.myCore none))
  let code := fun (a : Nat) => let w := (a - (s.kernelOf s.me).addr.toNat) / 4
    if (s.kernelOf s.me).addr.toNat ≤ a ∧ (a - (s.kernelOf s.me).addr.toNat) % 4 = 0 ∧ 16 ≤ w ∧ w < 131072 then some w else none
  x = (x.1, .go accs 0 (lowOf x)) ∧ s.cur.replay = false ∧ n ≠ 0 ∧ s.em ≠ 0 ∧ (s.env i).accessWait s true false = none ∧ accs.length = ask.length ∧
  x.1.earlierAccess s.me.uid x.1.nextId bytes = false ∧ bytes.any (x.1.rangeHeld .load) = false ∧ (x.1.core s.myCore).combine = [] ∧
  x.1.earlier s.me.uid x.1.nextId Out.ownScratch = false ∧ s.me.failedInto bytes [] = none ∧ (∀ y ∈ accs, x.1.poisonedAt y.pl = false) ∧
  val 32 = some w ∧ ((w = 0 ∧ j = 0) ∨ (w ≠ 0 ∧ code w = some j)) ∧
  (∀ l ∈ Mask.toList s.em, (match val l with
    | none => some (s.myPath.pc.toNat + 1)
    | some w => code w).isSome = true)

/-- Lanes 0 and 1 take the targets 20 and 30 of a table whose join is `j`, lanes 2 and 3 go on at 17; the path is `p`, the other entries are given. -/
def forked (j : Nat) (p : Path) (more : List (Nat × Path)) : State :=
  { table 0xF with
    stands := [(0, { (table 0xF).me with paths := (0, p) :: more, vregs := [(32, 0), (33, 1), (34, 9), (35, 0xFFFFFFFF)] })],
    mem := (if j = 0 then [] else [(0x10000, BitVec.ofNat 8 (4 * j)), (0x10002, 0x20)]) ++ [(0x10008, 0x50), (0x1000A, 0x20), (0x10010, 0x78), (0x10012, 0x20)] }

/-- Whether a path waits at the foot of a ladder whose join is `j` (R318). -/
def onLadder (s : State) (n : BitVec 7) (j : Nat) : Prop :=
  s.myPath.state = .serialj ∧ j + 1 ≤ s.myPath.jt.toNat + min n.toNat 31 ∧ s.myPath.jt.toNat ≤ j

theorem met_IndexedBranchMoves :
    (∃ s : State, Passes (.brx h1 0 1 2) s ∧ s.cur.replay = false) ∧
    (∃ s : State, Passes (.brx h1 1 1 2) s ∧ s.cur.replay = false ∧ s.em = 0) ∧
    (∃ s : State, Passes (.brx h1 1 1 2) s ∧ Tabled 1 0 0 s ∧ ∀ l ∈ Mask.toList s.em, 1 ≤ (s.me.vreg 1 l).toNat) ∧
    (∃ s : State, Passes (.brx h1 2 1 2) s ∧ Tabled 2 0 0 s ∧ (s.me.vreg 1 0 ≠ s.me.vreg 1 1)) ∧
    (∃ s : State, Passes (.brx h1 2 1 2) s ∧ Tabled 2 0x2000C8 50 s ∧ (s.me.vreg 1 0 ≠ s.me.vreg 1 1) ∧ onLadder s 2 50 ∧
      s.myPath.jt.toNat + min (2#7).toNat 31 = 50 + 1) ∧
    (∃ s : State, Passes (.brx h1 2 1 2) s ∧ Tabled 2 0x2000C8 50 s ∧ (s.me.vreg 1 0 ≠ s.me.vreg 1 1) ∧ s.myPath.state = .active ∧ 3 ≤ s.me.freePaths.length) ∧
    (∃ s : State, Passes (.brx h1 2 1 2) s ∧ Tabled 2 0x2000C8 50 s ∧ (s.me.vreg 1 0 ≠ s.me.vreg 1 1) ∧ s.myPath.state = .active ∧ s.me.freePaths.length < 2) ∧
    (∃ s : State, Passes (.brx h1 2 1 2) s ∧ Tabled 2 0x2000C8 50 s ∧ (s.me.vreg 1 0 ≠ s.me.vreg 1 1) ∧ s.myPath.state = .serial ∧ ¬ onLadder s 2 50 ∧
      SMap.lowestFree s.me.ovf 0 32 = some 0) ∧
    ∃ s : State, Passes (.brx h1 2 1 2) s ∧ Tabled 2 0x2000C8 50 s ∧ (s.me.vreg 1 0 ≠ s.me.vreg 1 1) ∧ onLadder s 2 50 ∧
      ¬ s.myPath.jt.toNat + min (2#7).toNat 31 = 50 + 1 ∧ SMap.lowestFree s.me.ovf 0 32 = some 0 :=
  ⟨⟨table 0xF, passes (by decide +kernel), rfl⟩, ⟨mk { one 0xF with dis := 0xF }, passes (by decide +kernel), rfl, by decide +kernel⟩,
    ⟨table 0xF, passes (by decide +kernel), ⟨went (by decide +kernel), by decide +kernel⟩, by decide +kernel⟩,
    ⟨forked 0 (below 0 16 0xF) [], passes (by decide +kernel), ⟨went (by decide +kernel), by decide +kernel⟩, by decide +kernel⟩,
    ⟨forked 50 { below 0 16 0xF with state := .serialj, aux := 0xF0, jt := 49 } [], passes (by decide +kernel),
      ⟨went (by decide +kernel), by decide +kernel⟩, by decide +kernel, by unfold onLadder; decide +kernel, by decide +kernel⟩,
    ⟨forked 50 (below 0 16 0xF) [], passes (by decide +kernel), ⟨went (by decide +kernel), by decide +kernel⟩, by decide +kernel, rfl, by decide +kernel⟩,
    ⟨forked 50 (below 0 16 0xF) ((upFrom 1 6).map fun j => (j, below j 16 0x10)), passes (by decide +kernel),
      ⟨went (by decide +kernel), by decide +kernel⟩, by decide +kernel, rfl, by decide +kernel⟩,
    ⟨forked 50 { below 0 16 0xF with state := .serial, aux := 0xF0, jt := 60, xpc := 20 } [], passes (by decide +kernel),
      ⟨went (by decide +kernel), by decide +kernel⟩, by decide +kernel, rfl, by unfold onLadder; decide +kernel, by decide +kernel⟩,
    forked 50 { below 0 16 0xF with state := .serialj, aux := 0xF0, jt := 50 } [], passes (by decide +kernel),
      ⟨went (by decide +kernel), by decide +kernel⟩, by decide +kernel, by unfold onLadder; decide +kernel, by decide +kernel, by decide +kernel⟩

theorem met_JoinMerges :
    (∃ s : State, Passes (.join h1) s ∧ s.cur.replay = false ∧ s.myPath.state = .active ∧ (s.me.path 0).state ≠ .record) ∧
    (∃ s : State, Passes (.join h1) s ∧ s.cur.replay = false ∧ s.myPath.state = .active ∧ (s.me.path 1).state = .record ∧ s.myPath.parent = 1 ∧
      s.myPath.pc = (s.me.path 1).jt ∧ (s.me.path 1).aux ||| s.myPath.mask = (s.me.path 1).mask) ∧
    (∃ s : State, Passes (.join h1) s ∧ s.cur.replay = false ∧ s.myPath.state = .active ∧ (s.me.path 1).state = .record ∧ s.myPath.parent = 1 ∧
      s.myPath.pc = (s.me.path 1).jt ∧ (s.me.path 1).aux ||| s.myPath.mask ≠ (s.me.path 1).mask) ∧
    (∃ s : State, Passes (.join h1) s ∧ s.cur.replay = false ∧ s.myPath.state = .serial ∧ s.myPath.pc ≠ s.myPath.jt) ∧
    (∃ s : State, Passes (.join h1) s ∧ s.cur.replay = false ∧ s.myPath.state = .serial ∧ s.myPath.pc = s.myPath.jt) ∧
    (∃ s : State, Passes (.join h1) s ∧ s.cur.replay = false ∧ s.myPath.state = .serialj ∧ s.myPath.pc ≠ s.myPath.jt) ∧
    (∃ s : State, Passes (.join h1) s ∧ s.cur.replay = false ∧ s.myPath.state = .serialj ∧ s.myPath.pc = s.myPath.jt ∧ s.myPath.link = 0) ∧
    ∃ s : State, Passes (.join h1) s ∧ s.cur.replay = false ∧ s.myPath.state = .serialj ∧ s.myPath.pc = s.myPath.jt ∧ s.myPath.link ≠ 0 :=
  ⟨⟨ways [(0, below 0 16 0xF)], passes (by decide +kernel), rfl, rfl, by decide +kernel⟩,
    ⟨ways [(0, below 1 16 0xF), (1, { state := .record, parent := 1, pc := 16, mask := 0xFF, aux := 0xF0, jt := 16 })], passes (by decide +kernel), rfl, rfl, rfl, rfl, rfl, rfl⟩,
    ⟨ways [(0, below 1 16 0xF), (1, { state := .record, parent := 1, pc := 16, mask := 0xFF, aux := 0, jt := 16 })], passes (by decide +kernel), rfl, rfl, rfl, rfl, rfl, by decide +kernel⟩,
    ⟨ways [(0, { below 0 16 0xF with state := .serial, aux := 0xF0, jt := 17, xpc := 20 })], passes (by decide +kernel), rfl, rfl, by decide +kernel⟩,
    ⟨ways [(0, { below 0 16 0xF with state := .serial, aux := 0xF0, jt := 16, xpc := 20 })], passes (by decide +kernel), rfl, rfl, rfl⟩,
    ⟨ways [(0, { below 0 16 0xF with state := .serialj, aux := 0xF0, jt := 17 })], passes (by decide +kernel), rfl, rfl, by decide +kernel⟩,
    ⟨ways [(0, { below 0 16 0xF with state := .serialj, aux := 0xF0, jt := 16 })], passes (by decide +kernel), rfl, rfl, rfl, rfl⟩,
    ways [(0, { below 0 16 0xF with state := .serialj, aux := 0xF0, jt := 16, link := 1 })], passes (by decide +kernel), rfl, rfl, rfl, by decide +kernel⟩

/-- A serial entry of lanes with suspended lanes `aux` and a LINK, whose displaced content lies in the overflow area. -/
def queued (x : PState) (aux : Mask) (link : BitVec 6) (dis : Mask) : State :=
  mk { one 0xF with paths := [(0, { below 0 16 0xF with state := x, aux := aux, jt := 30, xpc := 20, link := link }), (7, below 7 16 0x100)], dis := dis,
                    ovf := [(0, { state := .serialj, mask := 0xFF, jt := 40, aux := 0xF00 })] }

/-- A path of four lanes under a record of lanes `m` of which `aux` have joined. -/
def under (m aux : Mask) : State :=
  ways [(0, below 1 16 0xF), (1, { state := .record, parent := 1, pc := 16, mask := m, aux := aux, jt := 16 })]

theorem met_ExitRemovesLanes :
    (∃ s : State, Passes (.exit h1) s ∧ s.cur.replay = false ∧ s.me.inHandler = none ∧ s.em = 0) ∧
    (∀ x : Bool, ∃ s : State, Passes (.exit h1) s ∧ s.cur.replay = false ∧ s.em ≠ 0 ∧ s.em ≠ s.myPath.mask ∧ s.myPath.state = (if x then .serial else .serialj) ∧
      s.myPath.link = 0 ∧ s.myPath.parent.toNat = s.cur.path) ∧
    (∀ x : Bool, ∃ s : State, Passes (.exit h1) s ∧ s.cur.replay = false ∧ s.em ≠ 0 ∧ s.em = s.myPath.mask ∧ s.myPath.state = (if x then .serial else .serialj) ∧
      s.myPath.aux ≠ 0 ∧ s.myPath.link = 0 ∧ s.myPath.parent.toNat = s.cur.path) ∧
    (∃ s : State, Passes (.exit h1) s ∧ s.cur.replay = false ∧ s.em ≠ 0 ∧ s.em = s.myPath.mask ∧ s.myPath.state = .serialj ∧
      s.myPath.aux = 0 ∧ s.myPath.link = 0 ∧ s.myPath.parent.toNat = s.cur.path) ∧
    (∀ x : Bool, ∃ s : State, Passes (.exit h1) s ∧ s.cur.replay = false ∧ s.em ≠ 0 ∧ (s.em = s.myPath.mask ↔ x = true) ∧ s.myPath.state = .serialj ∧
      s.myPath.aux ≠ 0 ∧ s.myPath.parent.toNat = s.cur.path ∧ s.myPath.link.toNat ≤ 32 ∧ s.myPath.link ≠ 0 ∧
      (s.me.overSlot (s.myPath.link.toNat - 1)).link = 0 ∧ s.poisonedAt (.mem (s.overPlace s.cur.st (s.myPath.link.toNat - 1))) = false) ∧
    (∃ s : State, Passes (.exit h1) s ∧ s.cur.replay = false ∧ s.me.inHandler = none ∧ s.em ≠ 0 ∧ s.em ≠ s.myPath.mask ∧ s.myPath.state = .active ∧
      s.myPath.link = 0 ∧ s.myPath.parent.toNat = s.cur.path) ∧
    (∃ s : State, Passes (.exit h1) s ∧ s.cur.replay = false ∧ s.me.inHandler = none ∧ s.em ≠ 0 ∧ s.em = s.myPath.mask ∧ s.myPath.state = .active ∧
      s.myPath.link = 0 ∧ s.myPath.parent.toNat = s.cur.path ∧ s.myPath.glines = [] ∧ ∃ j, j < 8 ∧ j ≠ s.cur.path ∧ (s.me.path j).state ≠ .free) ∧
    (∀ y : Nat, y < 3 → ∃ (s : State) (q : Path) (rest : Mask), q = s.me.path 1 ∧ rest = q.mask &&& (s.em ^^^ 0xFFFFFFFF#32) ∧
      Passes (.exit h1) s ∧ s.cur.replay = false ∧ s.me.inHandler = none ∧ s.em ≠ 0 ∧ s.em = s.myPath.mask ∧ s.myPath.state = .active ∧
      s.myPath.link = 0 ∧ s.myPath.parent = 1 ∧ s.myPath.glines = [] ∧ q.state = .record ∧ q.parent = 1 ∧ q.link = 0 ∧
      (if y = 0 then rest ≠ 0 ∧ q.aux = rest else if y = 1 then rest = 0 else rest ≠ 0 ∧ q.aux ≠ rest)) ∧
    (∃ s : State, Passes (.exit h1) s ∧ s.cur.replay = false ∧ s.me.inHandler = some s.cur.path ∧ s.em ≠ 0 ∧ s.em = s.myPath.mask ∧ s.myPath.state = .active ∧
      s.myPath.link = 0 ∧ s.myPath.parent.toNat = s.cur.path ∧ s.myPath.glines = [] ∧ ∃ j, j < 8 ∧ j ≠ s.cur.path ∧ (s.me.path j).state ≠ .free) ∧
    ∃ s : State, Passes (.exit h1) s ∧ s.cur.replay = false ∧ s.me.inHandler = some s.cur.path ∧ s.em ≠ 0 ∧ s.em ≠ s.myPath.mask ∧ s.myPath.state = .active ∧
      s.myPath.link = 0 ∧ s.myPath.parent.toNat = s.cur.path ∧ (s.me.path s.cur.path).state ≠ .free :=
  ⟨⟨mk { one 0xF with dis := 0xF }, passes (by decide +kernel), rfl, rfl, by decide +kernel⟩,
    fun
      | true => ⟨queued .serial 0xF0 0 0x3, passes (by decide +kernel), by decide +kernel⟩
      | false => ⟨queued .serialj 0xF0 0 0x3, passes (by decide +kernel), by decide +kernel⟩,
    fun
      | true => ⟨queued .serial 0xF0 0 0, passes (by decide +kernel), by decide +kernel⟩
      | false => ⟨queued .serialj 0xF0 0 0, passes (by decide +kernel), by decide +kernel⟩,
    ⟨queued .serialj 0 0 0, passes (by decide +kernel), by decide +kernel⟩,
    fun
      | true => ⟨queued .serialj 0xF0 1 0, passes (by decide +kernel), by decide +kernel⟩
      | false => ⟨queued .serialj 0xF0 1 0x3, passes (by decide +kernel), by decide +kernel⟩,
    ⟨mk { one 0xF with dis := 0x3 }, passes (by decide +kernel), by decide +kernel⟩,
    ⟨ways [(0, below 0 16 0xF), (7, below 7 16 0x100)], passes (by decide +kernel), by decide +kernel, by decide +kernel, by decide +kernel,
      by decide +kernel, by decide +kernel, by decide +kernel, by decide +kernel, by decide +kernel, 7, by decide +kernel⟩,
    fun
      | 0, _ => ⟨under 0xFF 0xF0, _, _, rfl, rfl, passes (by decide +kernel), by decide +kernel⟩
      | 1, _ => ⟨under 0xF 0, _, _, rfl, rfl, passes (by decide +kernel), by decide +kernel⟩
      | 2, _ => ⟨under 0xFF 0, _, _, rfl, rfl, passes (by decide +kernel), by decide +kernel⟩,
    ⟨mk { one 0xF with paths := [(0, below 0 16 0xF), (7, below 7 16 0x100)], inHandler := some 0 }, passes (by decide +kernel), by decide +kernel,
      by decide +kernel, by decide +kernel, by decide +kernel, by decide +kernel, by decide +kernel, by decide +kernel, by decide +kernel, 7, by decide +kernel⟩,
    mk { one 0xF with dis := 0x3, inHandler := some 0 }, passes (by decide +kernel), by decide +kernel⟩

/-- A machine whose kernel has one idempotent region at PC 16. -/
def region (st : Stand) : State := { mk st with launches := [(1, { ctx := 1, kernel := { Place.kernel with idems := [(16, 40)] }, left := 1 })] }

theorem met_RegionEntry :
    (∃ s : State, Passes (.idem h1) s ∧ s.cur.replay = false ∧ ((s.kernelOf s.me).idems.find? fun r => r.1 == s.myPath.pc.toNat) = none) ∧
    (∃ s : State, Passes (.idem h1) s ∧ s.cur.replay = false ∧ ((s.kernelOf s.me).idems.find? fun r => r.1 == s.myPath.pc.toNat) = some (16, 40) ∧
      s.myPath.state = .serial) ∧
    ∃ s : State, Passes (.idem h1) s ∧ s.cur.replay = false ∧ ((s.kernelOf s.me).idems.find? fun r => r.1 == s.myPath.pc.toNat) = some (16, 40) ∧
      s.myPath.state = .active ∧ s.myPath.link = 0 ∧ ∀ j, j < 8 → j ≠ s.cur.path → (s.me.path j).state = .free :=
  ⟨⟨mk (one 0xF), passes (by decide +kernel), rfl, rfl⟩,
    ⟨region { one 0xF with paths := [(0, { below 0 16 0xF with state := .serial })] }, passes (by decide +kernel), rfl, rfl, rfl⟩,
    region (one 0xF), passes (by decide +kernel), rfl, rfl, rfl, rfl, by decide +kernel⟩

/-- A store of which lanes are left that have no page, while those that issued have performed. -/
def begun : Out := { op (.st h1 3 1 2) .stores 0 (.store [] none) with more := true, fl := 2 }

theorem met_TrapEntry :
    (∀ rpl : Bool, ∃ (s : State) (key idx : Nat) (r : TrapRec), idx < 8 ∧ r.cause < 32 ∧ r.info < 256 ∧ (rpl = true → (s.stand key).deferred = false) ∧
      (s.stand key).inHandler = none ∧
      (s.kernelOf (s.stand key)).trapoff ≠ 0 ∧ ((s.kernelOf (s.stand key)).trapen.getLsbD r.cause = true ∨ r.cause = 0x04) ∧
      (s.core (coreOf key)).trace.on = false ∧ (if rpl then (s.stand key).replays.head?.bind (·.op) else ((s.stand key).path idx).lead) = none) ∧
    (∀ rpl : Bool, ∃ (s : State) (key idx : Nat) (r : TrapRec) (op : Nat) (o : Out), idx < 8 ∧ r.cause < 32 ∧ r.info < 256 ∧
      (rpl = true → (s.stand key).deferred = false) ∧ (s.stand key).inHandler = none ∧
      (s.kernelOf (s.stand key)).trapoff ≠ 0 ∧ ((s.kernelOf (s.stand key)).trapen.getLsbD r.cause = true ∨ r.cause = 0x04) ∧
      (s.core (coreOf key)).trace.on = false ∧ (if rpl then (s.stand key).replays.head?.bind (·.op) else ((s.stand key).path idx).lead) = some op ∧
      SMap.get? s.outs op = some o ∧ o.work.idle = true ∧ o.orphan = false ∧ o.st = key ∧ (SMap.get? s.stands key).isSome = true ∧ o.acq = none ∧
      ∀ kv ∈ s.outs, kv.2.lead ≠ some op) ∧
    (∃ (s : State) (key : Nat) (r : TrapRec) (x : Replay) (xs : List Replay), (s.stand key).deferred = true ∧ (s.stand key).replays = x :: xs ∧ r.cause ≠ 0x0A) ∧
    ∃ (st : Stand) (i j : Nat), st.inHandler = some i ∧ st.pathReady j = true :=
  ⟨fun
      | false => ⟨mk (one 0xF), 0, 7, { cause := 0x10, tval := 5, tmask := 3, info := 255, part := true }, by decide +kernel⟩
      | true => ⟨mk { one 0xF with replays := [{ pc := 16, path := 0, lanes := 3 }] }, 0, 0, { cause := 0x05, tval := 5, tmask := 3 }, by decide +kernel⟩,
    fun
      | false => ⟨{ mk { one 0xF with stores := 1, paths := [(0, { below 0 16 0xF with parked := some ⟨2, none, 0x40000, false, some 5, none⟩ })] } with outs := [(5, begun)] },
          0, 0, { cause := 0x05, tval := 0x40000, tmask := 2 }, 5, begun, by decide +kernel⟩
      | true => ⟨{ mk { one 0xF with stores := 1, replays := [{ pc := 16, path := 0, lanes := 2, op := some 5 }] } with outs := [(5, begun)] },
          0, 0, { cause := 0x05, tval := 0x40000, tmask := 2 }, 5, begun, by decide +kernel⟩,
    ⟨mk { one 0xF with inHandler := some 0, deferred := true, replays := [{ pc := 16, path := 0, lanes := 3 }] }, 0, { cause := 0x05, tval := 5, tmask := 3 },
      _, _, by decide +kernel, rfl, by decide +kernel⟩,
    { one 0xF with inHandler := some 0 }, 0, 0, by decide +kernel⟩

theorem met_FatalTraps :
    (∃ (s : State) (key : Nat), (s.ctx (s.stand key).ctx).state ≠ .free ∧ (s.ctx (s.stand key).ctx).state ≠ .halted ∧ (s.stand key).inHandler ≠ none) ∧
    ∃ (s : State) (key : Nat) (r : TrapRec), (s.ctx (s.stand key).ctx).state ≠ .free ∧ (s.ctx (s.stand key).ctx).state ≠ .halted ∧
      (s.stand key).inHandler = none ∧ ((s.kernelOf (s.stand key)).trapen.getLsbD r.cause = false ∧ r.cause ≠ 0x04) :=
  ⟨⟨mk { one 0xF with inHandler := some 0 }, 0, by decide +kernel⟩, mk (one 0xF), 0, { cause := 0x14, tval := 0, tmask := 1 }, by decide +kernel⟩

theorem met_SoftwareTraps :
    (∃ s, Passes (.illegal 0xFFFFFFFF) s) ∧ (∃ s, Passes (.trap h1 63 255) s) ∧
    (∃ s, Passes (.brk h1) s ∧ (s.ctx s.me.ctx).debugger = false) ∧ ∃ s, Passes (.brk h1) s ∧ (s.ctx s.me.ctx).debugger = true :=
  ⟨⟨et 0, passes (by decide +kernel)⟩, ⟨et 0, passes (by decide +kernel)⟩, ⟨et 0, passes (by decide +kernel), by decide +kernel⟩,
    { et 0 with ctxs := [(1, { Place.ctx with debugger := true })] }, passes (by decide +kernel), by decide +kernel⟩

theorem met_ReturnFromTrap :
    (∃ s : State, Passes (.eret h1) s ∧ s.cur.replay = false ∧ s.me.inHandler = none) ∧
    (∃ s : State, Passes (.eret h1) s ∧ s.cur.replay = false ∧ s.me.inHandler ≠ none ∧ s.me.tcause.getLsbD 54 = true) ∧
    ∃ s : State, Passes (.eret h1) s ∧ s.cur.replay = false ∧ s.me.inHandler ≠ none ∧
      (let m := s.me.tcause.extractLsb' 32 32
       ¬ (2 ^ 25 ≤ m.toNat ∨ m.getLsbD 22 = true ∨ 0x10 ≤ m.toNat % 32 ∨ 5 ≤ m.toNat / 32 % 8 ∨ 6 ≤ m.toNat / 8192 % 8)) :=
  ⟨⟨et 0, passes (by decide +kernel), rfl, rfl⟩,
    ⟨mk { one 0xF with inHandler := some 0, tcause := 0x0040000000000000#64 }, passes (by decide +kernel), rfl, by decide +kernel, by decide +kernel⟩,
    mk { one 0xF with inHandler := some 0, tcause := 0x0180AF8F00000600#64, tepc := 0x1FFFF#64 }, passes (by decide +kernel), rfl, by decide +kernel,
      by decide +kernel⟩


/-- Whether a charge fits. -/
def paidB (x : ChargeAns) : Bool :=
  match x with
  | .ok _ => true
  | _ => false

theorem paid {x : ChargeAns} (h : paidB x = true) : ∃ d, x = .ok d := by
  cases x with
  | ok d => exact ⟨d, rfl⟩
  | stall => simp [paidB] at h
  | exceed => simp [paidB] at h

/-- The lanes that checks leave out. -/
def restOf (x : State × Chk) : Mask :=
  match x.2 with
  | .go _ r _ => r
  | _ => 0

theorem wentIn {x : State × Chk} (h : wentInB x = true) : x = (x.1, .go (accsOf x) (restOf x) (lowOf x)) := by
  obtain ⟨s1, c⟩ := x
  cases c with
  | trap => simp [wentInB] at h
  | go a r l => rfl

/-- What `Issuable` asks, as a test. -/
def issuableB (i : Instr) (s : State) (m : Rule.Access) : Bool :=
  let x := s.access s.cur.st m.scalar m.need m.ask
  ((s.env i).accessWait s m.read (m.ordered && modeRel s.me.mode)).isNone && wentInB x && !((accsOf x).any fun a => (a.pl.span (m.width a)).any (x.1.rangeHeld m.meet))
    && (s.me.failedInto ((accsOf x).flatMap fun a => a.pl.span (m.width a)) ((s.env i).tablesRead m.ordered (accsOf x))).isNone && !(s.env i).full x.1 m.ctr
    && paidB (chargeAns x.1 s.cur.st s.cur.path m.cls m.vu 0)

theorem issuable {i : Instr} {s : State} {m : Rule.Access} (h : issuableB i s m = true) :
    Rule.Issuable i s (s.access s.cur.st m.scalar m.need m.ask).1 m (accsOf (s.access s.cur.st m.scalar m.need m.ask))
      (restOf (s.access s.cur.st m.scalar m.need m.ask)) (lowOf (s.access s.cur.st m.scalar m.need m.ask)) := by
  simp only [issuableB, Bool.and_eq_true, Option.isNone_iff_eq_none, Bool.not_eq_true'] at h
  exact ⟨h.1.1.1.1.1, wentIn h.1.1.1.1.2, h.1.1.1.2, fun _ => h.1.1.2, fun _ => h.1.2, fun _ => paid h.2⟩

theorem issuable0 {i : Instr} {s : State} {m : Rule.Access} (h : issuableB i s m = true) (z : restOf (s.access s.cur.st m.scalar m.need m.ask) = 0) :
    Rule.Issuable i s (s.access s.cur.st m.scalar m.need m.ask).1 m (accsOf (s.access s.cur.st m.scalar m.need m.ask)) 0
      (lowOf (s.access s.cur.st m.scalar m.need m.ask)) := z ▸ issuable h

/-- Four lanes with a base in a scalar, offsets in v1, an address pair in v4 and v5, and a mode. -/
def acc (base : DWord) (mode : Word) : State :=
  mk { one 0xF with mode := mode, sregs := [(2, base)], vregs := [(32, 0), (33, 4), (34, 8), (35, 0xFFFC), (128, base.setWidth 32), (129, base.setWidth 32), (130, base.setWidth 32), (131, base.setWidth 32)] }

theorem ownBelow {o : Option Nat} {n : Nat} (h : (o.all fun l => decide (l < n)) = true) : ∀ l, o = some l → l < n := by
  intro l e; subst e; simpa using h

/-- A load of which lanes 2 and 3 are left on their pages, while the operation of the others is 5. -/
def lastLanes (base : DWord) (rp : Bool) : State :=
  { acc base 1 with
    cur := ⟨0, 0, rp⟩,
    stands := [(0, { (acc base 1).me with
      loads := 1,
      replays := if rp then [{ pc := 16, path := 0, lanes := 0xC, op := some 5, ins := some (.ld h1 3 1 2) }] else [],
      paths := [(0, { below 0 16 0xF with part := if rp then none else some ⟨0xC, true, some 0xF, some 5, some (.ld h1 3 1 2)⟩ })] })],
    outs := [(5, { op (.ld h1 3 1 2) .loads 1 (.load [] 0) with more := true })] }

theorem met_AccessesIssue :
    (∃ s m, Rule.access s (.ld h1 3 1 2) = some m ∧ Passes (.ld h1 3 1 2) s ∧ (∀ l, (s.env (.ld h1 3 1 2)).own = some l → l < s.nextId) ∧
      ∃ s1 accs low, Rule.Issuable (.ld h1 3 1 2) s s1 m accs 0 low) ∧
    (∃ s m, Rule.access s (.st h1 3 1 2) = some m ∧ Passes (.st h1 3 1 2) s ∧ (∀ l, (s.env (.st h1 3 1 2)).own = some l → l < s.nextId) ∧
      ∃ s1 accs low, Rule.Issuable (.st h1 3 1 2) s s1 m accs 0 low) ∧
    (∃ s m, Rule.access s (.sst h1 3 2) = some m ∧ Passes (.sst h1 3 2) s ∧ (∀ l, (s.env (.sst h1 3 2)).own = some l → l < s.nextId) ∧
      ∃ s1 accs low, Rule.Issuable (.sst h1 3 2) s s1 m accs 0 low) ∧
    (∃ s m, Rule.access s (.tagset h1 4 1) = some m ∧ Passes (.tagset h1 4 1) s ∧ (∀ l, (s.env (.tagset h1 4 1)).own = some l → l < s.nextId) ∧
      ∃ s1 accs low, Rule.Issuable (.tagset h1 4 1) s s1 m accs 0 low) ∧
    (∃ s m, Rule.access s (.acas h1 127 4 1) = some m ∧ Passes (.acas h1 127 4 1) s ∧ (∀ l, (s.env (.acas h1 127 4 1)).own = some l → l < s.nextId) ∧
      ∃ s1 accs low, Rule.Issuable (.acas h1 127 4 1) s s1 m accs 0 low) ∧
    ∀ rp : Bool, ∃ s m, Rule.access s (.ld h1 3 1 2) = some m ∧ Passes (.ld h1 3 1 2) s ∧ s.cur.replay = rp ∧ (s.env (.ld h1 3 1 2)).own = some 5 ∧ 5 < s.nextId ∧
      ∃ s1 accs low, Rule.Issuable (.ld h1 3 1 2) s s1 m accs 0 low :=
  ⟨⟨acc 0x10000 1, _, rfl, passes (by decide +kernel), ownBelow (by decide +kernel), _, _, _, issuable0 (by decide +kernel) (by decide +kernel)⟩,
    ⟨acc 0x20000 1, _, rfl, passes (by decide +kernel), ownBelow (by decide +kernel), _, _, _, issuable0 (by decide +kernel) (by decide +kernel)⟩,
    ⟨acc 0x1FFF8 0, _, rfl, passes (by decide +kernel), ownBelow (by decide +kernel), _, _, _, issuable0 (by decide +kernel) (by decide +kernel)⟩,
    ⟨acc 0x3FFFF 0, _, rfl, passes (by decide +kernel), ownBelow (by decide +kernel), _, _, _, issuable0 (by decide +kernel) (by decide +kernel)⟩,
    ⟨acc 0x10000 11, _, rfl, passes (by decide +kernel), ownBelow (by decide +kernel), _, _, _, issuable0 (by decide +kernel) (by decide +kernel)⟩,
    fun
      | false => ⟨lastLanes 0x10000 false, _, rfl, passes (by decide +kernel), rfl, by decide +kernel, by decide +kernel, _, _, _,
          issuable0 (by decide +kernel) (by decide +kernel)⟩
      | true => ⟨lastLanes 0x10000 true, _, rfl, passes (by decide +kernel), rfl, by decide +kernel, by decide +kernel, _, _, _,
          issuable0 (by decide +kernel) (by decide +kernel)⟩⟩

/-- A stand whose next operation is a record of four lanes that lie on no page. -/
def again : State :=
  { acc 0x50000 0 with cur := ⟨0, 0, true⟩, stands := [(0, { (acc 0x50000 0).me with replays := [{ pc := 16, path := 0, lanes := 0xF }] })] }

theorem met_AccessesTrapOrPark :
    (∃ s m s1 c v ls, Rule.access s (.ld h1 3 1 2) = some m ∧ Passes (.ld h1 3 1 2) s ∧
      (s.env (.ld h1 3 1 2)).accessWait s m.read (m.ordered && modeRel s.me.mode) = none ∧ s.access s.cur.st m.scalar m.need m.ask = (s1, .trap c v ls)) ∧
    (∃ s m s1 rest low, Rule.access s (.sld h1 3 2) = some m ∧ Passes (.sld h1 3 2) s ∧
      (s.env (.sld h1 3 2)).accessWait s m.read (m.ordered && modeRel s.me.mode) = none ∧ s.access s.cur.st m.scalar m.need m.ask = (s1, .go [] rest low) ∧
      rest ≠ 0 ∧ m.scalar = true ∧ (s.env (.sld h1 3 2)).own = none) ∧
    (∀ rp : Bool, ∃ s m s1 rest low, Rule.access s (.ld h1 3 1 2) = some m ∧ Passes (.ld h1 3 1 2) s ∧
      (s.env (.ld h1 3 1 2)).accessWait s m.read (m.ordered && modeRel s.me.mode) = none ∧ s.access s.cur.st m.scalar m.need m.ask = (s1, .go [] rest low) ∧
      rest ≠ 0 ∧ (s.env (.ld h1 3 1 2)).own = some 5 ∧ (∃ x, SMap.get? s1.outs 5 = some x) ∧ s.cur.replay = rp) ∧
    (∀ rp : Bool, ∃ s m s1 rest low, Rule.access s (.ld h1 3 1 2) = some m ∧ Passes (.ld h1 3 1 2) s ∧ Rule.Issuable (.ld h1 3 1 2) s s1 m [] rest low ∧
      m.scalar = false ∧ rest ≠ 0 ∧ (s.env (.ld h1 3 1 2)).own = none ∧ s.cur.replay = rp) ∧
    (∃ s m s1 accs rest low, Rule.access s (.ld h1 3 1 2) = some m ∧ Passes (.ld h1 3 1 2) s ∧ Rule.Issuable (.ld h1 3 1 2) s s1 m accs rest low ∧
      m.scalar = false ∧ accs ≠ [] ∧ rest ≠ 0 ∧ (s.env (.ld h1 3 1 2)).own = none ∧ s.cur.replay = false) ∧
    (∃ s, Passes (.ld h1 3 1 2) s ∧ s.me.mode.toNat % 32 = 14) ∧ ∃ s, Passes (.axor h1 3 4 1) s ∧ Rule.atomicEt (.axor h1 3 4 1) (s.me.mode.toNat % 32) = false :=
  ⟨⟨acc 0x40000 0, _, acc 0x40000 0, 5, 0x40000, 0xF, rfl, passes (by decide +kernel), by decide +kernel, traps (by decide +kernel)⟩,
    ⟨acc 0x50000 0, _, _, 1, _, rfl, passes (by decide +kernel), by decide +kernel, faults (by decide +kernel), by decide, by decide +kernel, by decide +kernel⟩,
    fun
      | false => ⟨lastLanes 0x50000 false, _, _, 0xC, _, rfl, passes (by decide +kernel), by decide +kernel, faults (by decide +kernel), by decide, by decide +kernel,
          ⟨_, rfl⟩, rfl⟩
      | true => ⟨lastLanes 0x50000 true, _, _, 0xC, _, rfl, passes (by decide +kernel), by decide +kernel, faults (by decide +kernel), by decide, by decide +kernel,
          ⟨_, rfl⟩, rfl⟩,
    fun
      | false => ⟨acc 0x50000 0, _, _, 0xF, _, rfl, passes (by decide +kernel), issuable (by decide +kernel), rfl, by decide, by decide +kernel, rfl⟩
      | true => ⟨again, _, _, 0xF, _, rfl, passes (by decide +kernel), issuable (by decide +kernel), rfl, by decide, by decide +kernel, rfl⟩,
    ⟨acc 0xFFF8 0, _, _, _, _, _, rfl, passes (by decide +kernel), issuable (by decide +kernel), rfl, by decide +kernel, by decide +kernel, by decide +kernel, rfl⟩,
    ⟨acc 0x10000 14, passes (by decide +kernel), by decide +kernel⟩, acc 0x10000 1, passes (by decide +kernel), by decide +kernel⟩

/-- A lane at an address on a page of the core's TLB. -/
def laneAt (n : Nat) (va : DWord) : LaneLoc := ⟨n, va, .global (pages.find? (·.covers 1 va.toNat)), 4⟩

theorem met_AccessCheckOrder :
    (∃ xs : List LaneLoc, ∃ x ys, (xs.filter fun x => decide (1 < x.width ∧ x.va.toNat % x.width ≠ 0)) = x :: ys) ∧
    (∃ nd : Need, ∃ xs : List LaneLoc, ∃ x ys, (xs.filter fun x => decide (1 < x.width ∧ x.va.toNat % x.width ≠ 0)) = [] ∧ nd.win = (fun _ => true) ∧
      (xs.filter fun x => decide (x.loc = .bad)) = x :: ys) ∧
    (∃ s : State, ∃ nd : Need, ∃ xs : List LaneLoc, xs ≠ [] ∧ (xs.filter fun x => decide (1 < x.width ∧ x.va.toNat % x.width ≠ 0)) = [] ∧
      (xs.filter fun x => decide (x.loc = .bad)) = [] ∧ nd.win = (fun _ => true) ∧ (s.core (coreOf 0)).watch = [] ∧ (∀ x ∈ xs, x.loc ≠ .global none) ∧
      ∀ x ∈ xs, s.laneFail 0 nd x = none) ∧
    ∃ s : State, ∃ nd : Need, ∃ xs : List LaneLoc, (xs.filter fun x => decide (1 < x.width ∧ x.va.toNat % x.width ≠ 0)) = [] ∧
      (xs.filter fun x => decide (x.loc = .bad)) = [] ∧ nd.win = (fun _ => true) ∧ (s.core (coreOf 0)).watch = [] ∧ (∀ x ∈ xs, x.loc ≠ .global none) ∧
      (xs.filter fun x => (s.laneFail 0 nd x).map (·.1) == some 0x0E) ≠ [] ∧ (xs.filter fun x => (s.laneFail 0 nd x).map (·.1) == some 0x05) = [] :=
  ⟨⟨[laneAt 3 0x10002], _, _, rfl⟩, ⟨ldNeed 0, [⟨31, 0x1000000000000000, .bad, 4⟩], _, _, rfl, rfl, rfl⟩,
    ⟨mk (one 0xF), ldNeed 0, [laneAt 0 0x10000, laneAt 31 0x1FFFC], by simp, rfl, rfl, rfl, rfl, by decide +kernel, by decide +kernel⟩,
    mk (one 0xF), { ldNeed 0 with fmtOk := fun f _ => f == 0 }, [laneAt 0 0x10000, laneAt 31 0x20000], rfl, rfl, rfl, rfl, by decide +kernel, by decide +kernel, by decide +kernel⟩

/-- A tile at 0x10000 with rows 128 bytes apart, and one of FP32. -/
def tile (base : DWord) (mode : Word) : State := mk { one 0xF with mode := mode, sregs := [(2, base)], accs := [(0, 5), (16383, 7)] }

theorem met_TileInstructionsIssue :
    (∃ (s s1 : State) (accs : List Acc) (low : DWord), Passes (.ald h1 15 2 128) s ∧ (128 : Word) ≠ 0 ∧ (128 : Word).toNat % 128 = 0 ∧
      (s.me.sreg 2).toNat / 2 ^ 60 = 0 ∧ (s.me.sreg 2).toNat % 128 = 0 ∧ (s.env (.ald h1 15 2 128)).full s1 .tiles = false ∧ s.me.mode.toNat % 32 = 0 ∧
      (s.env (.ald h1 15 2 128)).accessWait s true (modeRel s.me.mode) = none ∧
      s.access s.cur.st true (tileNeed true false rawFmt) (tileRows (s.me.sreg 2) 128) = (s1, .go accs 0 low) ∧
      ∃ drawn, chargeAns s1 s.cur.st s.cur.path 1 Config.chargeReplay 0 = .ok drawn) ∧
    (∃ (s s1 : State) (accs : List Acc) (low : DWord), Passes (.ast h1 15 2 2048) s ∧
      (s.me.sreg 2).toNat / 2 ^ 60 = 0 ∧ (s.me.sreg 2).toNat % 128 = 0 ∧ (s.env (.ast h1 15 2 2048)).full s1 .tiles = false ∧ s.me.mode.toNat % 32 = 11 ∧
      (s.env (.ast h1 15 2 2048)).accessWait s false (modeRel s.me.mode) = none ∧
      s.access s.cur.st true (tileNeed false true rawFmt) (tileRows (s.me.sreg 2) 2048) = (s1, .go accs 0 low) ∧ s1.drainFull s.myCore = false ∧
      ∃ drawn, chargeAns s1 s.cur.st s.cur.path 4 Config.chargeDrain 0 = .ok drawn) ∧
    ∃ (s s1 : State) (accs : List Acc) (low : DWord), Passes (.tacc h1 0 2 128) s ∧
      (s.me.sreg 2).toNat / 2 ^ 60 = 0 ∧ (s.me.sreg 2).toNat % 128 = 0 ∧ (s.env (.tacc h1 0 2 128)).full s1 .tiles = false ∧ s.me.mode.toNat % 32 = 1 ∧
      (s.env (.tacc h1 0 2 128)).accessWait s false (modeRel s.me.mode) = none ∧
      s.access s.cur.st true (tileNeed false true fun _ => true) (tileRows (s.me.sreg 2) 128) = (s1, .go accs 0 low) ∧ s1.drainFull s.myCore = false ∧
      (∀ r ∈ rowPas accs, homeOf r = homeOf ((rowPas accs).headD 0)) ∧ (∀ x ∈ accs, x.fmt = 0 ∨ x.fmt = 1) ∧
      (∀ kv ∈ s.me.residuals, kv.2.rpa = (rowPas accs).headD 0 → kv.2.stride = (128 : Word).toNat ∧ kv.2.et = 1) ∧
      ∃ drawn, chargeAns s1 s.cur.st s.cur.path 4 Config.chargeDrain
        (if decide (s.me.residuals.length < (s.kernelOf s.me).nres) && (s.me.slotFor ((rowPas accs).headD 0) (128 : Word).toNat 1).isNone then residualBytes else 0) = .ok drawn :=
  ⟨⟨tile 0x10000 0, _, _, _, passes (by decide +kernel), by decide, by decide, rfl, rfl, by decide +kernel, rfl, by decide +kernel, went (by decide +kernel),
      paid (by decide +kernel)⟩,
    ⟨tile 0x10000 11, _, _, _, passes (by decide +kernel), rfl, rfl, by decide +kernel, rfl, by decide +kernel, went (by decide +kernel), by decide +kernel,
      paid (by decide +kernel)⟩,
    tile 0x20000 1, _, _, _, passes (by decide +kernel), rfl, rfl, by decide +kernel, rfl, by decide +kernel, went (by decide +kernel), by decide +kernel,
      by decide +kernel, by decide +kernel, by decide +kernel, paid (by decide +kernel)⟩

/-- A machine whose context has a bound of vacate units, and whose core slot owes some. -/
def owing (bound swap park queue : Nat) (trap : Bool) (stalled : List Stall) : State :=
  { mk { one 0xF with vxTrap := trap } with
    ctxs := [(1, { Place.ctx with cbound := dw (bound + field 2048 16) })],
    cores := [(0, { core0 with slot0 := { ctx := some 1, s := swap, p := park, q := queue, stalled := stalled } })] }

theorem met_VacateCheck :
    let bound (s : State) := (s.ctx s.me.ctx).vxcbnd - (s.ctx s.me.ctx).vxctx
    let up (s : State) (n : Nat) := (n + (s.ctx s.me.ctx).rho - 1) / (s.ctx s.me.ctx).rho
    let x (s : State) := s.ctxSlot s.myCore s.me.ctx
    let est (s : State) := 5 + up s ((x s).s + (x s).p) + (x s).c + (x s).q
    (∃ s, bound s < 5 + up s (x s).s + (x s).q + 65535) ∧
    (∃ s, ¬ bound s < 5 + up s (x s).s + (x s).q + 1 ∧ bound s < est s + 1 ∧ s.me.vxTrap = true ∧ s.me.inHandler = none) ∧
    (∃ s, ¬ bound s < 5 + up s (x s).s + (x s).q + 1 ∧ bound s < est s + 1 ∧ s.me.vxTrap = false) ∧
    (∃ s, ¬ bound s < 5 + up s (x s).s + (x s).q + 1 ∧ ¬ bound s < est s + 1 ∧ bound s < est s + stalledBefore 0 0 (x s).stalled + 1) ∧
    ∃ s, ¬ bound s < 5 + up s (x s).s + (x s).q + 1 ∧ ¬ bound s < est s + 1 ∧ ¬ bound s < est s + stalledBefore 0 0 (x s).stalled + 1 :=
  ⟨⟨mk (one 0xF), by decide +kernel⟩, ⟨owing 200 0 40960000 0 true [], by decide +kernel⟩, ⟨owing 200 0 40960000 0 false [], by decide +kernel⟩,
    ⟨owing 65535 0 0 0 false [⟨1, 0, 70000⟩], by decide +kernel⟩, owing 65535 0 0 0 false [], by decide +kernel⟩

theorem met_Reservations :
    (∃ s b, Passes (.vres h1 2) s ∧ s.slotOf s.myCore s.me.ctx = some b ∧ ∃ d, checkCharge s s.cur.st s.cur.path 5 (s.me.sreg 2).toNat 0 = .ok d) ∧
    ∃ s b, Passes (.vrel h1) s ∧ s.slotOf s.myCore s.me.ctx = some b :=
  ⟨⟨acc 100 0, _, passes (by decide +kernel), rfl, paid (by decide +kernel)⟩, mk { one 0xF with avail := 3, lent := 1 }, _, passes (by decide +kernel), rfl⟩


theorem met_ScratchCopiesIssue :
    let rows := fun (s : State) => copyWords (s.me.sreg 2) (s.me.sreg 3) 2 8
    let st : Stand := { one 0xF with sregs := [(2, 0x10000), (3, 8), (4, 16368)] }
    ∃ (s s1 : State) (accs : List Acc) (low : DWord), s = mk st ∧ s.lacksStream s.me = false ∧ (s.me.sreg 2).toNat / 2 ^ 60 = 0 ∧
      (s.me.sreg 4).toNat + 2 * 8 ≤ (s.kernelOf s.me).scratch ∧ (∃ drawn, chargeAns s1 s.cur.st s.cur.path 1 Config.chargeReplay 0 = .ok drawn) ∧
      s.access s.cur.st true (copyNeed true) (rows s) = (s1, .go accs 0 low) ∧ s.access s.cur.st true (copyNeed false) (rows s) = (s1, .go accs 0 low) ∧
      (∀ y ∈ accs, y.fmt = (accs.headD ⟨0, s.me.sreg 2, .mem 0, 0, 0, 0, 0⟩).fmt) ∧
      (accs.flatMap fun y => y.pl.span 4).length = ((Place.scr s.me.grove (s.me.sreg 4).toNat).span (4 * accs.length)).length ∧
      (Passes (.cpin h1 false 7 2 4 2 8) s ∧ (s.env (.cpin h1 false 7 2 4 2 8)).accessWait s true false = none ∧
        ((Place.scr s.me.grove (s.me.sreg 4).toNat).span (4 * accs.length)).any (s1.rangeHeld .copyIn) = false ∧
        (s.env (.cpin h1 false 7 2 4 2 8)).full s1 .copies = false) ∧
      Passes (.cpout h1 0 2 4 2 8) s ∧ (s.env (.cpout h1 0 2 4 2 8)).accessWait s false false = none ∧
        ((Place.scr s.me.grove (s.me.sreg 4).toNat).span (4 * accs.length)).any (s1.rangeHeld .copyOut) = false ∧
        s.me.failedInto ((Place.scr s.me.grove (s.me.sreg 4).toNat).span (4 * accs.length)) [] = none ∧ 8 ≤ (s.me.sreg 3).toNat ∧
        (s.env (.cpout h1 0 2 4 2 8)).full s1 .copies = false :=
  have h : (mk { one 0xF with sregs := [(2, 0x10000), (3, 8), (4, 16368)] }).access 0 true (copyNeed true) (copyWords 0x10000 8 2 8) =
      (mk { one 0xF with sregs := [(2, 0x10000), (3, 8), (4, 16368)] }, .go (([0x10000, 0x10004, 0x10008, 0x1000C] : List Nat).map fun a => ⟨0, dw a, .mem a, 0, 0, 65536, 65536⟩) 0 0) :=
    goes (by decide +kernel)
  have h' : (mk { one 0xF with sregs := [(2, 0x10000), (3, 8), (4, 16368)] }).access 0 true (copyNeed false) (copyWords 0x10000 8 2 8) =
      (mk { one 0xF with sregs := [(2, 0x10000), (3, 8), (4, 16368)] }, .go (([0x10000, 0x10004, 0x10008, 0x1000C] : List Nat).map fun a => ⟨0, dw a, .mem a, 0, 0, 65536, 65536⟩) 0 0) :=
    goes (by decide +kernel)
  ⟨mk { one 0xF with sregs := [(2, 0x10000), (3, 8), (4, 16368)] }, _, _, _, rfl, by decide +kernel, rfl, by decide +kernel, paid (by decide +kernel), h, h',
    by decide +kernel, by decide +kernel, ⟨passes (by decide +kernel), by decide +kernel, by decide +kernel, by decide +kernel⟩, passes (by decide +kernel),
    by decide +kernel, by decide +kernel, by decide +kernel, by decide +kernel, by decide +kernel⟩

/-- A stand whose slot name 15 is slot 63, and which copies two rows of 128 bytes at 0x10000. -/
def filling : State := mk { one 0xF with sregs := [(2, 0x10000), (3, 128), (4, 15)], oslots := [(15, 63)] }

theorem met_ScratchCopiesIssue_fill :
    let i : Instr := .cpin h1 true 7 2 4 2 128
    let s := filling
    let x := s.access s.cur.st true (copyNeed true) (copyWords (s.me.sreg 2) (s.me.sreg 3) 2 128)
    let accs := accsOf x
    let a0 := accs.headD ⟨0, s.me.sreg 2, .mem 0, 0, 0, 0, 0⟩
    Passes i s ∧ s.me.boundSlot (s.me.sreg 4).toNat = some 63 ∧ s.lacksStream s.me = false ∧ (s.me.sreg 2).toNat / 2 ^ 60 = 0 ∧
    (s.me.sreg 2).toNat % 128 = 0 ∧ (s.me.sreg 3).toNat % 128 = 0 ∧
    s.translate s.myCore s.me.ctx (s.me.sreg 2).toNat = (s, some ⟨1, 0x10000, 65536, 0x10038#64⟩) ∧
    (∀ r, r < 2 → let y := (s.me.sreg 2 + BitVec.ofNat 64 (r * (s.me.sreg 3).toNat)).toNat
      y / 2 ^ 60 = 0 ∧ 0x10000 ≤ y % 2 ^ 56 ∧ y % 2 ^ 56 + 128 ≤ 0x10000 + 65536) ∧
    (s.env i).accessWait s true false = none ∧ x = (x.1, .go accs 0 (lowOf x)) ∧ (∀ y ∈ accs, y.fmt = a0.fmt) ∧ (x.1.core s.myCore).det = false ∧
    (accs.flatMap fun y => y.pl.span 4).length = 4 * accs.length ∧ a0.fmt < 15 ∧ a0.pl = .mem 0x10000 ∧ a0.page ≤ 0x10000 ∧ a0.geom = 0 ∧
    (∀ y ∈ ({ sfmt := a0.fmt, geom := a0.geom, table := 0, rows := 2, sscl := 0, sstride := 128, sppa := a0.page } : OpSlot).scaleSrc, y < a0.page + a0.psz) ∧
    (s.env i).full x.1 .copies = false ∧ ∃ drawn, chargeAns x.1 s.cur.st s.cur.path 1 Config.chargeReplay 0 = .ok drawn :=
  ⟨passes (by decide +kernel), by decide +kernel, by decide +kernel, by decide +kernel, by decide +kernel, by decide +kernel, by decide +kernel, by decide +kernel,
    by decide +kernel, went (by decide +kernel), by decide +kernel, by decide +kernel, by decide +kernel, by decide +kernel, by decide +kernel, by decide +kernel,
    by decide +kernel, by decide +kernel, by decide +kernel, paid (by decide +kernel)⟩

theorem met_FillsIssue :
    (∃ s p, Passes (.old h1 15 2 32) s ∧ s.me.boundSlot 15 = some p ∧ s.me.mode.toNat % 32 ∈ [2, 3, 4, 5, 6, 9, 10, 14] ∧ (s.me.sreg 2).toNat % 128 = 0 ∧
      (s.me.sreg 2).toNat + 128 * 32 ≤ (s.kernelOf s.me).scratch ∧ (s.env (.old h1 15 2 32)).accessWait s true false = none ∧
      ((Place.scr s.me.grove (s.me.sreg 2).toNat).span (128 * 32)).any (s.rangeHeld .load) = false ∧
      s.me.failedInto ((Place.scr s.me.grove (s.me.sreg 2).toNat).span (128 * 32)) [] = none ∧ (s.env (.old h1 15 2 32)).full s .copies = false ∧
      ∃ drawn, chargeAns s s.cur.st s.cur.path 1 Config.chargeReplay 0 = .ok drawn) ∧
    ∃ (s s2 : State) (drawn : Nat) (accs : List Acc) (low : DWord), Passes (.cbld h1 7 2) s ∧ (s.me.sreg 2).toNat / 2 ^ 60 ≠ 15 ∧
      (s.me.sreg 2).toNat % 1024 = 0 ∧ (s.env (.cbld h1 7 2)).accessWait s true false = none ∧ (s.env (.cbld h1 7 2)).full s .loads = false ∧
      chargeAns s s.cur.st s.cur.path 1 Config.chargeReplay 0 = .ok drawn ∧
      (s.takeCharge s.cur.st s.cur.path Config.chargeReplay 0 drawn).access s.cur.st true cbldNeed [(0, s.me.sreg 2)] = (s2, .go accs 0 low) :=
  ⟨⟨mk { one 0xF with sregs := [(2, 12288)], oslots := [(15, 63)], mode := 14 }, 63, passes (by decide +kernel), rfl, by decide +kernel, rfl, by decide +kernel, by decide +kernel,
      by decide +kernel, by decide +kernel, by decide +kernel, paid (by decide +kernel)⟩,
    mk { one 0xF with sregs := [(2, 0x1FC00)] }, _, 0, _, _, passes (by decide +kernel), by decide +kernel, rfl, by decide +kernel, by decide +kernel, by decide +kernel,
      went (by decide +kernel)⟩

/-- A machine whose kernel is small and has a ring of two, the batons held by `standid` 0. -/
def ring (st : Stand) : State :=
  { mk st with
    launches := [(1, { ctx := 1, kernel := { Place.kernel with vregs := 4, nacc := 0, nslot := 0, nres := 0, ring := 2, partw := 0x3FFF }, left := 1 })],
    groves := [(1, { launch := 1, core := 0, units := 1, size := 1, sbat := some 0, mbat := some 0 })] }

/-- The stand with `standid` 5 of grove 1 as the debugger has halted it. -/
def halted : SavedGrove :=
  { id := 1, grove := { launch := 1, core := 0, units := 1, size := 1 }, scr := 0, sources := [], onto := some 0,
    stands := [{ uid := 9, standid := 5, idx := 5, image := 0x40000000, armed := [], again := [] }] }

theorem met_EngineState :
    (∃ s : State, let x := s.me.sreg 1; let member := fun (k : Nat) => (x.extractLsb' (8 * k) 8).toNat
      Passes (.gang h1 1) s ∧ x.extractLsb' 51 13 = 0 ∧ (x.extractLsb' 48 3).toNat = 1 ∧ (∀ k, 1 ≤ k → k < 6 → member k = 0) ∧
      (∀ j k, j < 1 → k < 1 → j ≠ k → member j ≠ member k) ∧ (∃ k, k < 1 ∧ member k = s.me.standid) ∧
      (∀ k, k < 1 → ∃ key st, (key, st) ∈ s.stands ∧ st.grove = s.me.grove ∧ (s.stand key).standid = member k) ∧ s.hasMma s.cur.st s.cur.path = false) ∧
    (∃ s : State, Passes (.btake h1 true) s ∧ s.me.standid < (s.kernelOf s.me).ring ∧ (s.grove s.me.grove).baton true = some s.me.standid) ∧
    (∃ s : State, Passes (.gang h1 1) s ∧ (s.me.sreg 1).extractLsb' 51 13 = 0 ∧ ((s.me.sreg 1).extractLsb' 48 3).toNat = 2 ∧
      ((s.me.sreg 1).extractLsb' 0 8).toNat = s.me.standid ∧ ((s.me.sreg 1).extractLsb' 8 8).toNat ∈ s.haltedIds s.me.grove ∧ s.hasMma s.cur.st s.cur.path = false) ∧
    (∃ s : State, Passes (.btake h1 false) s ∧ (s.kernelOf s.me).ring ≤ s.me.standid) ∧
    (∃ s : State, Passes (.btake h1 false) s ∧ (s.grove s.me.grove).baton false = none ∧ s.me.standid < (s.kernelOf s.me).ring) ∧
    (∃ s : State, Passes (.bpass h1 false) s ∧ s.me.standid < (s.kernelOf s.me).ring ∧ (s.grove s.me.grove).baton false = some s.me.standid ∧
      s.accessesDone s.me.uid = true) ∧
    (∃ s : State, Passes (.oclm h1 15) s ∧ (s.me.boundSlot 15).isSome = true) ∧
    (∃ s p, Passes (.oclm h1 0) s ∧ s.me.boundSlot 0 = none ∧ SMap.lowestFree (s.core s.myCore).oslots 0 64 = some p ∧
      ∃ drawn, chargeAns s s.cur.st s.cur.path 5 0 4096 = .ok drawn) ∧
    (∃ s : State, Passes (.orel h1 15) s ∧ s.me.boundSlot 15 = none) ∧
    ∃ s p, Passes (.orel h1 15) s ∧ s.me.boundSlot 15 = some p ∧ s.fillBefore s.myCore p s.nextId = false ∧ s.mmaNames s.myCore p s.me = false :=
  ⟨⟨mk { one 0xF with sregs := [(1, 0x0001000000000000)] }, passes (by decide +kernel), by decide +kernel, by decide +kernel,
      fun k h h6 => (by decide : ∀ k, k < 6 → 1 ≤ k → ((0x0001000000000000 : DWord).extractLsb' (8 * k) 8).toNat = 0) k h6 h,
      fun j k hj hk h => absurd ((Nat.lt_one_iff.1 hj).trans (Nat.lt_one_iff.1 hk).symm) h, ⟨0, by decide +kernel⟩,
      fun k hk => ⟨0, _, List.mem_singleton.2 rfl, rfl, by rw [Nat.lt_one_iff.1 hk]; decide +kernel⟩, by decide +kernel⟩,
    ⟨ring (one 0xF), passes (by decide +kernel), by decide +kernel, by decide +kernel⟩,
    ⟨{ mk { one 0xF with sregs := [(1, 0x0002000000000500)] } with ctxs := [(1, { Place.ctx with saved := [halted] })] }, passes (by decide +kernel), by decide +kernel⟩,
    ⟨mk (one 0xF), passes (by decide +kernel), by decide +kernel⟩,
    ⟨{ ring (one 0xF) with groves := [(1, { launch := 1, core := 0, units := 1, size := 1 })] }, passes (by decide +kernel), by decide +kernel⟩,
    ⟨ring (one 0xF), passes (by decide +kernel), by decide +kernel, by decide +kernel, by decide +kernel⟩,
    ⟨mk { one 0xF with oslots := [(15, 63)] }, passes (by decide +kernel), by decide +kernel⟩,
    ⟨mk (one 0xF), 0, passes (by decide +kernel), by decide +kernel, by decide +kernel, paid (by decide +kernel)⟩,
    ⟨mk (one 0xF), passes (by decide +kernel), by decide +kernel⟩,
    mk { one 0xF with oslots := [(15, 63)] }, 63, passes (by decide +kernel), by decide +kernel, by decide +kernel, by decide +kernel⟩

/-- A stand with two operand slots of FP16. -/
def slots : State :=
  { mk { one 0xF with oslots := [(0, 0), (15, 63)] } with cores := [(0, { core0 with oslots := [(0, { sfmt := 2 }), (63, { sfmt := 2 })] })] }

/-- A gang of the stands 0 and 1 of a grove, with a slot of FP16 each and one more for the leader, the first stand at the issue position; `at_` lists
the MMAs at the latch. -/
def pair (at_ : List (Nat × Out)) : State :=
  { mk { one 0xF with gang := 0x0002000000000100#64, oslots := [(0, 0), (15, 63)] } with
    stands := [(0, { one 0xF with gang := 0x0002000000000100#64, oslots := [(0, 0), (15, 63)] }),
      (1, { one 0xF with uid := 2, standid := 1, gang := 0x0002000000000100#64, oslots := [(0, 1)] })],
    groves := [(1, { launch := 1, core := 0, units := 2, size := 2 })],
    cores := [(0, { core0 with oslots := [(0, { sfmt := 2 }), (1, { sfmt := 2 }), (63, { sfmt := 2 })] })], outs := at_ }

/-- The MMA of the second stand at the latch. -/
def lodgedOp : Out := { op (.mma h1 15 0 15) .none 3 (.mma 1 1 .lodged [] [] 0) with uid := 2, st := 1 }

theorem met_MmaIssues :
    (∃ s p, Passes (.mma h1 15 0 15) s ∧ s.cur.replay = false ∧ 2 ≤ (s.me.gang.extractLsb' 48 3).toNat ∧ s.me.boundSlot 0 = some p ∧
      (s.me.boundSlot 15).isSome = true ∧ s.aldBusy s.me.uid 15 = false ∧
      s.me.failedInto [] (s.slotTables s.myCore [p, (s.me.boundSlot 15).getD p]) = none ∧
      (∀ kv ∈ s.latch s.me.grove 0, (s.stand kv.2.st).gang = s.me.gang ∧ kv.2.uid ≠ s.me.uid) ∧
      s.me.tiles < depthOf (s.core s.myCore) .tiles ∧ (s.latch s.me.grove 0).length + 1 < (s.me.gang.extractLsb' 48 3).toNat) ∧
    (∃ s, let fits := fun (m : Word) => ∃ pair, mmaPair 2 2 = some pair ∧ m.toNat / 2 ^ 23 % 4 < pair.ratio
      Passes (.mma h1 15 0 15) s ∧ s.cur.replay = false ∧ (s.me.gang.extractLsb' 48 3).toNat = 2 ∧ s.latch s.me.grove 0 = [(5, lodgedOp)] ∧
      s.me.boundSlot 0 = some 0 ∧ (s.me.gang.extractLsb' 0 8).toNat = s.me.standid ∧ s.me.boundSlot 15 = some 63 ∧ s.aldBusy s.me.uid 15 = false ∧
      s.me.failedInto [] (s.slotTables s.myCore [0, 63]) = none ∧ SMap.get? s.outs 5 = some lodgedOp ∧ 5 < s.nextId ∧ (s.stand 1).gang = s.me.gang ∧
      lodgedOp.uid ≠ s.me.uid ∧ (s.stand 1).tiles < depthOf (s.core s.myCore) .tiles ∧ s.fillBefore s.myCore 1 5 = false ∧
      fits lodgedOp.mode ∧ s.me.tiles < depthOf (s.core s.myCore) .tiles ∧ s.fillBefore s.myCore 0 s.nextId = false ∧
      s.fillBefore s.myCore 63 s.nextId = false ∧ fits s.me.mode ∧ (∃ drawn, chargeAns s s.cur.st s.cur.path 3 6 0 = .ok drawn) ∧
      (s.grove s.me.grove).mbat = none) ∧
    ∃ s p q pair, Passes (.mma h1 15 0 15) s ∧ s.cur.replay = false ∧ (s.me.gang.extractLsb' 48 3).toNat ≤ 1 ∧ s.me.boundSlot 0 = some p ∧
      s.me.boundSlot 15 = some q ∧ s.aldBusy s.me.uid 15 = false ∧ s.me.failedInto [] (s.slotTables s.myCore [p, q]) = none ∧
      s.fillBefore s.myCore p s.nextId = false ∧ s.fillBefore s.myCore q s.nextId = false ∧
      s.me.tiles < depthOf (s.core s.myCore) .tiles ∧ (∃ drawn, chargeAns s s.cur.st s.cur.path 3 Config.chargeArray 0 = .ok drawn) ∧
      (s.grove s.me.grove).mbat = none ∧
      mmaPair (SMap.get ({} : OpSlot) (s.core s.myCore).oslots p).sfmt (SMap.get ({} : OpSlot) (s.core s.myCore).oslots q).sfmt = some pair ∧
      s.me.mode.toNat / 2 ^ 23 % 4 < pair.ratio :=
  ⟨⟨pair [], 0, passes (by decide +kernel), by decide +kernel⟩,
    ⟨pair [(5, lodgedOp)], passes (by decide +kernel), rfl, by decide +kernel, by decide +kernel, by decide +kernel, by decide +kernel, by decide +kernel, by decide +kernel,
      by decide +kernel, by decide +kernel, by decide +kernel, by decide +kernel, by decide +kernel, by decide +kernel, by decide +kernel, ⟨_, rfl, by decide +kernel⟩,
      by decide +kernel, by decide +kernel, by decide +kernel, ⟨_, rfl, by decide +kernel⟩, paid (by decide +kernel), rfl⟩,
    slots, 0, 63, _, passes (by decide +kernel), rfl, by decide +kernel, by decide +kernel, by decide +kernel, by decide +kernel, by decide +kernel, by decide +kernel,
    by decide +kernel, by decide +kernel, paid (by decide +kernel), rfl, rfl, by decide +kernel⟩

/-- A stand with an outstanding store. -/
def storing : State :=
  { mk { one 0xF with stores := 1 } with outs := [(5, op (.st h1 3 1 2) .stores 0 (.store [] none))] }

theorem met_OrderingInstructions :
    (∃ s, Passes (.phase h1 1 6) s) ∧ (∃ s, Passes (.phase h1 3 5) s ∧ s.accessesDone s.me.uid = false) ∧
    (∃ s, Passes (.phase h1 1 5) s ∧ s.accessesDone s.me.uid = true) ∧ (∃ s, Passes (.phase h1 3 2) s ∧ s.accessesDone s.me.uid = true) ∧
    (∃ s s1 lines drawn, Passes (.pref h1 true 1 2) s ∧ (s.core s.myCore).det = false ∧
      s.prefLines s.cur.st ((Mask.toList (s.acts (.pref h1 true 1 2))).map fun l => (l, s.me.sreg 2 + (s.me.vreg 1 l).signExtend 64)) = (s1, lines) ∧
      (s.env (.pref h1 true 1 2)).accessWait s1 true false = none ∧ chargeAns s1 s.cur.st s.cur.path 1 Config.chargeReplay 0 = .ok drawn) ∧
    (∃ s, Passes (.tmark h1 62) s ∧ (s.core s.myCore).trace.on = false) ∧
    ∀ size : Fin 64, ∃ s, Passes (.tmark h1 62) s ∧ s.cur.replay = false ∧ (s.core s.myCore).trace.on = true ∧ (s.core s.myCore).trace.lost = 0 ∧
      (s.core s.myCore).trace.size.toNat = size :=
  ⟨⟨et 0, passes (by decide +kernel)⟩, ⟨storing, passes (by decide +kernel), by decide +kernel⟩, ⟨et 0, passes (by decide +kernel), by decide +kernel⟩,
    ⟨et 0, passes (by decide +kernel), by decide +kernel⟩,
    ⟨acc 0x10000 0, _, _, 0, passes (by decide +kernel), by decide +kernel, rfl, by decide +kernel, by decide +kernel⟩,
    ⟨et 0, passes (by decide +kernel), by decide +kernel⟩,
    fun size => ⟨{ et 0 with cores := [(0, { core0 with trace := { base := 0x30000, size := BitVec.ofNat 64 size, on := true } })] },
      passes (by revert size; decide +kernel), by revert size; decide +kernel⟩⟩

theorem met_DropAndFlush :
    (∃ s s1 tiles, Passes (.discard h1 1 2) s ∧ (s.core s.myCore).det = false ∧ (s.me.sreg 1).toNat / 2 ^ 60 = 0 ∧ (s.me.sreg 1).toNat % 65536 = 0 ∧
      (s.me.sreg 2).toNat ≠ 0 ∧ (s.me.sreg 2).toNat % 65536 = 0 ∧ s.watchHit s.myCore false true ((s.me.sreg 1).toNat % 2 ^ 56) (s.me.sreg 2).toNat = none ∧
      (s.env (.discard h1 1 2)).accessWait s false false = none ∧
      s.discardPages s.cur.st ((s.me.sreg 1).toNat % 2 ^ 56) ((s.me.sreg 1).toNat % 2 ^ 56 + (s.me.sreg 2).toNat) ((s.me.sreg 1).toNat % 2 ^ 56)
        ((s.me.sreg 2).toNat / 65536) = (s1, .tiles tiles) ∧ (s.env (.discard h1 1 2)).full s1 .stores = false) ∧
    (∃ s, Passes (.discard h1 1 2) s ∧ (s.core s.myCore).det = false ∧ (s.me.sreg 1).toNat / 2 ^ 60 ≠ 0) ∧
    (∃ s, Passes (.discard h1 1 2) s ∧ (s.core s.myCore).det = false ∧ (s.me.sreg 1).toNat / 2 ^ 60 = 0 ∧ (s.me.sreg 1).toNat % 65536 ≠ 0) ∧
    (∃ s, Passes (.discard h1 1 2) s ∧ (s.core s.myCore).det = false ∧ (s.me.sreg 1).toNat / 2 ^ 60 = 0 ∧ (s.me.sreg 1).toNat % 65536 = 0 ∧ (s.me.sreg 2).toNat ≠ 0 ∧
      (s.me.sreg 2).toNat % 65536 = 0 ∧ s.watchHit s.myCore false true ((s.me.sreg 1).toNat % 2 ^ 56) (s.me.sreg 2).toNat ≠ none) ∧
    (∃ s ops, Passes (.rflush h1 1 2) s ∧ s.cur.replay = false ∧ s.myPath.flush = some ops ∧ ∀ op ∈ ops, SMap.get? s.outs op = none) ∧
    ∃ s drawn, Passes (.rflush h1 1 2) s ∧ s.cur.replay = false ∧ s.myPath.flush = none ∧ s.me.residuals = [] ∧ s.tilesOf s.me.uid = [] ∧
      chargeAns s s.cur.st s.cur.path 4 Config.chargeDrain 0 = .ok drawn :=
  ⟨⟨mk { one 0xF with sregs := [(1, 0x10000), (2, 0x20000)] }, _, _, passes (by decide +kernel), by decide +kernel, rfl, rfl, by decide +kernel, rfl, by decide +kernel, by decide +kernel, rfl,
      by decide +kernel⟩,
    ⟨mk { one 0xF with sregs := [(1, 0x1000000000000000)] }, passes (by decide +kernel), by decide +kernel, by decide +kernel⟩,
    ⟨mk { one 0xF with sregs := [(1, 0x1FFFF)] }, passes (by decide +kernel), by decide +kernel, by decide +kernel, by decide +kernel⟩,
    ⟨{ mk { one 0xF with sregs := [(1, 0x10000), (2, 0x10000)] } with cores := [(0, { core0 with watch := [(15, ⟨0x1FFFF, 1, false, true⟩)] })] }, passes (by decide +kernel), by decide +kernel,
      by decide +kernel, by decide +kernel, by decide +kernel, by decide +kernel, by decide +kernel⟩,
    ⟨mk { one 0xF with paths := [(0, { below 0 16 0xF with flush := some [5] })] }, [5], passes (by decide +kernel), rfl, rfl, by decide +kernel⟩,
    mk (one 0xF), 0, passes (by decide +kernel), rfl, rfl, rfl, rfl, by decide +kernel⟩

/-- A kernel with a small image, and a stand of it with an image's address in s1. -/
def smallKernel : Kernel := { Place.kernel with vregs := 1, sregs := 4, nacc := 0, nslot := 0, nhand := 0, nres := 0, scratch := 0 }
def image (st : Stand) : State :=
  { mk { st with sregs := [(1, 0x10000)] } with
    launches := [(1, { ctx := 1, kernel := smallKernel, left := 1 })] }

theorem clean {s : State} (h : s.poison = []) (p : Place) : s.poisonedAt p = false := by cases p <;> simp [State.poisonedAt, h, SMap.get]

/-- A residual slot whose last refusal was its eighth. -/
def residual : Residual :=
  { rva := 0x20000, rpa := 0x20000, stride := 128, et := 1, poisoned := false, count := 65535, tile := [(0, 7)], rows := (upFrom 0 32).map fun r => 0x20000 + 128 * r,
    since := 0, delay := 64, refused := 8, offer := none }

theorem met_ImagesIssue :
    (∃ s : State, s.cur.replay = false ∧ s.cur.path < 8 ∧ s.me.standid < 65536 ∧ s.me.ctx < 2 ^ 32 ∧
      (∀ kv ∈ s.me.oslots, kv.1 < (s.kernelOf s.me).nslot) ∧ ∀ kv ∈ s.me.residuals, kv.1 < (s.kernelOf s.me).nres) ∧
    (∃ (s s1 : State) (accs : List Acc) (low : DWord), Passes (.ptst h1 2 1) s ∧ s.cur.replay = false ∧ (s.me.sreg 1).toNat / 2 ^ 60 = 0 ∧ (s.me.sreg 1).toNat % 64 = 0 ∧
      s.me.alone s.cur.path = true ∧ s.drained s.me = true ∧
      s.access s.cur.st true (imageNeed false) (imagePieces (s.kernelOf s.me) (s.me.sreg 1)) = (s1, .go accs 0 low) ∧ s.myPath.pub = none) ∧
    (∃ (s s1 : State) (accs : List Acc) (low : DWord), Passes (.ptst h1 2 1) s ∧ s.cur.replay = false ∧ (s.me.sreg 1).toNat / 2 ^ 60 = 0 ∧ (s.me.sreg 1).toNat % 64 = 0 ∧
      s.me.alone s.cur.path = true ∧ s.drained s.me = true ∧
      s.access s.cur.st true (imageNeed false) (imagePieces (s.kernelOf s.me) (s.me.sreg 1)) = (s1, .go accs 0 low) ∧ s.myPath.pub = some 5 ∧
      (∀ p ∈ s.pubs, p.id ≠ 5) ∧
      ((s.me.spillParts (s.kernelOf s.me)).flatMap fun p => (List.range p.2.length).map (p.1 + ·)).find?
        (fun k => s1.poisonedAt (.mem (pieceAddr (rowPas accs) k))) = some 256) ∧
    (∃ (s s1 : State) (accs : List Acc) (low : DWord), Passes (.ptst h1 2 1) s ∧ s.cur.replay = false ∧ (s.me.sreg 1).toNat / 2 ^ 60 = 0 ∧ (s.me.sreg 1).toNat % 64 = 0 ∧
      s.me.alone s.cur.path = true ∧ s.drained s.me = true ∧
      s.access s.cur.st true (imageNeed false) (imagePieces (s.kernelOf s.me) (s.me.sreg 1)) = (s1, .go accs 0 low) ∧ s.myPath.pub = some 5 ∧
      (∀ p ∈ s.pubs, p.id ≠ 5) ∧
      ∀ p ∈ s.me.spillParts (s.kernelOf s.me), ∀ k, k < p.2.length → s1.poisonedAt (.mem (pieceAddr (rowPas accs) (p.1 + k))) = false) ∧
    ∃ (s s1 : State) (accs : List Acc) (low : DWord), Passes (.ptld h1 1) s ∧ (s.me.sreg 1).toNat / 2 ^ 60 = 0 ∧ (s.me.sreg 1).toNat % 64 = 0 ∧
      s.me.alone s.cur.path = true ∧ s.drained s.me = true ∧ s.me.oslots = [] ∧ s.me.residuals = [] ∧ s.me.members = [] ∧ s.me.inHandler = none ∧
      s.tagsHeld s.me.uid = false ∧ s.acqHeld s.me.uid = false ∧ s.readHeld s.me.uid = false ∧
      s.access s.cur.st true (imageNeed true) (imagePieces (s.kernelOf s.me) (s.me.sreg 1)) = (s1, .go accs 0 low) ∧
      ∃ drawn, chargeAns s1 s.cur.st s.cur.path 1 Config.chargeReplay
        (imgGrowth (s.kernelOf s.me) fun k => s1.pocByte s.myCore 5 (pieceAddr (rowPas accs) k)) = .ok drawn :=
  ⟨⟨mk { one 0xF with oslots := [(15, 63)], residuals := [(15, residual)] }, by decide +kernel⟩,
    ⟨image (one 0xF), _, _, _, passes (by decide +kernel), rfl, rfl, rfl, by decide +kernel, by decide +kernel, went (by decide +kernel), rfl⟩,
    ⟨{ image { one 0xF with paths := [(0, { below 0 16 0xF with pub := some 5 })] } with poison := [(0x10100 / 32, true)] }, _, _, _, passes (by decide +kernel), rfl, rfl, rfl,
      by decide +kernel, by decide +kernel, went (by decide +kernel), rfl, by decide +kernel, by decide +kernel⟩,
    ⟨image { one 0xF with paths := [(0, { below 0 16 0xF with pub := some 5 })] }, _, _, _, passes (by decide +kernel), rfl, rfl, rfl, by decide +kernel, by decide +kernel,
      went (by decide +kernel), rfl, by decide +kernel, fun _ _ _ _ => clean (by decide +kernel) _⟩,
    image (one 0xF), _, _, _, passes (by decide +kernel), rfl, rfl, by decide +kernel, by decide +kernel, rfl, rfl, rfl, rfl, by decide +kernel, by decide +kernel, by decide +kernel,
      went (by decide +kernel), paid (by decide +kernel)⟩

/-- A stand with a handle of a KIND and RIGHTS in h15. -/
def holding (kind rights : Nat) (mode : Word) : State := mk { one 0xF with mode := mode, hregs := [(15, dw (0x10000 + kind * 2 ^ 32 + rights * 2 ^ 36))] }

theorem met_HandleOperationsIssue :
    (∃ s m, Rule.detached s (.gbar h1 1 15) = some m ∧ Passes (.gbar h1 1 15) s ∧ ((s.me.hreg m.handle).extractLsb' 32 4).toNat ≠ m.kind) ∧
    (∃ s m, Rule.detached s (.qsteal h1 1 15 55) = some m ∧ Passes (.qsteal h1 1 15 55) s ∧ ((s.me.hreg m.handle).extractLsb' 32 4).toNat = m.kind ∧
      (s.me.hreg m.handle).getLsbD (36 + m.right) = false) ∧
    (∃ s m, Rule.detached s (.gred h1 1 15 2 2) = some m ∧ Passes (.gred h1 1 15 2 2) s ∧ ((s.me.hreg m.handle).extractLsb' 32 4).toNat = m.kind ∧
      (s.me.hreg m.handle).getLsbD (36 + m.right) = true ∧ s.groupBusy s.me.uid (s.me.hreg m.handle) = false ∧ s.accessesDone s.me.uid = true ∧
      (s.env (.gred h1 1 15 2 2)).full s m.ctr = false ∧ ∃ drawn, chargeAns s s.cur.st s.cur.path 2 Config.chargeDetach 0 = .ok drawn) ∧
    ∃ s m, Rule.detached s (.chapp h1 1 15 55) = some m ∧ Passes (.chapp h1 1 15 55) s ∧ ((s.me.hreg m.handle).extractLsb' 32 4).toNat = m.kind ∧
      (s.me.hreg m.handle).getLsbD (36 + m.right) = true ∧ m.kind ≠ 1 ∧ s.acqHeld s.me.uid = false ∧ m.rel.isSome = false ∧ (s.env (.chapp h1 1 15 55)).full s m.ctr = false ∧
      ∃ drawn, chargeAns s s.cur.st s.cur.path 2 Config.chargeDetach 0 = .ok drawn :=
  ⟨⟨holding 2 15 0, _, rfl, passes (by decide +kernel), by decide +kernel⟩, ⟨holding 2 3 0, _, rfl, passes (by decide +kernel), by decide +kernel, by decide +kernel⟩,
    ⟨holding 1 1 11, _, rfl, passes (by decide +kernel), by decide +kernel, by decide +kernel, by decide +kernel, by decide +kernel, by decide +kernel, paid (by decide +kernel)⟩,
    holding 3 1 0, _, rfl, passes (by decide +kernel), by decide +kernel, by decide +kernel, by decide +kernel, by decide +kernel, by decide +kernel, by decide +kernel, paid (by decide +kernel)⟩

theorem met_LineOperationsIssue :
    (∃ s, Passes (.tdone h1 2 63) s ∧ s.me.taskrec = 0) ∧
    (∃ (s s1 : State) (accs : List Acc) (low : DWord), Passes (.gcrt h1 2 1 3) s ∧ s.me.mode.toNat / 2 ^ 13 % 8 ≠ 0 ∧ (s.me.sreg 1).toNat / 2 ^ 60 = 0 ∧
      (s.me.sreg 1).toNat % 64 = 0 ∧ s.access s.cur.st true gcrtNeed [(0, s.me.sreg 1)] = (s1, .go accs 0 low) ∧
      (s.env (.gcrt h1 2 1 3)).accessWait s gcrtNeed.load false = none ∧ (s.env (.gcrt h1 2 1 3)).full s .detached = false ∧ ∃ drawn, chargeAns s1 s.cur.st s.cur.path 2 Config.chargeDetach 0 = .ok drawn) ∧
    (∃ (s s1 : State) (accs : List Acc) (low : DWord), Passes (.tdone h1 2 1) s ∧ s.me.sreg 1 ≠ 0 ∧ (s.me.sreg 1).toNat % 64 = 0 ∧
      s.access s.cur.st true tdoneNeed [(0, s.me.sreg 1)] = (s1, .go accs 0 low) ∧ s.accessesDone s.me.uid = true ∧
      (s.env (.tdone h1 2 1)).accessWait s tdoneNeed.load false = none ∧ (s.env (.tdone h1 2 1)).full s .detached = false ∧ ∃ drawn, chargeAns s1 s.cur.st s.cur.path 2 Config.chargeDetach 0 = .ok drawn) ∧
    (∃ (s s1 : State) (accs : List Acc) (low : DWord), Passes (.tempty h1 2 1) s ∧ (s.me.sreg 1).toNat % 65536 = 0 ∧
      s.access s.cur.st true (bufferNeed false) [(0, s.me.sreg 1)] = (s1, .go accs 0 low) ∧ s.accessesDone s.me.uid = true ∧
      (s.env (.tempty h1 2 1)).accessWait s (bufferNeed false).load false = none ∧ (s.env (.tempty h1 2 1)).full s .detached = false ∧ ∃ drawn, chargeAns s1 s.cur.st s.cur.path 2 Config.chargeDetach 0 = .ok drawn) ∧
    ∃ (s s1 : State) (accs : List Acc) (low : DWord), Passes (.tstat h1 2 1) s ∧ (s.me.sreg 1).toNat % 65536 = 0 ∧
      s.access s.cur.st true (bufferNeed true) [(0, s.me.sreg 1)] = (s1, .go accs 0 low) ∧
      (s.env (.tstat h1 2 1)).accessWait s (bufferNeed true).load false = none ∧ (s.env (.tstat h1 2 1)).full s .detached = false ∧ ∃ drawn, chargeAns s1 s.cur.st s.cur.path 2 Config.chargeDetach 0 = .ok drawn :=
  ⟨⟨mk (one 0xF), passes (by decide +kernel), rfl⟩,
    ⟨mk { one 0xF with mode := 0x2000, sregs := [(1, 0x1FFC0)] }, _, _, _, passes (by decide +kernel), by decide +kernel, rfl, rfl, went (by decide +kernel), by decide +kernel, by decide +kernel, paid (by decide +kernel)⟩,
    ⟨mk { one 0xF with sregs := [(1, 0x1FFC0)] }, _, _, _, passes (by decide +kernel), by decide +kernel, rfl, went (by decide +kernel), by decide +kernel, by decide +kernel, by decide +kernel, paid (by decide +kernel)⟩,
    ⟨mk { one 0xF with sregs := [(1, 0x10000)] }, _, _, _, passes (by decide +kernel), rfl, went (by decide +kernel), by decide +kernel, by decide +kernel, by decide +kernel, paid (by decide +kernel)⟩,
    mk { one 0xF with mode := 0x1A000, sregs := [(1, 0x10000)] }, _, _, _, passes (by decide +kernel), rfl, went (by decide +kernel), by decide +kernel, by decide +kernel, paid (by decide +kernel)⟩

theorem met_HandleRegisters :
    (∃ s : State, Passes (.s2h h1 15 1 15) s ∧ (s.me.sreg 1).extractLsb' 32 4 = 0) ∧
    (∃ s : State, Passes (.s2h h1 15 1 15) s ∧ ((s.me.sreg 1).extractLsb' 32 4).toNat = 4 ∧
      ((s.me.sreg 1).extractLsb' 40 24).toNat = handleMac (s.ctx s.me.ctx) (s.me.sreg 1).toNat) ∧
    (∃ s : State, Passes (.chadv h1 15) s ∧ ((s.me.hreg 15).extractLsb' 32 4).toNat ≠ 3) ∧
    (∃ s : State, Passes (.chadv h1 15) s ∧ ((s.me.hreg 15).extractLsb' 32 4).toNat = 3 ∧ (s.me.hreg 15).getLsbD 36 = false) ∧
    (∃ s : State, Passes (.chadv h1 15) s ∧ ((s.me.hreg 15).extractLsb' 32 4).toNat = 3 ∧ (s.me.hreg 15).getLsbD 36 = true ∧ s.chainOf (s.me.hreg 15) = none) ∧
    ∃ s c, Passes (.chadv h1 15) s ∧ ((s.me.hreg 15).extractLsb' 32 4).toNat = 3 ∧ (s.me.hreg 15).getLsbD 36 = true ∧ s.chainOf (s.me.hreg 15) = some c ∧
      2 ≤ c.scope ∧ s.accessesDone s.me.uid = true ∧ s.me.residuals = [] ∧ ∀ p ∈ s.pubs, p.id < s.nextId :=
  ⟨⟨mk { one 0xF with sregs := [(1, 0)] }, passes (by decide +kernel), rfl⟩,
    ⟨mk { one 0xF with sregs := [(1, mkHandle Place.ctx 4 15 65535 3 16383)] }, passes (by decide +kernel), by decide +kernel, by decide +kernel⟩,
    ⟨holding 4 15 0, passes (by decide +kernel), by decide +kernel⟩, ⟨holding 3 14 0, passes (by decide +kernel), by decide +kernel, by decide +kernel⟩,
    ⟨holding 3 15 0, passes (by decide +kernel), by decide +kernel, by decide +kernel, by decide +kernel⟩,
    { holding 3 15 0 with chains := [(handleKey 0x300010000, { ctx := 1, ring := 0, cap := 64, scope := 2 })] }, { ctx := 1, ring := 0, cap := 64, scope := 2 }, passes (by decide +kernel), by decide +kernel,
      by decide +kernel, by decide +kernel, by decide, by decide +kernel, rfl, by decide +kernel⟩

theorem met_SpawnMakesStands :
    (∃ s : State, Passes (.spawn h1 2 1 0x110000) s ∧ s.cur.replay = false) ∧
    (∃ (s : State) (drawn : Nat), Passes (.spawn h1 2 1 0x100000) s ∧ s.cur.replay = false ∧ 0 < (s.kernelOf s.me).entries.length ∧ s.spawnHeld s.me.uid = false ∧
      chargeAns s s.cur.st s.cur.path 5 0 (16 * (s.kernelOf s.me).standBytes) = .ok drawn ∧
      ¬ (s.kernelOf s.me).holds ((s.grove s.me.grove).size + 16) = true) ∧
    ∃ (s : State) (drawn : Nat), Passes (.spawn h1 2 1 0x100000) s ∧ s.cur.replay = false ∧ 0 < (s.kernelOf s.me).entries.length ∧ s.spawnHeld s.me.uid = false ∧
      chargeAns s s.cur.st s.cur.path 5 0 (16 * (s.kernelOf s.me).standBytes) = .ok drawn ∧
      16 ≤ (s.freeIdx s.myCore).length ∧ 16 ≤ (s.freeIds s.me.grove (s.kernelOf s.me)).length ∧ (s.grove s.me.grove).size + 16 ≤ 64 ∧
      (s.kernelOf s.me).holds ((s.grove s.me.grove).size + 16) = true ∧ SMap.sortedFrom 0 s.stands = true ∧
      (SMap.get? s.stands s.cur.st).isSome = true :=
  ⟨⟨ring (one 0xF), passes (by decide +kernel), rfl⟩,
    ⟨mk (one 0xF), 0, passes (by decide +kernel), rfl, by decide +kernel, by decide +kernel, by decide +kernel, by decide +kernel⟩,
    ring (one 0xF), 0, passes (by decide +kernel), rfl, by decide +kernel, by decide +kernel, by decide +kernel, by decide +kernel, by decide +kernel, by decide +kernel, by decide +kernel,
      rfl, rfl⟩


/-! ### What operations do after they have issued -/

/-- Every request that the outstanding operations have to make has arrived at its home, in the order of the operations. -/
def served (s : State) : State :=
  s.outs.foldl (fun u x => (s.asks x.1 x.2).foldl (fun v a =>
    v.modHome a.1 fun h => { h with arrived := h.arrived ++ [⟨x.1, a.2, coreOf x.2.st, 0, 0⟩] }) u) s

/-- A machine whose stand has operations outstanding, which issued 16 cycles ago; and with their requests at their homes. -/
def flight (ops : List (Nat × Out)) : State :=
  { mk { one 0xF with loads := 1, stores := 1, copies := 1, tiles := 1, detached := 1 } with outs := ops, dies := [(0, { cyc := 16 })] }
def busy (ops : List (Nat × Out)) : State := served (flight ops)

/-- The conditions of `Rule.Of`, as a test. -/
def ofB (s : State) (n : Nat) (o : Out) : Bool :=
  decide (SMap.get? s.outs n = some o) && !o.orphan && (SMap.get? s.stands o.st).isSome && s.carried o && !o.spec &&
    (o.lead.isNone && !o.more && !s.followed n && decide (o.fl = 0)) && s.ripe o

theorem of {s : State} {n : Nat} {o : Out} (h : ofB s n o = true) : Rule.Of s n o := by
  simp only [ofB, Bool.and_eq_true, Bool.not_eq_true', decide_eq_true_eq, Option.isNone_iff_eq_none] at h
  exact ⟨h.1.1.1.1.1.1, h.1.1.1.1.1.2, h.1.1.1.1.2, h.1.1.1.2, h.1.1.2, ⟨h.1.2.1.1.1, h.1.2.1.1.2, h.1.2.1.2, h.1.2.2⟩, h.2⟩

/-- A lane's access to a B32 page. -/
def at4 (lane pa : Nat) : Acc := ⟨lane, dw pa, .mem pa, 0, 0, 65536, 65536⟩

/-- Operations of the first stand. -/
def ldOp : Out := op (.ld h1 127 1 2) .loads 1 (.load [at4 0 0x10000, at4 31 0x1FFFC] 0)
def sldOp : Out := op (.sld h1 62 1) .loads 1 (.sload (at4 0 0x1FFF8))
def tagOp : Out := op (.tagget h1 3 4) .loads 1 (.tagget [at4 0 0x30000, at4 31 0x3FFFF])
def prefOp : Out := op (.pref h1 false 1 2) .none 1 .pref
def stOp (sc : Option Nat) : Out := op (.st h1 3 1 2) .stores 0 (.store [⟨.mem 0x10000, 0x10000, 5, 0x0F⟩, ⟨.mem 0x10000, 0x10000, 7, 0xFF⟩] sc)
def dropOp : Out := op (.discard h1 1 2) .stores 0 (.discard 0x10000 [0x10000])
def restOp : Out := op (.aadd h1 127 4 1) .stores 0 (.atomic [⟨.mem 0x10000, 0x10000, [31], false⟩] 11 0 [(31, 7)] [] [] 0 0)

theorem met_LoadsReturn :
    (∃ s n o accs scloff h d a b, Rule.Of s n o ∧ s.turns n o = s.needs o ∧ o.work = .load accs scloff ∧ o.ins = .ld h d a b ∧ s.mayPerform n o false = true ∧ s.peerHeld .load o.named = false ∧
      (s.core (coreOf o.st)).combine = [] ∧ (∀ x ∈ accs, ∀ p ∈ loadPlaces o.mode scloff x, s.poisonedAt p = false) ∧
      (∀ x ∈ accs, x.lane < 32) ∧ (accs.map (·.lane)).Nodup) ∧
    (∃ s n o x h d a, Rule.Of s n o ∧ s.turns n o = s.needs o ∧ o.work = .sload x ∧ o.ins = .sld h d a ∧ s.mayPerform n o false = true ∧ s.peerHeld .load o.named = false ∧
      (s.core (coreOf o.st)).combine = [] ∧ ∀ p ∈ x.pl.span 8, s.poisonedAt p = false) ∧
    (∃ s n o accs h d a, Rule.Of s n o ∧ s.turns n o = s.needs o ∧ o.work = .tagget accs ∧ o.ins = .tagget h d a ∧ s.mayPerform n o false = true ∧
      (∀ x ∈ accs, s.poisonedAt x.pl = false) ∧ (∀ x ∈ accs, x.lane < 32) ∧ (accs.map (·.lane)).Nodup) ∧
    ∃ s n o, Rule.Of s n o ∧ o.work = .pref ∧ s.mayPerform n o false = true :=
  ⟨⟨busy [(5, ldOp)], 5, ldOp, _, _, _, _, _, _, of (by decide +kernel), by decide +kernel, rfl, rfl, by decide +kernel, by decide +kernel,
      by decide +kernel, by decide +kernel, by decide +kernel, by decide +kernel⟩,
    ⟨busy [(5, sldOp)], 5, sldOp, _, _, _, _, of (by decide +kernel), by decide +kernel, rfl, rfl, by decide +kernel, by decide +kernel, by decide +kernel, by decide +kernel⟩,
    ⟨busy [(5, tagOp)], 5, tagOp, _, _, _, _, of (by decide +kernel), by decide +kernel, rfl, rfl, by decide +kernel, by decide +kernel, by decide +kernel, by decide +kernel⟩,
    busy [(5, prefOp)], 5, prefOp, of (by decide +kernel), rfl, by decide +kernel⟩

/-- A returning atomic of a word, performed or not. -/
def atom (done : Bool) : Out := op (.aadd h1 126 4 1) .loads 2 (.atomic [⟨.mem 0x10000, 0x10000, [0, 31], done⟩] 11 0 [(0, 5), (31, 7)] [] [] 0 0)

/-- A machine whose home has seen the request of that word. -/
def atHome : State := { busy [(5, atom false)] with homes := [((homeOf 0x10000).getD 0, { arrived := [⟨5, 0, 0, 0, 0⟩] })] }

/-- An entry of the combining buffer of the first stand. -/
def resting : Comb := ⟨0x10000, .aadd h1 127 4 1, 11, 0, 5, [⟨1, 1, 0, 2, 0x10000, 1⟩], 0⟩

/-- A publication of that stand at a scope, which waits for a tile that has gone. -/
def publication (scope : Nat) : Pub := ⟨3, 1, 0, scope, false, [2], none⟩

/-- A store whose line backs a group. -/
def lateStore : Out := op (.st h1 3 1 2) .stores 0 (.store [⟨.mem 0x10000, 0x10000, 5, 0xFF⟩] (some 7))

theorem met_WritesPerform :
    (∀ sc, sc ∈ [none, some 2, some 3, some 7] → ∃ s n o wr, Rule.Of s n o ∧ s.turns n o = s.needs o ∧ s.peerHeld .store o.named = false ∧ o.work = .store wr sc ∧ o.acq = none ∧ s.mayPerform n o true = true ∧ (s.core (coreOf o.st)).combine = [] ∧
      (∀ w ∈ wr, ∃ pa, w.pl = .mem pa) ∧ ∀ w ∈ wr, s.wrLive w = false) ∧
    (∀ more, more ∈ [[], [0x11000]] → ∃ s n o va x, Rule.Of s n o ∧ s.turns n o = s.needs o ∧ o.work = .discard va (x :: more) ∧ x % 4096 = 0 ∧ s.pubBefore o.uid n = false ∧ s.earlierInTile o.uid n x = false ∧
      s.earlier o.uid n Out.storesMem = false ∧ (s.core (coreOf o.st)).combine = []) ∧
    (∃ s n o pa va l et rm x y, Rule.Of s n o ∧ o.work = .atomic [⟨.mem pa, va, [l], false⟩] et rm x y [] 0 0 ∧ o.rests = true ∧ o.cls = 0 ∧ s.peerHeld .store o.named = false ∧ (∀ g ∈ ((s.stand o.st).path o.path).glines, g.1 ≠ n) ∧
      s.mayPerform n o true = true ∧ (s.core (coreOf o.st)).combine = [] ∧ SMap.get? s.live (lineNo pa) = none) ∧
    (∃ s n o a k w pa, Rule.Of s n o ∧ o.atomicSt = some a ∧ a.ws[k]? = some w ∧ w.done = false ∧ w.pl = .mem pa ∧ o.rests = false ∧
      s.earlierAccess o.uid n (w.pl.span 4) = false ∧ s.pubBefore o.uid n = false ∧ (inWindow0 w.va = true → s.earlier o.uid n Out.ownScratch = false) ∧
      s.peerHeld .store ((w.pl.span 4).map (w.va, ·)) = false ∧ (∀ h, w.home = some h → s.homeTurn h n k = true) ∧
      pa % 4 = 0 ∧ pa < Config.tagBase ∧ (s.core (coreOf o.st)).combine = [] ∧ SMap.get? s.live (lineNo pa) = none ∧ s.poisonedAt w.pl = false) ∧
    (∃ s n o a, Rule.Of s n o ∧ o.atomicSt = some a ∧ o.cls = 2 ∧ o.redirect = none ∧ (∀ w ∈ a.ws, w.done = true) ∧ a.poison = 0 ∧ atomicDst o.ins < 127) ∧
    (∃ (s : State) (core : Nat) (e : Comb) (rest : List Comb), (s.core core).combine = e :: rest ∧ s.fab.up = true ∧ s.poisonedAt (.mem e.pa) = false ∧
      SMap.get? s.live (lineNo e.pa) = none ∧ e.pa % 4 = 0 ∧ e.pa < Config.tagBase) ∧
    (∀ scope, scope ∈ [2, 3, 5] → ∃ (s : State) (p : Pub), s.pubs.find? (fun q => q.core == p.core) = some p ∧ s.pubs.find? (fun q => q.id == p.id) = some p ∧ p.scope = scope ∧ p.chain = none ∧
      s.fab.up = true ∧ (∀ n ∈ p.tiles, SMap.get? s.outs n = none) ∧ (s.core p.core).combine = [] ∧ s.live = []) ∧
    ∃ s n o w sc l, Rule.Of s n o ∧ s.turns n o = s.needs o ∧ s.peerHeld .store o.named = false ∧ o.work = .store [w] sc ∧ s.mayPerform n o true = true ∧ (s.core (coreOf o.st)).combine = [] ∧ w.line = some l ∧
      (SMap.get? s.live l).isSome = true ∧ ((s.stand o.st).path o.path).state ≠ .free ∧ ((s.stand o.st).path o.path).glines = [] :=
  ⟨fun sc h => ⟨busy [(5, stOp sc)], 5, stOp sc, _, of (by revert sc; decide +kernel), by revert sc; decide +kernel, by revert sc; decide +kernel, rfl, rfl, by revert sc; decide +kernel, by revert sc; decide +kernel, by simp, by revert sc; decide +kernel⟩,
    fun more h => ⟨busy [(5, { dropOp with work := .discard 0x10000 (0x10000 :: more) })], 5, { dropOp with work := .discard 0x10000 (0x10000 :: more) }, 0x10000, 0x10000, of (by revert more; decide +kernel), by revert more; decide +kernel, rfl, rfl,
      by revert more; decide +kernel, by revert more; decide +kernel, by revert more; decide +kernel, by revert more; decide +kernel⟩,
    ⟨busy [(5, restOp)], 5, restOp, _, _, _, _, _, _, _, of (by decide +kernel), rfl, by decide +kernel, rfl, by decide +kernel, by decide +kernel, by decide +kernel, by decide +kernel, rfl⟩,
    ⟨atHome, 5, atom false, ⟨[⟨.mem 0x10000, 0x10000, [0, 31], false⟩], 11, 0, [(0, 5), (31, 7)], [], [], 0, 0⟩, 0, ⟨.mem 0x10000, 0x10000, [0, 31], false⟩, 0x10000,
      of (by decide +kernel), rfl, rfl, rfl, rfl, by decide +kernel, by decide +kernel, by decide +kernel, by decide +kernel, by decide +kernel, fun h e => by cases e; decide +kernel, rfl, by decide, by decide +kernel, rfl,
      by decide +kernel⟩,
    ⟨busy [(5, atom true)], 5, atom true, ⟨[⟨.mem 0x10000, 0x10000, [0, 31], true⟩], 11, 0, [(0, 5), (31, 7)], [], [], 0, 0⟩, of (by decide +kernel), rfl, rfl, rfl, by simp, rfl, by decide +kernel⟩,
    ⟨{ busy [] with cores := [(0, { core0 with combine := [resting] })] }, 0, resting, [], rfl, rfl, by decide +kernel, rfl, rfl, by decide⟩,
    fun scope h => ⟨{ busy [] with pubs := [publication scope] }, publication scope, by revert scope; decide +kernel, by revert scope; decide +kernel, rfl, rfl, rfl, by revert scope; decide +kernel,
      rfl, rfl⟩,
    { busy [(5, lateStore)] with live := [(lineNo 0x10000, dirKey 1 0 0)] }, 5, lateStore, _, _, lineNo 0x10000, of (by decide +kernel), by decide +kernel, by decide +kernel, rfl, by decide +kernel, by decide +kernel, rfl, by decide +kernel,
      by decide +kernel, by decide +kernel⟩

/-- A tile of FP32 whose rows begin at 0x20000, at a stage. -/
def tileAt (stage : TStage) (ast : Bool) : Tile :=
  { rva := 0x20000, rpa := 0x20000, stride := 128, et := 1, rows := (upFrom 0 32).map fun r => 0x20000 + 128 * r, vals := [(0, 5)], stage := stage, ast := ast,
    slot := none, grow := false, poisoned := false, refusals := 7, delay := 1024, since := 0 }

/-- The operation that carries it, from a TACC or an AST. -/
def tileOut (t : Tile) : Out := { op (if t.ast then .ast h1 0 2 128 else .tacc h1 0 2 128) .tiles 4 (.tile t) with mode := 1 }

/-- A machine whose core has that operation in its drain path; its home has seen the request, and holds the tiles `l`. -/
def draining (t : Tile) (l : List HomeTile) : State :=
  { flight [(5, tileOut t)] with
    cores := [(0, { core0 with drain := [5] })], homes := [((homeOf 0x20000).getD 0, { arrived := [⟨5, 0, 0, 0, 0⟩, ⟨5, 1, 0, 0, 0⟩], tiles := l })] }

theorem met_TilesTravel :
    (∃ (s : State), ∃ core n o x, s.nextHeader core = some n ∧ s.tileOp n = some (o, x) ∧ x.stage = .drain ∧ x.ast = false ∧ s.sameDestWaits n o x = false ∧
      s.pubBefore o.uid n = false) ∧
    (∃ (s : State), ∃ n o x, s.tileOp n = some (o, x) ∧ x.stage = .offered ∧ s.carried o = true ∧ s.homeTurn x.home n 0 = true) ∧
    (∃ (s : State), ∃ n o x, Rule.Of s n o ∧ s.tileOp n = some (o, x) ∧ x.stage = .granted ∧ x.slot = none ∧ x.ast = false ∧ x.grow = false ∧
      s.homeTurn x.home n 1 = true ∧ (∀ kv ∈ s.outs, ∀ l, kv.2.work ≠ .rflush l) ∧ ∀ k r, (s.stand o.st).slotFor x.rpa x.stride x.et = some (k, r) → r.offer = none) ∧
    (∃ (s : State), ∃ n o x, Rule.Of s n o ∧ s.tileOp n = some (o, x) ∧ x.stage = .refused ∧ x.slot = none ∧ x.ast = false ∧ x.grow = false ∧
      s.wantedByFlush o.uid n = false ∧ s.wantedByPub n = false ∧ ∀ kv ∈ s.outs, ∀ l, kv.2.work ≠ .rflush l) ∧
    (∃ (s : State), ∃ core n o x, s.nextHeader core = some n ∧ s.tileOp n = some (o, x) ∧ x.stage = .backoff) ∧
    (∃ (s : State), ∃ key slot st r, SMap.get? s.stands key = some st ∧ SMap.get? st.residuals slot = some r ∧ r.offer = none) ∧
    (∃ (s : State), ∃ n o x, s.tileOp n = some (o, x) ∧ x.stage = .flushing ∧ s.carried o = true ∧
      (∀ y ∈ (s.home x.home).tiles, ¬ (y.flush = true ∧ y.core = coreOf o.st)) ∧ s.sameDestWaits n o x = false ∧ s.tileHeld o.uid n = false ∧
      s.nextHeader (coreOf o.st) = some n) ∧
    (∃ (s : State), ∃ n o x y, s.tileOp n = some (o, x) ∧ (s.home x.home).tiles.find? (fun z => z.rpa == x.rpa) = some y ∧ y.op = n ∧ y.sent = true ∧
      s.tileHeld o.uid n = false ∧ x.poisoned = false ∧ s.live = [] ∧ x.rows.length = 32 ∧
      ∀ i j, i < j → j < 32 → x.rows.getD i 0 + 128 ≤ x.rows.getD j 0 ∨ x.rows.getD j 0 + 128 ≤ x.rows.getD i 0) ∧
    ∃ (s : State), ∃ n o x, Rule.Of s n o ∧ s.turns n o = s.needs o ∧ s.tileOp n = some (o, x) ∧ x.stage = .home ∧ x.ast = true ∧ s.mayPerform n o true = true ∧
      (s.core (coreOf o.st)).combine = [] ∧ x.poisoned = false ∧ s.live = [] ∧ s.poison = [] ∧ x.rows.length = 32 ∧
      ∀ i j, i < j → j < 32 → x.rows.getD i 0 + 128 ≤ x.rows.getD j 0 ∨ x.rows.getD j 0 + 128 ≤ x.rows.getD i 0 :=
  have apart (t : TStage) (b : Bool) : ∀ i j, i < j → j < 32 → (tileAt t b).rows.getD i 0 + 128 ≤ (tileAt t b).rows.getD j 0 ∨ (tileAt t b).rows.getD j 0 + 128 ≤ (tileAt t b).rows.getD i 0 :=
    fun i j h k => (by decide +kernel : ∀ j, j < 32 → ∀ i, i < j → (tileAt .home true).rows.getD i 0 + 128 ≤ (tileAt .home true).rows.getD j 0 ∨
      (tileAt .home true).rows.getD j 0 + 128 ≤ (tileAt .home true).rows.getD i 0) j k i h
  have noflush (t : Tile) (l : List HomeTile) : ∀ kv ∈ (draining t l).outs, ∀ m, kv.2.work ≠ .rflush m := by
    intro kv h m; obtain rfl := List.mem_singleton.1 h; simp [tileOut, op]
  ⟨⟨draining (tileAt .drain false) [], 0, 5, tileOut (tileAt .drain false), tileAt .drain false, by decide +kernel, rfl, rfl, rfl, by decide +kernel, by decide +kernel⟩,
    ⟨draining (tileAt .offered false) [], 5, tileOut (tileAt .offered false), tileAt .offered false, rfl, rfl, by decide +kernel, by decide +kernel⟩,
    ⟨draining (tileAt .granted false) [⟨5, 0, 0x20000, false, false⟩], 5, tileOut (tileAt .granted false), tileAt .granted false, of (by decide +kernel), rfl, rfl, rfl, rfl, rfl, by decide +kernel, noflush _ _,
      fun k r h => by cases h⟩,
    ⟨draining (tileAt .refused false) [], 5, tileOut (tileAt .refused false), tileAt .refused false, of (by decide +kernel), rfl, rfl, rfl, rfl, rfl, by decide +kernel, by decide +kernel,
      noflush _ _⟩,
    ⟨draining (tileAt .backoff false) [], 0, 5, tileOut (tileAt .backoff false), tileAt .backoff false, by decide +kernel, rfl, rfl⟩,
    ⟨mk { one 0xF with residuals := [(15, residual)] }, 0, 15, { one 0xF with residuals := [(15, residual)] }, residual, rfl, rfl, rfl⟩,
    ⟨draining (tileAt .flushing false) [], 5, tileOut (tileAt .flushing false), tileAt .flushing false, rfl, rfl, by decide +kernel, by decide +kernel, by decide +kernel, by decide +kernel,
      by decide +kernel⟩,
    ⟨draining (tileAt .home false) [⟨5, 0, 0x20000, false, true⟩], 5, tileOut (tileAt .home false), tileAt .home false, ⟨5, 0, 0x20000, false, true⟩, rfl, by decide +kernel, rfl, rfl, by decide +kernel, rfl, rfl, rfl,
      apart _ _⟩,
    draining (tileAt .home true) [], 5, tileOut (tileAt .home true), tileAt .home true, of (by decide +kernel), by decide +kernel, rfl, rfl, rfl, by decide +kernel, by decide +kernel, rfl, rfl, rfl, rfl, apart _ _⟩

/-- Copies, fills, MMAs, ALD and CBLD of the first stand. -/
def inOp : Out := op (.cpin h1 false 7 2 4 1 4) .copies 1 (.copy [(.mem 0x10000, .scr 1 0)] none (some (1, 0, 3)) false)
def outOp : Out := { op (.cpout h1 0 2 4 1 4) .copies 1 (.copy [(.scr 1 16383, .mem 0x1FFFF)] none (some (1, 16383, 16383)) true) with mode := 3 * 8192 }
def fillOp : Out := op (.cpin h1 true 7 2 0 1 4) .copies 1 (.copy [(.mem 0x10000, .mem 0)] (some (63, { sfmt := 2, rows := 32 })) none false)
def oldOp : Out := op (.old h1 15 2 1) .copies 1 (.old 63 { sfmt := 2, rows := 1 } ((Place.scr 1 0).span 128))
def mmaOp (x : MStage) : Out := op (.mma h1 15 0 15) .tiles 3 (.mma 0 63 x [] [] 0)
def aldOp : Out := op (.ald h1 15 2 128) .tiles 1 (.ald ((upFrom 0 32).map fun r => 0x20000 + 128 * r))
def cbldOp : Out := op (.cbld h1 7 2) .loads 1 (.cbld 0x1FC00 0x1FC00)

theorem met_EnginesComplete :
    (∃ s n o mv range g gv, Rule.Of s n o ∧ s.turns n o = s.needs o ∧ o.work = .copy mv none range false ∧ s.streamBefore o.uid n = false ∧ s.pubBefore o.uid n = false ∧
      s.earlierAccess o.uid n (mv.map (·.1) ++ mv.map (·.2)) = false ∧ s.earlier o.uid n Out.anyScratch = false ∧ (s.core (coreOf o.st)).combine = [] ∧
      (∀ x ∈ mv, s.poisonedAt x.1 = false) ∧ (mv.map (·.2)).Nodup ∧ SMap.get? s.groves g = some gv ∧ (∀ x ∈ mv, ∃ off, x.2 = .scr g off) ∧
      copyToken o.ins = some 7 ∧ ∀ kv ∈ s.outs, kv.1 ≠ n → kv.2.uid = o.uid → copyToken kv.2.ins ≠ some 7) ∧
    (∃ s n o mv range g gv, Rule.Of s n o ∧ s.turns n o = s.needs o ∧ o.work = .copy mv none range true ∧ s.streamBefore o.uid n = false ∧ s.pubBefore o.uid n = false ∧
      s.earlierAccess o.uid n (mv.map (·.1) ++ mv.map (·.2)) = false ∧ s.earlier o.uid n Out.anyScratch = false ∧ (s.core (coreOf o.st)).combine = [] ∧
      (∀ x ∈ mv, s.poisonedAt x.1 = false) ∧ (mv.map (·.2)).Nodup ∧ SMap.get? s.groves g = some gv ∧ (∀ x ∈ mv, ∃ pa, x.2 = .mem pa) ∧
      3 ≤ o.mode.toNat / 8192 % 8 ∧ s.live = []) ∧
    (∃ s n o mv p desc range, Rule.Of s n o ∧ s.turns n o = s.needs o ∧ o.work = .copy mv (some (p, desc)) range false ∧ s.streamBefore o.uid n = false ∧
      s.pubBefore o.uid n = false ∧ s.earlierAccess o.uid n (mv.map (·.1) ++ desc.scaleSrc.map Place.mem) = false ∧ s.earlier o.uid n Out.anyScratch = false ∧ s.mmaBefore (coreOf o.st) p n = false ∧
      (s.core (coreOf o.st)).combine = [] ∧ (∀ x ∈ mv, s.poisonedAt x.1 = false) ∧ ∀ pa ∈ desc.scaleSrc, s.poisonedAt (.mem pa) = false) ∧
    (∃ s n o p desc src, Rule.Of s n o ∧ o.work = .old p desc src ∧ s.streamBefore o.uid n = false ∧ s.mayPerform n o false = true ∧
      s.mmaBefore (coreOf o.st) p n = false) ∧
    (∃ s n o h d a b p q tb vs fl pair, Rule.Of s n o ∧ o.ins = .mma h d a b ∧ o.work = .mma p q .queued tb vs fl ∧
      s.accBefore o.uid n d.toNat = false ∧ s.fillBefore (coreOf o.st) p n = false ∧ s.fillBefore (coreOf o.st) q n = false ∧
      mmaPair (SMap.get ({} : OpSlot) (s.core (coreOf o.st)).oslots p).sfmt (SMap.get ({} : OpSlot) (s.core (coreOf o.st)).oslots q).sfmt = some pair) ∧
    (∃ s n o h d a b p q tb vs fl, Rule.Of s n o ∧ o.ins = .mma h d a b ∧ o.work = .mma p q .started tb vs fl) ∧
    (∃ s n o h d a lit rows, Rule.Of s n o ∧ s.turns n o = s.needs o ∧ o.ins = .ald h d a lit ∧ o.work = .ald rows ∧ s.mayPerform n o false = true ∧
      s.accBefore o.uid n d.toNat = false ∧ (s.core (coreOf o.st)).combine = [] ∧
      ∀ x ∈ rows.flatMap fun r => (Place.mem r).span 128, s.poisonedAt x = false) ∧
    ∃ s n o h tab a pa va b, Rule.Of s n o ∧ s.turns n o = s.needs o ∧ o.ins = .cbld h tab a ∧ o.work = .cbld pa va ∧ s.mayPerform n o false = true ∧
      s.tableInUse (coreOf o.st) o.ctx tab.toNat = false ∧ (s.core (coreOf o.st)).combine = [] ∧ s.slotOf (coreOf o.st) o.ctx = some b ∧
      ∀ x ∈ (Place.mem pa).span 1024, s.poisonedAt x = false :=
  ⟨⟨busy [(5, inOp)], 5, inOp, _, _, 1, _, of (by decide +kernel), by decide +kernel, rfl, by decide +kernel, by decide +kernel, by decide +kernel, by decide +kernel, by decide +kernel, by decide +kernel, by decide +kernel, rfl, by simp,
      by decide +kernel, by decide +kernel⟩,
    ⟨busy [(5, outOp)], 5, outOp, _, _, 1, _, of (by decide +kernel), by decide +kernel, rfl, by decide +kernel, by decide +kernel, by decide +kernel, by decide +kernel, by decide +kernel, by decide +kernel, by decide +kernel, rfl, by simp,
      by decide +kernel, rfl⟩,
    ⟨busy [(5, fillOp)], 5, fillOp, _, _, _, _, of (by decide +kernel), by decide +kernel, rfl, by decide +kernel, by decide +kernel, by decide +kernel, by decide +kernel, by decide +kernel, by decide +kernel, by decide +kernel,
      by decide +kernel⟩,
    ⟨busy [(5, oldOp)], 5, oldOp, _, _, _, of (by decide +kernel), rfl, by decide +kernel, by decide +kernel, by decide +kernel⟩,
    ⟨{ busy [(5, mmaOp .queued)] with cores := slots.cores }, 5, mmaOp .queued, _, _, _, _, _, _, _, _, _, ⟨64, 1, false⟩, of (by decide +kernel), rfl, rfl, by decide +kernel, by decide +kernel,
      by decide +kernel, rfl⟩,
    ⟨busy [(5, mmaOp .started)], 5, mmaOp .started, _, _, _, _, _, _, _, _, _, of (by decide +kernel), rfl, rfl⟩,
    ⟨busy [(5, aldOp)], 5, aldOp, _, _, _, _, _, of (by decide +kernel), by decide +kernel, rfl, rfl, by decide +kernel, by decide +kernel, by decide +kernel, fun _ _ => clean (by decide +kernel) _⟩,
    busy [(5, cbldOp)], 5, cbldOp, _, _, _, _, _, false, of (by decide +kernel), by decide +kernel, rfl, rfl, by decide +kernel, by decide +kernel, by decide +kernel, by decide +kernel, fun _ _ => clean (by decide +kernel) _⟩


/-! ### Controllers -/

/-- A detached operation of the first stand. -/
def det (i : Instr) (st : DStage) (a : Ask) (r : Reply) : Out := op i .detached 2 (.det st a r)

/-- A handle of slot 0 of die 0 with generation 1, and one whose generation has passed. -/
def hand (kind : Nat) : DWord := dw (0x10000 + kind * 2 ^ 32 + 15 * 2 ^ 36)
def oldHand (kind : Nat) : DWord := dw (0x20000 + kind * 2 ^ 32 + 15 * 2 ^ 36)

/-- The conditions of `Rule.Sent`, as a test. -/
def sentB (s : State) (n : Nat) (o : Out) (a : Ask) : Bool :=
  decide (SMap.get? s.outs n = some o) && (match o.work with
    | .det .sent b _ => decide (b = a)
    | _ => false) && s.carried o && decide (s.turns n o = s.needs o) && !s.pubBefore o.uid n && !s.objBefore o.uid n (handleKey a.handle)

theorem sent {s : State} {n : Nat} {o : Out} {a : Ask} (h : sentB s n o a = true) : Rule.Sent s n o a := by
  simp only [sentB, Bool.and_eq_true, Bool.not_eq_true', decide_eq_true_eq] at h
  refine ⟨h.1.1.1.1.1, ?_, h.1.1.1.2, h.1.1.2, h.1.2, h.2⟩
  have := h.1.1.1.1.2
  split at this
  · next b r hw => exact ⟨r, by rw [hw]; simp at this; rw [this]⟩
  · exact absurd this (by simp)

/-- A group of no member that backs a line, its slot 0 of die 0. -/
def group0 : Group := { ctx := 1, pa := 0x10000, scope := 7, grove := 1, copse := 0, die := 0 }

/-- An operation on its way in a machine that has that group. -/
def atGroup (i : Instr) (a : Ask) (g : Group) : State :=
  served { flight [(5, det i .sent a {})] with groups := [(dirKey 1 0 0, g)], live := [(lineNo 0x10000, dirKey 1 0 0)] }

/-- The stands 0 and 1, both members of that group: the first one's operation is on its way and the second one's is lodged. -/
def atRound (i : Instr) (mode : Word) (g : Group) : State :=
  let st : Stand := { one 0xF with detached := 1, members := [⟨0, 0, 1, 0, 0, false⟩] }
  served { mk st with
    stands := [(0, st), (1, { st with uid := 2, standid := 1, members := [⟨0, 0, 1, 1, 0, false⟩] })],
    outs := [(5, { det i .sent { handle := hand 1, ret := 5 } {} with mode := mode }), (6, { det i .lodged { handle := hand 1 } {} with uid := 2, st := 1, mode := mode })],
    groups := [(dirKey 1 0 0, g)], live := [(lineNo 0x10000, dirKey 1 0 0)], dies := [(0, { cyc := 16 })] }

/-- The group with the second stand's arrival at a round. -/
def begun1 (k : GOp) : Group := { group0 with m := 2, a := 1, joins := 2, gop := some k, arrivals := [⟨6, 2, 1⟩] }

theorem met_GroupsAnswer :
    (∃ s n o ask, Rule.Sent s n o ask ∧ o.ins = .gbar h1 1 15 ∧ (groupRegOf o.ins).isSome = true ∧ s.mature o = true ∧ s.seats (handleKey ask.handle) = true ∧ s.groupOf ask.handle = none) ∧
    (∃ s n o ask, Rule.Sent s n o ask ∧ o.ins = .xchg h1 3 1 15 ∧ (groupRegOf o.ins).isSome = true ∧ s.mature o = true ∧ s.seats (handleKey ask.handle) = true ∧ s.groupOf ask.handle = none) ∧
    (∃ s n o ask h d a g key, Rule.Sent s n o ask ∧ o.ins = .gjoin h d a ∧ s.mature o = true ∧ s.seats (handleKey ask.handle) = true ∧ s.groupOf ask.handle = some g ∧ s.admits g o = true ∧
      s.memberOf o.uid (handleKey ask.handle) = none ∧ (s.membersOf o.uid).length < Config.memberMax ∧ g.m + g.j < Config.groupMax ∧
      s.keyOfUid o.uid = some key) ∧
    (∃ s n o ask h d a g, Rule.Sent s n o ask ∧ o.ins = .ginfo h d a ∧ s.mature o = true ∧ s.seats (handleKey ask.handle) = true ∧ s.groupOf ask.handle = some g ∧ g.scope < 8) ∧
    (∀ pending : Bool, ∃ s n o ask h d a g m key, Rule.Sent s n o ask ∧ o.ins = .gleave h d a ∧ s.mature o = true ∧ s.seats (handleKey ask.handle) = true ∧
      s.groupOf ask.handle = some g ∧ s.memberOf o.uid (handleKey ask.handle) = some m ∧ s.keyOfUid o.uid = some key ∧ m.pending = pending ∧
      (g.a = 0 ∨ g.a ≠ if m.pending then g.m else g.m - 1)) ∧
    (∃ s n o ask h d a g, Rule.Sent s n o ask ∧ o.ins = .gdel h d a ∧ s.mature o = true ∧ s.seats (handleKey ask.handle) = true ∧
      s.groupOf ask.handle = some g ∧ g.arrivals.map (·.op) = [6] ∧ (n :: (g.arrivals.map (·.op) ++ g.pendingOps)).Nodup) ∧
    (∀ i, i ∈ [Instr.gbar h1 1 15, .gvote h1 1 2 1 15, .gred h1 1 15 2 0, .xchg h1 3 1 15] → ∃ s n o ask g m k, o.ins = i ∧ Rule.Sent s n o ask ∧ s.mature o = true ∧
      s.seats (handleKey ask.handle) = true ∧ s.groupOf ask.handle = some g ∧ (groupRegOf o.ins).isSome = true ∧
      s.memberOf o.uid (handleKey ask.handle) = some m ∧ m.pending = false ∧ o.gop = some k ∧ g.gop = some k ∧ g.a + 1 = g.m ∧ g.a = g.arrivals.length ∧
      g.record = false ∧ g.replay = false ∧ g.pendingOps = [] ∧ g.m = 2 ∧ g.a ≠ 0 ∧ (n :: g.arrivals.map (·.op)).Nodup ∧
      ∀ x ∈ g.arrivals, ∃ ox ax rx, SMap.get? s.outs x.op = some ox ∧ ox.work = .det .lodged ax rx) ∧
    (∃ s n o ask g m k i, Rule.Sent s n o ask ∧ s.mature o = true ∧ s.seats (handleKey ask.handle) = true ∧ s.groupOf ask.handle = some g ∧
      (groupRegOf o.ins).isSome = true ∧ s.memberOf o.uid (handleKey ask.handle) = some m ∧ m.pending = false ∧ o.gop = some k ∧ g.gop = some k ∧ g.a < g.m ∧
      g.replay = true ∧ g.m = 2 ∧ g.a ≠ 0 ∧
      let base := (s.ctx g.ctx).cgroup.toNat / 2 ^ 12 % 2 ^ 40 * 2 ^ 12
      ((List.range ((s.ctx g.ctx).clogsz.toNat / 16)).find? fun j => s.homeNat (base + 16 * j) 4 == g.ground.toNat && s.homeNat (base + 16 * j + 4) 4 == m.ord) = some i ∧
      s.homeNat (base + 16 * i + 8) 8 ≠ (ask.ret - BitVec.ofNat 64 m.ret).toNat) ∧
    (∃ s n o ask h d a b, Rule.Sent s n o ask ∧ o.ins = .gcrt h d a b ∧ s.mature o = true ∧ (SMap.get? s.live (lineNo ask.pa)).isSome = true) ∧
    (∃ s n o ask h d a b i, Rule.Sent s n o ask ∧ o.ins = .gcrt h d a b ∧ s.mature o = true ∧ SMap.get? s.live (lineNo ask.pa) = none ∧
      lowestSlot (fun k => (SMap.get? s.groups k).isSome) 1 ((homeOf ask.pa).getD 0 / Config.homesPerDie) Config.groupSlots = some i ∧
      ((s.activeOn ((homeOf ask.pa).getD 0 / Config.homesPerDie)).filter fun kv => kv.2.pinned).length < Config.activeGroups) ∧
    (∃ s n o ask rep, Rule.Of s n o ∧ o.work = .det .replied ask rep ∧ o.redirect = none ∧ rep.trap = none ∧ (s.core (coreOf o.st)).trace.on = false) ∧
    ∃ (s : State) (die n : Nat) (rest : List Nat) (gk : Nat) (g : Group) (o : Out) (ask : Ask) (rep : Reply) (m : Member), (s.die die).cellWait = n :: rest ∧ s.lodgedAt n = some gk ∧ SMap.get? s.groups gk = some g ∧
      gk % 65536 / 16384 = die ∧ SMap.get? s.outs n = some o ∧ o.work = .det .lodged ask rep ∧
      (∃ h d a b k, o.ins = .gred h d a b k) ∧ s.memberOf o.uid gk = some m ∧ g.a = 0 ∧ 2 ≤ g.m ∧ (s.die die).cells + g.m ≤ Config.gredCells ∧
      g.record = false ∧ g.replay = false :=
  ⟨⟨atGroup (.gbar h1 1 15) { handle := oldHand 1 } group0, 5, det (.gbar h1 1 15) .sent { handle := oldHand 1 } {}, { handle := oldHand 1 }, sent (by decide +kernel), rfl, rfl, rfl, by decide +kernel,
      by decide +kernel⟩,
    ⟨atGroup (.xchg h1 3 1 15) { handle := oldHand 1 } group0, 5, det (.xchg h1 3 1 15) .sent { handle := oldHand 1 } {}, { handle := oldHand 1 }, sent (by decide +kernel), rfl, rfl, rfl, by decide +kernel,
      by decide +kernel⟩,
    ⟨atGroup (.gjoin h1 1 15) { handle := hand 1 } group0, 5, det (.gjoin h1 1 15) .sent { handle := hand 1 } {}, { handle := hand 1 }, _, _, _, group0, 0, sent (by decide +kernel), rfl, rfl, by decide +kernel,
      by decide +kernel, by decide +kernel, by decide +kernel, by decide +kernel, by decide +kernel, by decide +kernel⟩,
    ⟨atGroup (.ginfo h1 1 15) { handle := hand 1 } group0, 5, det (.ginfo h1 1 15) .sent { handle := hand 1 } {}, { handle := hand 1 }, _, _, _, group0, sent (by decide +kernel), rfl, rfl, by decide +kernel,
      by decide +kernel, by decide⟩,
    fun
      | false => ⟨atRound (.gleave h1 1 15) 0 { group0 with m := 2 }, 5, det (.gleave h1 1 15) .sent { handle := hand 1, ret := 5 } {}, { handle := hand 1, ret := 5 }, _, _, _,
          { group0 with m := 2 }, ⟨0, 0, 1, 0, 0, false⟩, 0, sent (by decide +kernel), rfl, rfl, by decide +kernel, by decide +kernel, by decide +kernel, by decide +kernel, rfl,
          .inl rfl⟩
      | true => ⟨{ atRound (.gleave h1 1 15) 0 { group0 with m := 1, j := 1, a := 2 } with stands := [(0, { one 0xF with members := [⟨0, 0, 1, 1, 0, true⟩] })] }, 5,
          det (.gleave h1 1 15) .sent { handle := hand 1, ret := 5 } {}, { handle := hand 1, ret := 5 }, _, _, _,
          { group0 with m := 1, j := 1, a := 2 }, ⟨0, 0, 1, 1, 0, true⟩, 0, sent (by decide +kernel), rfl, rfl, by decide +kernel, by decide +kernel, by decide +kernel, by decide +kernel,
          rfl, .inr (by decide)⟩,
    ⟨atRound (.gdel h1 1 15) 0 (begun1 .gbar), 5, det (.gdel h1 1 15) .sent { handle := hand 1, ret := 5 } {}, { handle := hand 1, ret := 5 }, _, _, _, begun1 .gbar,
      sent (by decide +kernel), rfl, rfl, by decide +kernel, by decide +kernel, rfl, by decide⟩,
    fun i hi => by
      have last (i : Instr) (k : GOp) (h : sentB (atRound i 7 (begun1 k)) 5 { det i .sent { handle := hand 1, ret := 5 } {} with mode := 7 } { handle := hand 1, ret := 5 } = true)
          (hk : ({ det i .sent { handle := hand 1, ret := 5 } {} with mode := 7 } : Out).gop = some k) (hr : (groupRegOf i).isSome = true)
          (hm : decide ((atRound i 7 (begun1 k)).mature { det i .sent { handle := hand 1, ret := 5 } {} with mode := 7 } = true ∧
            (atRound i 7 (begun1 k)).seats (handleKey (hand 1)) = true ∧ (atRound i 7 (begun1 k)).groupOf (hand 1) = some (begun1 k) ∧
            (atRound i 7 (begun1 k)).memberOf 1 (handleKey (hand 1)) = some ⟨0, 0, 1, 0, 0, false⟩ ∧
            SMap.get? (atRound i 7 (begun1 k)).outs 6 = some { det i .lodged { handle := hand 1 } {} with uid := 2, st := 1, mode := 7 }) = true) :
          ∃ s n o ask g m k, o.ins = i ∧ Rule.Sent s n o ask ∧ s.mature o = true ∧
      s.seats (handleKey ask.handle) = true ∧ s.groupOf ask.handle = some g ∧ (groupRegOf o.ins).isSome = true ∧
      s.memberOf o.uid (handleKey ask.handle) = some m ∧ m.pending = false ∧ o.gop = some k ∧ g.gop = some k ∧ g.a + 1 = g.m ∧ g.a = g.arrivals.length ∧
      g.record = false ∧ g.replay = false ∧ g.pendingOps = [] ∧ g.m = 2 ∧ g.a ≠ 0 ∧ (n :: g.arrivals.map (·.op)).Nodup ∧
      ∀ x ∈ g.arrivals, ∃ ox ax rx, SMap.get? s.outs x.op = some ox ∧ ox.work = .det .lodged ax rx := by
        obtain ⟨h1, h2, h3, h4, h5⟩ := of_decide_eq_true hm
        exact ⟨_, 5, _, _, begun1 k, _, k, rfl, sent h, h1, h2, h3, hr, h4, rfl, hk, rfl, rfl, rfl, rfl, rfl, rfl, rfl, Nat.one_ne_zero, (by decide : [5, 6].Nodup),
          fun x hx => by obtain rfl := List.mem_singleton.1 hx; exact ⟨_, _, _, h5, rfl⟩⟩
      simp only [List.mem_cons, List.not_mem_nil, or_false] at hi
      obtain rfl | rfl | rfl | rfl := hi
      · exact last _ .gbar (by decide +kernel) rfl rfl (by decide +kernel)
      · exact last _ (.gvote 1) (by decide +kernel) (by decide +kernel) rfl (by decide +kernel)
      · exact last _ (.gred 0 7) (by decide +kernel) (by decide +kernel) rfl (by decide +kernel)
      · exact last _ .xchg (by decide +kernel) rfl rfl (by decide +kernel),
    ⟨{ atRound (.gbar h1 1 15) 0 { begun1 .gbar with replay := true } with ctxs := [(1, { Place.ctx with cgroup := 0x50000, clogsz := 16 })] }, 5,
      det (.gbar h1 1 15) .sent { handle := hand 1, ret := 5 } {}, { handle := hand 1, ret := 5 }, { begun1 .gbar with replay := true }, ⟨0, 0, 1, 0, 0, false⟩, .gbar, 0,
      sent (by decide +kernel), rfl, by decide +kernel, by decide +kernel, rfl, by decide +kernel, rfl, rfl, rfl, by decide, rfl, rfl, by decide, by decide +kernel, by decide +kernel⟩,
    ⟨atGroup (.gcrt h1 1 2 15) { pa := 0x10000 } group0, 5, det (.gcrt h1 1 2 15) .sent { pa := 0x10000 } {}, { pa := 0x10000 }, _, _, _, _, sent (by decide +kernel), rfl, rfl, by decide +kernel⟩,
    ⟨atGroup (.gcrt h1 1 2 15) { pa := 0x1FFC0 } group0, 5, det (.gcrt h1 1 2 15) .sent { pa := 0x1FFC0 } {}, { pa := 0x1FFC0 }, _, _, _, _, 1, sent (by decide +kernel), rfl, rfl, by decide +kernel,
      by decide +kernel, by decide +kernel⟩,
    ⟨busy [(5, det (.xchg h1 3 1 15) .replied {} { lanes := 1, vals := [(0, 5)] })], 5, det (.xchg h1 3 1 15) .replied {} { lanes := 1, vals := [(0, 5)] }, _, _, of (by decide +kernel), rfl, rfl,
      rfl, by decide +kernel⟩,
    { mk { one 0xF with detached := 1, members := [⟨0, 0, 1, 0, 0, false⟩] } with
      outs := [(5, det (.gred h1 1 15 2 0) .lodged {} {})], groups := [(dirKey 1 0 0, { group0 with m := 2, pendingOps := [5] })], dies := [(0, { cellWait := [5] })] },
    0, 5, [], dirKey 1 0 0, { group0 with m := 2, pendingOps := [5] }, det (.gred h1 1 15 2 0) .lodged {} {}, {}, {}, ⟨0, 0, 1, 0, 0, false⟩, by decide +kernel, by decide +kernel, rfl, rfl, rfl, rfl,
      ⟨_, _, _, _, _, rfl⟩, by decide +kernel, rfl, by decide, by decide +kernel, rfl, rfl⟩

/-- A queue of task service with records, and an operation on its way to it. -/
def queue0 (recs : List Rec) : Queue := { ctx := 1, ring := 0x10000, cap := 64, scope := 5, launch := false, recs := recs }
def task : List Byte := List.replicate 64 0
def toQueue (i : Instr) (recs : List Rec) : State :=
  served { flight [(5, det i .sent { handle := hand 2, bytes := task } {})] with queues := [(queueKey 0, queue0 recs)] }
/-- A task whose word at an offset is given: 32, the first buffer bit that it tests; 56, the budget that it needs. -/
def asking (a v : Nat) : Rec := ⟨List.replicate a 0 ++ natLe v 4 ++ List.replicate (60 - a) 0, false, none⟩
def queueAsk : Ask := { handle := hand 2, bytes := task }

/-- A chain with an entry in flight, and an operation on its way to it. -/
def chain0 (fl : List IoEntry) : Chain := { ctx := 1, ring := 0x10000, cap := 64, scope := 5, appended := 1, published := 1, started := fl.length, flight := fl }
def toChain (i : Instr) : State := 
  served { flight [(5, det i .sent { handle := hand 3, bytes := task } {})] with chains := [(dirKey 3 0 0, chain0 [])] }
def chainAsk : Ask := { handle := hand 3, bytes := task }

/-- A machine whose context has a page at 0x200000 in its tables, with a chain that has an entry in flight. -/
def flying (b : List Byte) : State := { State.reset.place [] with chains := [(dirKey 3 0 0, chain0 [⟨1, b, []⟩])], endpoints := [(dirKey 4 0 0, ⟨1, false, 0, 0, 0⟩)] }

/-- An entry: its op, its length, up to two handles or addresses, and a threshold. -/
def entry (o len : Nat) (x y t : Nat) : List Byte := natLe o 4 ++ natLe len 4 ++ natLe x 8 ++ natLe y 8 ++ natLe 0 8 ++ natLe t 8 ++ natLe 0 24

/-- An enqueue under way, and counters at homes. -/
def enq (retry : Bool) : Enq := { id := 7, handle := hand 2, ctx := 1, bytes := task, line := 0x10000, retry := retry, keep := false }
def counting (n : Nat) : State := { busy [(5, det (.tdone h1 1 2) .sent { pa := 0x10000 } {})] with mem := if n = 0 then [] else [(0x10000, BitVec.ofNat 8 n)] }

theorem met_QueuesAnswer :
    (∃ s n o ask h d a b q, Rule.Sent s n o ask ∧ o.ins = .qenq h d a b ∧ s.queueOf ask.handle = some q ∧ q.broken = false ∧ q.launch = false ∧
      s.queueOpen (queueNumber (handleKey ask.handle)) = true ∧ s.examines n o ask = false ∧ bytesNat ask.bytes 22 2 = 0 ∧ q.recs.length < q.cap) ∧
    (∃ s n o ask h d a b q, Rule.Sent s n o ask ∧ o.ins = .qenq h d a b ∧ s.queueOf ask.handle = some q ∧ q.broken = false ∧ q.launch = false ∧
      s.queueOpen (queueNumber (handleKey ask.handle)) = true ∧ s.examines n o ask = false ∧ bytesNat ask.bytes 22 2 = 0 ∧ q.cap ≤ q.recs.length) ∧
    (∃ s n o ask h d a b q, Rule.Sent s n o ask ∧ o.ins = .qdeq h d a b ∧ s.queueOf ask.handle = some q ∧ q.broken = false ∧ q.launch = false ∧
      s.examines n o ask = false ∧ q.recs = []) ∧
    (∃ s n o ask h d a b q, Rule.Sent s n o ask ∧ o.ins = .qdeq h d a b ∧ s.queueOf ask.handle = some q ∧ q.broken = false ∧ q.launch = false ∧
      s.examines n o ask = false ∧ q.recs ≠ [] ∧ q.findRecord false (s.roomOf o) ask.bits = none) ∧
    (∃ s n o ask h d a b q i x, Rule.Sent s n o ask ∧ o.ins = .qdeq h d a b ∧ s.queueOf ask.handle = some q ∧ q.broken = false ∧ q.launch = false ∧
      s.examines n o ask = false ∧ q.findRecord false (s.roomOf o) ask.bits = some (i, .read x)) ∧
    (∃ s n o ask h d a b q i r, Rule.Sent s n o ask ∧ o.ins = .qdeq h d a b ∧ s.queueOf ask.handle = some q ∧ q.broken = false ∧ q.launch = false ∧
      s.examines n o ask = false ∧ q.findRecord false (s.roomOf o) ask.bits = some (i, .yes) ∧ q.recs[i]? = some r) ∧
    (∃ (q : Queue) (steal : Bool) (room : Nat) (got : List (Nat × Nat × Bool)), q.broken = false ∧ q.launch = false ∧ q.findRecord steal room got = none) ∧
    (∃ (q : Queue) (steal : Bool) (room : Nat) (got : List (Nat × Nat × Bool)) (i : Nat), q.broken = false ∧ q.launch = false ∧
      q.findRecord steal room got = some (i, .yes)) ∧
    (∃ (q : Queue) (steal : Bool) (room : Nat) (got : List (Nat × Nat × Bool)) (i : Nat) (x : BitTest), q.broken = false ∧ q.launch = false ∧
      q.findRecord steal room got = some (i, .read x)) ∧
    (∃ s n o ask c h d a b, Rule.Sent s n o ask ∧ s.chainOf ask.handle = some c ∧ o.ins = .chapp h d a b ∧ c.appended - c.completed < c.cap ∧ ask.bytes.length = 64) ∧
    (∃ s n o ask c h d a, Rule.Sent s n o ask ∧ s.chainOf ask.handle = some c ∧ o.ins = .chseq h d a) ∧
    (∀ retry : Bool, ∃ (s : State) (e : Enq) (q : Queue), s.fab.up = true ∧ s.detOp e.id = none ∧ s.enqs.find? (fun x => x.id == e.id) = some e ∧ e.retry = retry ∧ s.queueOf e.handle = some q ∧
      s.queueOpen (queueNumber (handleKey e.handle)) = true ∧ q.broken = false ∧ q.launch = false ∧ bytesNat e.bytes 22 2 = 0 ∧ q.recs.length < q.cap) ∧
    (∀ k : Nat, k < 3 → ∃ s n o ask h d a, Rule.Sent s n o ask ∧ o.ins = .tdone h d a ∧ s.earlierAccess o.uid n ((Place.mem ask.pa).span 64) = false ∧
      s.poison = [] ∧ (s.core (coreOf o.st)).combine = [] ∧ (s.core (coreOf o.st)).snap = [] ∧ (s.copse (copseOfCore (coreOf o.st))).cache = [] ∧ s.homeNat ask.pa 4 = k ∧ s.homeNat (ask.pa + 8) 8 = 0) ∧
    (∃ s n o ask, Rule.Sent s n o ask ∧ s.earlierAccess o.uid n ((Place.mem ask.pa).span 64) = false ∧ o.ins = .tfull h1 1 2) ∧
    (∃ (s : State) (ck : Nat) (c : Chain), SMap.get? s.chains ck = some c ∧ c.started < c.published ∧ c.flight.length < Config.prefetch ∧ ∀ x ∈ c.flight, x.op ≠ 4) ∧
    (∀ o, o ∈ [0, 5, 4, 1] → ∃ (s : State) (ck : Nat) (c : Chain) (x : IoEntry), SMap.get? s.chains ck = some c ∧ c.flight.find? (fun y => y.n == x.n) = some x ∧ x.n = c.completed + 1 ∧ c.finished = [] ∧
      x.op = o) ∧
    (∃ (s : State) (ck : Nat) (x : IoEntry) (code : Nat), (SMap.get? s.chains ck).isSome = true ∧ x.op = 4 ∧ x.reservedOk = true ∧ s.fenceError 1 ck x = some code) ∧
    (∃ (s : State) (ck : Nat) (x : IoEntry), (SMap.get? s.chains ck).isSome = true ∧ x.op = 4 ∧ x.reservedOk = true ∧ s.fenceError 1 ck x = none ∧ s.fenceMet x = true) ∧
    (∃ (s : State) (ck : Nat) (x : IoEntry), (SMap.get? s.chains ck).isSome = true ∧ x.op = 4 ∧ x.reservedOk = true ∧ s.fenceError 1 ck x = none ∧ s.fenceMet x = false) ∧
    (∃ (s : State) (x : IoEntry) (code : Nat), x.op = 3 ∧ x.reservedOk = true ∧ s.entryError 1 x = some code) ∧
    (∃ (s : State) (ck : Nat) (c : Chain) (x : IoEntry) (pa : Nat), SMap.get? s.chains ck = some c ∧ c.flight.find? (fun y => y.n == x.n) = some x ∧ x.n = c.completed + 1 ∧ c.finished = [] ∧ x.op = 2 ∧ x.reservedOk = true ∧
      s.fab.up = true ∧ s.entryError c.ctx x = none ∧ x.len = 1 ∧ x.moved = [] ∧ s.ctlAddr c.ctx (fun t => t.w) (x.handle 1) = some pa ∧ SMap.get? s.live (lineNo pa) = none ∧
      (pa < c.ring + 64 * ((x.n - 1) % c.cap) + 2 ∨ c.ring + 64 * ((x.n - 1) % c.cap) + 4 ≤ pa)) ∧
    ∃ (s : State) (ck : Nat) (c : Chain) (x : IoEntry) (pa k : Nat), SMap.get? s.chains ck = some c ∧ c.flight.find? (fun y => y.n == x.n) = some x ∧
      x.n = c.completed + 1 ∧ c.finished = [] ∧ x.op = 2 ∧ x.reservedOk = true ∧ s.fab.up = true ∧ s.entryError c.ctx x = none ∧ x.len = 4096 * k + 1 ∧
      k ∉ x.moved ∧ s.ctlAddr c.ctx (fun t => t.w) (x.handle 1 + BitVec.ofNat 64 (4096 * k)) = some pa ∧ SMap.get? s.live (lineNo pa) = none :=
  ⟨⟨toQueue (.qenq h1 1 15 2) [], 5, det (.qenq h1 1 15 2) .sent queueAsk {}, queueAsk, _, _, _, _, queue0 [], sent (by decide +kernel), rfl, by decide +kernel, rfl, rfl, by decide +kernel,
      by decide +kernel, by decide +kernel, by decide +kernel⟩,
    ⟨toQueue (.qenq h1 1 15 2) (List.replicate 64 ⟨task, false, none⟩), 5, det (.qenq h1 1 15 2) .sent queueAsk {}, queueAsk, _, _, _, _, queue0 (List.replicate 64 ⟨task, false, none⟩),
      sent (by decide +kernel), rfl, by decide +kernel, rfl, rfl, by decide +kernel, by decide +kernel, by decide +kernel, by decide +kernel⟩,
    ⟨toQueue (.qdeq h1 1 15 2) [], 5, det (.qdeq h1 1 15 2) .sent queueAsk {}, queueAsk, _, _, _, _, queue0 [], sent (by decide +kernel), rfl, by decide +kernel, rfl, rfl,
      by decide +kernel, rfl⟩,
    ⟨toQueue (.qdeq h1 1 15 2) [asking 56 0xFFFFFFFF], 5, det (.qdeq h1 1 15 2) .sent queueAsk {}, queueAsk, _, _, _, _, queue0 [asking 56 0xFFFFFFFF],
      sent (by decide +kernel), rfl, by decide +kernel, rfl, rfl, by decide +kernel, by simp [queue0], by decide +kernel⟩,
    ⟨toQueue (.qdeq h1 1 15 2) [asking 32 1], 5, det (.qdeq h1 1 15 2) .sent queueAsk {}, queueAsk, _, _, _, _, queue0 [asking 32 1], 0, ⟨0, 1, true⟩,
      sent (by decide +kernel), rfl, by decide +kernel, rfl, rfl, by decide +kernel, by decide +kernel⟩,
    ⟨toQueue (.qdeq h1 1 15 2) [⟨task, false, none⟩], 5, det (.qdeq h1 1 15 2) .sent queueAsk {}, queueAsk, _, _, _, _, queue0 [⟨task, false, none⟩], 0, ⟨task, false, none⟩,
      sent (by decide +kernel), rfl, by decide +kernel, rfl, rfl, by decide +kernel, by decide +kernel, rfl⟩,
    ⟨queue0 [asking 52 1, asking 56 1], true, 0, [(0, 5, false)], rfl, rfl, by decide +kernel⟩,
    ⟨queue0 [asking 52 1, asking 56 1], true, 0, [(0, 5, true)], 0, rfl, rfl, by decide +kernel⟩,
    ⟨queue0 [asking 52 1, asking 56 1], true, 0, [], 0, ⟨5, 1, false⟩, rfl, rfl, by decide +kernel⟩,
    ⟨toChain (.chapp h1 1 15 2), 5, det (.chapp h1 1 15 2) .sent chainAsk {}, chainAsk, chain0 [], _, _, _, _, sent (by decide +kernel), by decide +kernel, rfl, by decide +kernel, by decide +kernel⟩,
    ⟨toChain (.chseq h1 1 15), 5, det (.chseq h1 1 15) .sent chainAsk {}, chainAsk, chain0 [], _, _, _, sent (by decide +kernel), by decide +kernel, rfl⟩,
    fun retry => ⟨{ toQueue (.qdeq h1 1 15 2) [] with enqs := [enq retry] }, enq retry, queue0 [], rfl, by cases retry <;> decide +kernel, by cases retry <;> decide +kernel, rfl,
      by cases retry <;> decide +kernel, by cases retry <;> decide +kernel, rfl, rfl, by cases retry <;> decide +kernel, by decide +kernel⟩,
    fun k h => ⟨counting k, 5, det (.tdone h1 1 2) .sent { pa := 0x10000 } {}, { pa := 0x10000 }, _, _, _, sent (by revert k; decide +kernel), rfl, by revert k; decide +kernel, rfl,
      by revert k; decide +kernel, by revert k; decide +kernel, by revert k; decide +kernel, by revert k; decide +kernel, by revert k; decide +kernel⟩,
    ⟨busy [(5, det (.tfull h1 1 2) .sent { pa := 0x10000 } {})], 5, det (.tfull h1 1 2) .sent { pa := 0x10000 } {}, { pa := 0x10000 }, sent (by decide +kernel), by decide +kernel, rfl⟩,
    ⟨toChain (.chseq h1 1 15), dirKey 3 0 0, chain0 [], rfl, by decide, by decide +kernel, by decide +kernel⟩,
    fun o h => ⟨flying (entry o 0 0 0 0), dirKey 3 0 0, chain0 [⟨1, entry o 0 0 0 0, []⟩], ⟨1, entry o 0 0 0 0, []⟩, rfl, rfl, rfl, rfl, by revert o; decide +kernel⟩,
    ⟨flying (entry 4 0 (mkHandle Place.ctx 3 15 1 0 0).toNat 0 0), dirKey 3 0 0, ⟨1, entry 4 0 (mkHandle Place.ctx 3 15 1 0 0).toNat 0 0, []⟩, 5, by decide +kernel, by decide +kernel, by decide +kernel, by decide +kernel⟩,
    ⟨flying (entry 4 0 0 0 0), dirKey 3 0 0, ⟨1, entry 4 0 0 0 0, []⟩, by decide +kernel, by decide +kernel, by decide +kernel, by decide +kernel, by decide +kernel⟩,
    ⟨{ flying (entry 4 0 (mkHandle Place.ctx 3 15 1 0 0).toNat 0 5) with chains := [(dirKey 3 0 0, chain0 []), (dirKey 3 0 1, chain0 [])] }, dirKey 3 0 1, ⟨1, entry 4 0 (mkHandle Place.ctx 3 15 1 0 0).toNat 0 5, []⟩, by decide +kernel,
      by decide +kernel, by decide +kernel, by decide +kernel, by decide +kernel⟩,
    ⟨flying (entry 3 0 0 0 0), ⟨1, entry 3 0 0 0 0, []⟩, 3, by decide +kernel, by decide +kernel, by decide +kernel⟩,
    ⟨flying (entry 2 1 (mkHandle Place.ctx 4 15 1 0 0).toNat 0x20FFFF 0), dirKey 3 0 0, chain0 [⟨1, entry 2 1 (mkHandle Place.ctx 4 15 1 0 0).toNat 0x20FFFF 0, []⟩], ⟨1, entry 2 1 (mkHandle Place.ctx 4 15 1 0 0).toNat 0x20FFFF 0, []⟩, 0x20FFFF, rfl, rfl, rfl, rfl,
      by decide +kernel, by decide +kernel, rfl, by decide +kernel, by decide +kernel, rfl, by decide +kernel, by decide +kernel, by decide +kernel⟩,
    flying (entry 2 4097 (mkHandle Place.ctx 4 15 1 0 0).toNat 0x20EFFF 0), dirKey 3 0 0, chain0 [⟨1, entry 2 4097 (mkHandle Place.ctx 4 15 1 0 0).toNat 0x20EFFF 0, []⟩],
    ⟨1, entry 2 4097 (mkHandle Place.ctx 4 15 1 0 0).toNat 0x20EFFF 0, []⟩, 0x20FFFF, 1, rfl, rfl, rfl, rfl,
      by decide +kernel, by decide +kernel, rfl, by decide +kernel, by decide +kernel, by decide +kernel, by decide +kernel, by decide +kernel⟩


/-- The header of a kernel of 8 vector and 8 scalar registers with one stand a grove, its entry table after it. -/
def header : List Byte :=
  let h := natLe 0x314B585A 4 ++ natLe 1 4 ++ [8, 8, 0, 0, 1, 0, 0, 0] ++ natLe 0 8 ++ [0xFF, 0xFF, 0, 0] ++ natLe 0 8 ++ natLe 16 4 ++ natLe 1 4 ++ natLe 0 16
  h ++ natLe (crc32c h) 4 ++ natLe 16 4

/-- A record that launches one grove of it, and a machine with a launch queue. -/
def launch : List Byte := natLe (Place.header + 64) 8 ++ natLe 5 8 ++ natLe 1 2 ++ natLe 1 2 ++ natLe 1 2 ++ natLe 1 2 ++ natLe 0 40
def launchQueue : Queue := { ctx := 1, ring := 0x10000, cap := 64, scope := 5, launch := true }
def withQueue (q : Queue) : State := { State.reset.place header with queues := [(queueKey 0, q)] }

/-- Whether a record becomes a launch. -/
def acceptsB (x : Option (Option Launch)) : Bool :=
  match x with
  | some (some _) => true
  | _ => false

theorem accepts {x : Option (Option Launch)} (h : acceptsB x = true) : ∃ l, x = some (some l) := by
  cases x with
  | none => simp [acceptsB] at h
  | some y => cases y with
    | none => simp [acceptsB] at h
    | some l => exact ⟨l, rfl⟩

/-- A machine with a launch of a small kernel that waits for its place. -/
def waiting (level : Nat) (blocks : List Block) : State :=
  { mk (one 0xF) with
    stands := [], groves := [], queues := [(queueKey 0, launchQueue)],
    launches := [(1, { ctx := 1, queue := queueKey 0, level := level, kernel := { Place.kernel with vregs := 8, nacc := 0, nslot := 0, nres := 0, scratch := 0 }, left := 1, blocks := blocks })] }

/-- A machine with a finished launch. -/
def finished (x : Launch) (n : Nat) : State := { mk (one 0) with launches := [(1, x)], mem := if n = 0 then [] else [(0x10000, BitVec.ofNat 8 n)] }

theorem met_LaunchesRun :
    (∃ (s : State) (q : Nat) (bytes : List Byte) (x : Queue) (l : Launch), SMap.get? s.queues (queueKey q) = some x ∧ q < 4096 ∧ bytes.length = 64 ∧ s.queueOpen q = true ∧ x.broken = false ∧
      s.acceptRecord x (queueKey q) bytes = some (some l) ∧ x.recs.length < x.cap) ∧
    (∃ (s : State) (q : Nat) (bytes : List Byte) (x : Queue), SMap.get? s.queues (queueKey q) = some x ∧ q < 4096 ∧ bytes.length = 64 ∧ s.queueOpen q = true ∧ x.broken = false ∧
      s.acceptRecord x (queueKey q) bytes = none) ∧
    (∃ (s : State) (q : Nat) (bytes : List Byte) (x : Queue), SMap.get? s.queues (queueKey q) = some x ∧ q < 4096 ∧ bytes.length = 64 ∧ s.queueOpen q = true ∧ x.broken = false ∧
      (s.acceptRecord x (queueKey q) bytes).isSome = true ∧ x.cap ≤ x.recs.length) ∧
    (∃ (s : State) (msg : List Byte), msg.length = 80 ∧ bytesNat msg 0 2 = 1 ∧ SMap.get? s.queues (queueKey (bytesNat msg 2 2)) = none) ∧
    (∃ msg : List Byte, msg.length = 80 ∧ bytesNat msg 0 2 = 2) ∧
    (∃ (s : State), ∃ die q l g k, s.restoreOne die false = none ∧ s.headLaunches = [(q, l)] ∧ (s.launch l).level = 0 ∧ (s.ctx (s.launch l).ctx).state = .admitted ∧
      (s.launch l).nextOn die = some g ∧ s.chooseCore (s.launch l).ctx (s.launch l).kernel (s.launch l).demand (coresOfDie die) = some k ∧
      s.tablePoison (s.launch l).kernel.tables = none) ∧
    (∃ (s : State), ∃ die q l g k cores more, s.restoreOne die false = none ∧ s.headLaunches = [(q, l)] ∧ q % 65536 / 16384 = die ∧ (s.launch l).level ≠ 0 ∧
      (s.ctx (s.launch l).ctx).state = .admitted ∧ levelCores (s.ctx (s.launch l).ctx) (s.launch l).level = cores :: more ∧
      (s.launch l).blocks.flatMap (·.left) = [g] ∧ s.chooseCore (s.launch l).ctx (s.launch l).kernel (s.launch l).demand cores = some k ∧
      s.tablePoison (s.launch l).kernel.tables = none) ∧
    (∃ (s : State) (die l : Nat) (x : Launch) (n : Nat) (rest : SMap Launch), s.launches = (l, x) :: rest ∧ 1 < (s.ctx x.ctx).dieList.length ∧ (s.ctx x.ctx).dieMask.testBit die = true ∧ x.stolen die = some n) ∧
    (∀ n : Nat, n ∈ [1, 2] → ∃ (s : State), ∃ key st, SMap.get? s.stands key = some st ∧ st.hasLanes = false ∧ st.residuals = [] ∧ s.settled st = true ∧ s.membersOf st.uid = [] ∧
      (s.grove st.grove).sbat = none ∧ (s.grove st.grove).mbat = none ∧ (s.grove st.grove).size = n) ∧
    (∃ (s : State) (l : Nat) (x : Launch), SMap.get? s.launches l = some x ∧ 0 < x.done ∧ x.cores = [] ∧ s.fab.up = true ∧ 2 ≤ x.done + x.left ∧ x.succ = none) ∧
    (∃ (s : State) (l : Nat) (x : Launch), SMap.get? s.launches l = some x ∧ 0 < x.done ∧ x.cores = [] ∧ s.fab.up = true ∧ x.done + x.left = 1 ∧ x.succ = none) ∧
    ∃ (s : State) (l : Nat) (x : Launch) (pa : Nat), SMap.get? s.launches l = some x ∧ 0 < x.done ∧ x.cores = [] ∧ s.fab.up = true ∧ x.succ = some pa ∧ s.poison = [] ∧ 2 ≤ s.homeNat pa 4 :=
  ⟨by obtain ⟨l, h⟩ := accepts (x := (withQueue launchQueue).acceptRecord launchQueue (queueKey 0) launch) (by decide +kernel)
      exact ⟨withQueue launchQueue, 0, launch, launchQueue, l, rfl, by decide, by decide +kernel, rfl, rfl, h, by decide⟩,
    ⟨withQueue launchQueue, 0, task, launchQueue, rfl, by decide, by decide +kernel, rfl, rfl, by decide +kernel⟩,
    ⟨withQueue (queue0 (List.replicate 64 ⟨task, false, none⟩)), 0, task, queue0 (List.replicate 64 ⟨task, false, none⟩), rfl, by decide, by decide +kernel, rfl, rfl, by decide +kernel, by decide +kernel⟩,
    ⟨mk (one 0xF), natLe 1 80, by decide +kernel, by decide +kernel, rfl⟩, ⟨natLe 2 80, by decide +kernel, by decide +kernel⟩,
    ⟨waiting 0 [⟨0, 0, [7], false⟩], 0, queueKey 0, 1, 7, 0, by decide +kernel, by decide +kernel, rfl, rfl, rfl, by decide +kernel, rfl⟩,
    ⟨waiting 1 [⟨0, 0, [7], false⟩], 0, queueKey 0, 1, 7, 0, _, _, by decide +kernel, by decide +kernel, rfl, by decide, rfl, rfl, rfl, by decide +kernel, rfl⟩,
    ⟨{ waiting 0 [⟨0, 0, [1], false⟩, ⟨1, 0, [9], false⟩, ⟨2, 0, [17], false⟩] with ctxs := [(1, { Place.ctx with cplace := dw (15 + field 96 8) })] }, 3, 1, _, 2, [], rfl, by decide +kernel, by decide +kernel,
      by decide +kernel⟩,
    fun n h => ⟨{ mk { one 0 with paths := [] } with groves := [(1, { launch := 1, core := 0, units := 1, size := n })] }, 0, { one 0 with paths := [] }, rfl, by decide +kernel, rfl, by revert n; decide +kernel,
      by revert n; decide +kernel, rfl, rfl, rfl⟩,
    ⟨finished { ctx := 1, kernel := Place.kernel, left := 1, done := 1 } 0, 1, { ctx := 1, kernel := Place.kernel, left := 1, done := 1 }, rfl, by decide, rfl, rfl, by decide, rfl⟩,
    ⟨finished { ctx := 1, kernel := Place.kernel, left := 0, done := 1 } 0, 1, { ctx := 1, kernel := Place.kernel, left := 0, done := 1 }, rfl, by decide, rfl, rfl, by decide, rfl⟩,
    finished { ctx := 1, kernel := Place.kernel, left := 0, done := 1, succ := some 0x10000 } 2, 1, { ctx := 1, kernel := Place.kernel, left := 0, done := 1, succ := some 0x10000 }, 0x10000, rfl, by decide, rfl, rfl,
      rfl, rfl, by decide +kernel⟩

/-! ### Contexts, errors, system software -/

/-- A core with a second context, whose stand is ready. -/
def shared (core : Core) (cyc : Nat) : State :=
  { mk (one 0xF) with
    dies := [(0, { cyc := cyc })],
    ctxs := [(1, Place.ctx), (2, Place.ctx)], stands := [(0, { one 0xF with paths := [] }), (1, { one 0xF with uid := 2, ctx := 2 })],
    cores := [(0, { core with slot0 := { ctx := some 1 }, slot1 := { ctx := some 2 } })] }

theorem met_SwitchesAndTranslations :
    (∃ (s : State), ∃ k, (s.core k).slice ≠ 0 ∧ (s.core k).ranFrom + (s.core k).slice * (s.die (dieOfCore k)).mhz ≤ s.cycOf k ∧ s.hasReady k ((s.core k).slot (!(s.core k).running)).ctx = true) ∧
    (∃ (s : State), ∃ k, (s.core k).idleSw = true ∧ (s.core k).idleFrom + 256 ≤ s.cycOf k ∧ s.hasReady k ((s.core k).slot (s.core k).running).ctx = false ∧
      s.hasReady k ((s.core k).slot (!(s.core k).running)).ctx = true) ∧
    (∃ v : DWord, v.getLsbD 17 = true) ∧ (∃ v : DWord, v.getLsbD 10 = true) ∧ (∃ v : DWord, v.getLsbD 10 = false) ∧
    ∃ (s : State), ∃ die, (s.die die).tlbBusy = true ∧ ∀ n ∈ (s.die die).tlbOps, SMap.get? s.outs n = none ∧ s.resting die (fun w => w.op == n) = false :=
  ⟨⟨shared { Core.init 0 with slice := 1 } 2000, 0, by decide +kernel⟩, ⟨shared { Core.init 0 with idleSw := true } 256, 0, by decide +kernel⟩, ⟨0x20000, by decide⟩, ⟨0x400, by decide⟩, ⟨0, by decide⟩,
    { mk (one 0xF) with dies := [(0, { tlbBusy := true, tlbOps := [5] })] }, 0, by decide +kernel⟩

/-- A machine whose context is in a state, with what a command or an earlier event left. -/
def inState (x : CState) (saved : List SavedGrove) : State := { mk (one 0xF) with ctxs := [(1, { Place.ctx with state := x, saved := saved })] }

/-- The image of a stand of that kernel as a halt leaves it: its header, one path of four lanes at PC 16. -/
def imageCells : List (Nat × Byte) :=
  [(0x40000000, 0x5A), (0x40000001, 0x58), (0x40000002, 0x53), (0x40000003, 0x31), (0x40000004, 0x01), (0x40000008, 0x01), (0x4000001C, 0x05), (0x40000036, 0x01),
   (0x40000038, 0xFF), (0x40000044, 0x0F), (0x4000004C, 0x40), (0x4000004F, 0x20), (0x400000FC, 0x28), (0x400000FD, 0x87), (0x400000FE, 0x8B), (0x400000FF, 0x38)]

def savedStand : SavedStand := { uid := 1, standid := 0, idx := 0, image := 0x40000000, armed := [], again := [] }
def savedOn : SavedGrove :=
  { id := 1, grove := { launch := 1, core := 0, units := 1, size := 1 }, stands := [savedStand], scr := 0x40100000, sources := [], onto := some 0 }

/-- A machine whose grove a drain has saved, to go back to its core. -/
def drained : State := { image (one 0xF) with ctxs := [(1, { Place.ctx with saved := [savedOn] })], stands := [], groves := [], mem := imageCells }

/-- CRC-32C byte by byte. -/
def crcRun (f : Nat → Byte) : Nat → Nat → Nat → Nat
  | _, 0, c => c
  | lo, n + 1, c => let d := crcBits (c ^^^ (f lo).toNat) 8; if d = 0 then crcRun f (lo + 1) n 0 else crcRun f (lo + 1) n d

theorem crcRun_fold (f : Nat → Byte) (n : Nat) : ∀ lo c, crcRun f lo n c = ((upFrom lo n).map f).foldl (fun c b => crcBits (c ^^^ b.toNat) 8) c := by
  induction n with
  | zero => intros; rfl
  | succ n ih =>
    intro lo c
    simp only [crcRun, upFrom, List.map_cons, List.foldl_cons]
    split
    · next h => rw [ih, h]
    · rw [ih]

/-- CRC-32C over zero bits, in a form that the kernel computes quickly. -/
def zeroBits : Nat → Nat → Nat
  | 0, c => c
  | n + 1, c => Nat.rec (zeroBits n (Nat.div c 2)) (fun _ _ => zeroBits n (Nat.xor (Nat.div c 2) 0x82F63B78)) (Nat.mod c 2)

theorem zeroBits_crc (n : Nat) : ∀ c, zeroBits n c = crcBits c n := by
  induction n with
  | zero => intro; rfl
  | succ n ih =>
    intro c
    rw [zeroBits, crcBits, show Nat.mod c 2 = c % 2 from rfl]
    rcases Nat.mod_two_eq_zero_or_one c with h | h <;> rw [h]
    · exact ih _
    · exact ih _

theorem crcBits_add (m n : Nat) : ∀ c, crcBits (crcBits c m) n = crcBits c (m + n) := by
  induction m with
  | zero => intro c; rw [Nat.zero_add]; rfl
  | succ m ih => intro c; rw [crcBits, ih, show m + 1 + n = m + n + 1 by omega, crcBits]

theorem crc_zeros (m : Nat) : ∀ c, (List.replicate m (0 : Byte)).foldl (fun c b => crcBits (c ^^^ b.toNat) 8) c = crcBits c (8 * m) := by
  induction m with
  | zero => intro; rfl
  | succ m ih => intro c; rw [List.replicate_succ, List.foldl_cons, ih, show c ^^^ (0 : Byte).toNat = c from Nat.xor_zero c, crcBits_add, show 8 + 8 * m = 8 * (m + 1) by omega]

theorem upFrom_split (m : Nat) : ∀ k n, upFrom k (m + n) = upFrom k m ++ upFrom (k + m) n := by
  induction m with
  | zero => intro k n; rw [Nat.zero_add]; rfl
  | succ m ih => intro k n; rw [show m + 1 + n = m + n + 1 by omega, upFrom, ih, upFrom, List.cons_append, show k + 1 + m = k + (m + 1) by omega]

/-- The header of that image without its CRC, and nothing behind it. -/
def bare (a : Nat) : Byte := if 252 ≤ a then 0 else SMap.get 0 imageCells (0x40000000 + a)

theorem bare_byte (a : Nat) : imageByte smallKernel (drained.imageAt 0x40000000) 0 0 0 0 a = bare a := by
  have h : 256 ≤ a → drained.imageAt 0x40000000 a = 0 := fun h => by
    simp only [State.imageAt, State.homeByte, drained, SMap.get, imageCells]
    repeat rw [if_neg (by omega)]
  have k : smallKernel.offSlots = 1088 ∧ smallKernel.offRes = 1088 ∧ smallKernel.offTail = 1088 ∧ smallKernel.offRecords = 2128 ∧ smallKernel.offReplies = 3408 := by decide
  unfold imageByte bare
  by_cases h1 : 256 ≤ a
  · rw [if_pos (show 252 ≤ a by omega)]; simp only [h h1, ite_self]
  · rw [k.1, k.2.1, k.2.2.1, k.2.2.2.1, k.2.2.2.2]
    by_cases h2 : 252 ≤ a
    · rw [if_pos (by omega), if_pos h2]
    · rw [if_neg (by omega), if_neg (by omega), if_neg (by omega), if_neg (by omega), if_neg (by omega), if_neg (by simp only [Kernel.imageSize, k.2.2.2.2]; omega), if_neg h2]
      rfl

theorem bare_zeros (m : Nat) : ∀ k, 252 ≤ k → (upFrom k m).map bare = List.replicate m 0 := by
  induction m with
  | zero => intros; rfl
  | succ m ih => intro k h; rw [upFrom, List.map_cons, ih (k + 1) (by omega), List.replicate_succ, bare, if_pos h]

theorem drained_crc : imageCrc smallKernel (drained.imageAt 0x40000000) = imgNat (drained.imageAt 0x40000000) 0xFC 4 := by
  have h : imageCrc smallKernel (drained.imageAt 0x40000000) =
      zeroBits (8 * (smallKernel.placeSize - 256)) (crcRun bare 0 256 0xFFFFFFFF) ^^^ 0xFFFFFFFF := by
    rw [imageCrc, crc32c, show imgNat (drained.imageAt 0x40000000) 0x3E 2 = 0 by decide +kernel, show imgNat (drained.imageAt 0x40000000) 0x26 2 = 0 by decide +kernel,
      show imgNat (drained.imageAt 0x40000000) 0x3A 1 = 0 by decide +kernel, show imgNat (drained.imageAt 0x40000000) 0x3B 1 = 0 by decide +kernel, funext bare_byte,
      show upFrom 0 smallKernel.placeSize = upFrom 0 256 ++ upFrom (0 + 256) (smallKernel.placeSize - 256) from
        (congrArg (upFrom 0) (by decide : smallKernel.placeSize = 256 + (smallKernel.placeSize - 256))).trans (upFrom_split 256 0 _), List.map_append, List.foldl_append,
      bare_zeros _ (0 + 256) (by decide), crc_zeros, zeroBits_crc, crcRun_fold]
  rw [h]; decide +kernel

theorem drained_check : imageCheck smallKernel { Place.ctx with saved := [savedOn] } (drained.imageAt 0x40000000) = 0 := by
  rw [imageCheck, if_neg (by decide +kernel), if_neg (by rw [drained_crc]; simp)]
  decide +kernel

/-- The read of an image of that kernel, and a kernel that handles RESTORE. -/
def pieces : List Nat := (upFrom 0 (smallKernel.imageSize / 16)).map fun i => 0x40000000 + 16 * i
def ptldOp : Out := op (.ptld h1 1) .loads 1 (.ptld pieces)
def handling : Kernel := { smallKernel with trapoff := 24, trapen := 0x40000 }

/-- A stand that waits for that image, or for one of zeros. -/
def returning (k : Kernel) (cells : List (Nat × Byte)) : State :=
  let s : State := { drained with
    stands := [(0, { one 0xF with loads := 1, sregs := [(1, 0x10000)] })], dies := [(0, { cyc := 16 })], mem := cells,
    groves := [(1, { launch := 1, core := 0, units := 1, size := 1 })],
    launches := [(1, { ctx := 1, kernel := k, left := 1 })], outs := [(5, ptldOp)] }
  { s with homes := (served s).homes }

/-- A core whose snapshot and whose copse hold no line reads what the homes hold. -/
theorem plain {s : State} {k : Nat} (h : (s.core k).snap = []) (h2 : (s.copse (copseOfCore k)).cache = []) (a : Nat) : s.pocByte k 5 a = s.homeByte a := by
  simp [State.pocByte, Core.line, Copse.line, h, h2, SMap.get, Line.isDirty]

theorem upFrom_getD (f : Nat → Nat) (n : Nat) : ∀ k i, ((upFrom k n).map f).getD i 0 = if i < n then f (k + i) else 0 := by
  induction n with
  | zero => intros; rfl
  | succ n ih =>
    intro k i
    cases i with
    | zero => simp [upFrom]
    | succ i => rw [upFrom, List.map_cons, List.getD_cons_succ, ih, show k + 1 + i = k + (i + 1) by omega]; simp

/-- What the core reads of that image is what the homes hold. -/
theorem returning_image : (fun j => (returning smallKernel imageCells).pocByte 0 5 (pieceAddr pieces j)) = drained.imageAt 0x40000000 := by
  have far (a : Nat) (h : a < 16 ∨ 0x40000100 ≤ a) : drained.homeByte a = 0 := by
    simp only [State.homeByte, drained, SMap.get, imageCells]
    repeat rw [if_neg (by omega)]
  funext j
  rw [plain rfl rfl, pieceAddr, pieces, upFrom_getD]
  split
  · rw [show 0x40000000 + 16 * (0 + j / 16) + j % 16 = 0x40000000 + j by omega]; rfl
  · next h =>
    have : smallKernel.imageSize = 12624 := by decide
    exact (far _ (by omega)).trans (far (0x40000000 + j) (by omega)).symm

/-- The clauses about an image that is back. -/
theorem met_ImagesIssue_returned :
    (∃ s n o h a pas, Rule.Of s n o ∧ s.turns n o = s.needs o ∧ o.ins = .ptld h a ∧ o.work = .ptld pas ∧ s.mayPerform n o false = true ∧ (s.core (coreOf o.st)).combine = [] ∧
      let k := s.kernelOf (s.stand o.st)
      let img := fun (j : Nat) => s.pocByte (coreOf o.st) 5 (pieceAddr pas j)
      (∀ j, j < k.imageSize → s.poisonedAt (.mem (pieceAddr pas j)) = false) ∧ imageCheck k (s.ctx (s.stand o.st).ctx) img = 0 ∧
      (s.core (coreOf o.st)).oslots.length + (imgSlots k img).length ≤ 64) ∧
    ∃ s n o h a pas, Rule.Of s n o ∧ s.turns n o = s.needs o ∧ o.ins = .ptld h a ∧ o.work = .ptld pas ∧ s.mayPerform n o false = true ∧ (s.core (coreOf o.st)).combine = [] ∧
      let st := s.stand o.st
      let k := s.kernelOf st
      (∀ j, j < k.imageSize → s.poisonedAt (.mem (pieceAddr pas j)) = false) ∧
      imageCheck k (s.ctx st.ctx) (fun (j : Nat) => s.pocByte (coreOf o.st) 5 (pieceAddr pas j)) = 0 + 1 ∧ st.inHandler = none ∧ k.trapoff ≠ 0 ∧
      k.trapen.getLsbD 0x12 = true ∧ o.path < 8 ∧ (st.path o.path).state.runs = true ∧ o.rpl = false ∧ (s.core (coreOf o.st)).trace.on = false :=
  ⟨⟨returning smallKernel imageCells, 5, ptldOp, _, _, _, of (by decide +kernel), by decide +kernel, rfl, rfl, by decide +kernel, rfl, fun _ _ => clean rfl _,
      (congrArg (imageCheck smallKernel { Place.ctx with saved := [savedOn] }) returning_image).trans drained_check, by decide +kernel⟩,
    returning handling [], 5, ptldOp, _, _, _, of (by decide +kernel), by decide +kernel, rfl, rfl, by decide +kernel, rfl, fun _ _ => clean rfl _,
      by rw [imageCheck, if_pos (by decide +kernel)], by decide +kernel⟩

/-- An image with its `icrc` in place. -/
def sealed (k : Kernel) (f : Nat → Byte) (a : Nat) : Byte :=
  if 0xFC ≤ a ∧ a < 0x100 then BitVec.ofNat 8 (imageCrc k f / 256 ^ (a - 0xFC)) else f a

theorem crcBits_lt (n : Nat) : ∀ c, c < 2 ^ 32 → crcBits c n < 2 ^ 32 := by
  induction n with
  | zero => intro c h; exact h
  | succ n ih =>
    intro c h
    rw [crcBits]
    apply ih
    split
    · exact Nat.xor_lt_two_pow (by omega) (by decide)
    · omega

theorem crc_lt (bs : List Byte) : crc32c bs < 2 ^ 32 := by
  have h : ∀ (bs : List Byte) c, c < 2 ^ 32 → bs.foldl (fun c b => crcBits (c ^^^ b.toNat) 8) c < 2 ^ 32 := by
    intro bs
    induction bs with
    | nil => intro c h; exact h
    | cons b bs ih => intro c h; exact ih _ (crcBits_lt _ _ (Nat.xor_lt_two_pow h (by have := b.isLt; omega)))
  exact Nat.xor_lt_two_pow (h _ _ (by decide)) (by decide)

/-- `icrc` does not cover itself. -/
theorem crc_same (k : Kernel) (f g : Nat → Byte) (same : ∀ a, ¬ (0xFC ≤ a ∧ a < 0x100) → g a = f a) : imageCrc k g = imageCrc k f := by
  have n (a m : Nat) (h : a + m ≤ 0xFC) : imgNat g a m = imgNat f a m := by
    rw [imgNat, imgNat]
    congr 1
    induction m generalizing a with
    | zero => rfl
    | succ m ih => rw [upFrom, List.map_cons, List.map_cons, ih (a + 1) (by omega), same a (by omega)]
  rw [imageCrc, imageCrc, n 0x3E 2 (by decide), n 0x26 2 (by decide), n 0x3A 1 (by decide), n 0x3B 1 (by decide)]
  congr 2
  funext a
  unfold imageByte
  by_cases h : 0xFC ≤ a ∧ a < 0x100
  · rw [if_pos h, if_pos h]
  · rw [same a h]

theorem sealed_crc (k : Kernel) (f : Nat → Byte) : imageCrc k (sealed k f) = imgNat (sealed k f) 0xFC 4 := by
  have lt : imageCrc k f < 2 ^ 32 := crc_lt _
  rw [crc_same k f (sealed k f) fun a h => if_neg h]
  generalize hc : imageCrc k f = c at lt
  simp only [imgNat, upFrom, List.map, sealed, hc, leNat]
  simp
  omega

/-- The image of a stand with one path, its header from 0; and with bytes changed. -/
def headerBytes : List (Nat × Byte) :=
  [(0, 0x5A), (1, 0x58), (2, 0x53), (3, 0x31), (4, 0x01), (8, 0x01), (0x1C, 0x05), (0x36, 0x01), (0x38, 0xFF), (0x44, 0x0F), (0x4C, 0x40), (0x4F, 0x20)]
def altered (a : Nat) (b : Byte) : Nat → Byte := sealed smallKernel fun x => if x = a then b else SMap.get 0 headerBytes x

theorem altered_crc (a : Nat) (b : Byte) : imageCrc smallKernel (altered a b) = imgNat (altered a b) 0xFC 4 := sealed_crc _ _

theorem crc_off (f g : Nat → Byte) (h : ∀ a, ¬ (0xFC ≤ a ∧ a < 0x100) → g a = f a) (e : imageCrc smallKernel f = imgNat f 0xFC 4)
    (z : g 0xFC = f 0xFC + 1 ∧ g 0xFD = f 0xFD ∧ g 0xFE = f 0xFE ∧ g 0xFF = f 0xFF) : imageCrc smallKernel g ≠ imgNat g 0xFC 4 := by
  rw [crc_same _ f g h, e]
  have := (f 0xFC).isLt
  simp [imgNat, upFrom, leNat, BitVec.toNat_add, z.1, z.2.1, z.2.2.1, z.2.2.2]
  omega

/-- For each check an image that fails it first, and one that fails none. -/
theorem met_ImagesIssue_checks :
    (∃ img, imageCheck smallKernel Place.ctx img = 1) ∧ (∃ img, imgNat img 0 4 = 0x3153585A ∧ imgNat img 4 2 = 1 ∧ imageCheck smallKernel Place.ctx img = 2) ∧
    ∀ n, n ∈ [0, 3, 4, 5, 6, 7, 8] → ∃ img, imgNat img 0 4 = 0x3153585A ∧ imgNat img 4 2 = 1 ∧ imageCrc smallKernel img = imgNat img 0xFC 4 ∧
      imageCheck smallKernel Place.ctx img = n := by
  have one (a : Nat) (b : Byte) (n : Nat) (h : imgNat (altered a b) 0 4 = 0x3153585A ∧ imgNat (altered a b) 4 2 = 1)
      (hn : imageCheck smallKernel Place.ctx (altered a b) = n) :
      ∃ img, imgNat img 0 4 = 0x3153585A ∧ imgNat img 4 2 = 1 ∧ imageCrc smallKernel img = imgNat img 0xFC 4 ∧ imageCheck smallKernel Place.ctx img = n :=
    ⟨altered a b, h.1, h.2, altered_crc _ _, hn⟩
  have chk (a : Nat) (b : Byte) : ¬ imageCrc smallKernel (altered a b) ≠ imgNat (altered a b) 0xFC 4 := fun x => x (altered_crc a b)
  refine ⟨⟨fun _ => 0, by rw [imageCheck, if_pos (by decide +kernel)]⟩, ?_, ?_⟩
  · refine ⟨fun a => if a = 0xFC then altered 0 0x5A a + 1 else altered 0 0x5A a, by decide +kernel, by decide +kernel, ?_⟩
    rw [imageCheck, if_neg (by decide +kernel), if_pos]
    exact crc_off (altered 0 0x5A) _ (fun a h => if_neg (by omega)) (altered_crc _ _)
      ⟨if_pos rfl, if_neg (by decide), if_neg (by decide), if_neg (by decide)⟩
  · intro n hn
    simp only [List.mem_cons, List.not_mem_nil, or_false] at hn
    obtain rfl | rfl | rfl | rfl | rfl | rfl | rfl := hn
    · exact one 0 0x5A 0 (by decide +kernel) (by rw [imageCheck, if_neg (by decide +kernel), if_neg (chk _ _)]; decide +kernel)
    · exact one 0x5F 0xE0 3 (by decide +kernel) (by rw [imageCheck, if_neg (by decide +kernel), if_neg (chk _ _)]; decide +kernel)
    · exact one 0x4C 0 4 (by decide +kernel) (by rw [imageCheck, if_neg (by decide +kernel), if_neg (chk _ _)]; decide +kernel)
    · exact one 0x10 0x1F 5 (by decide +kernel) (by rw [imageCheck, if_neg (by decide +kernel), if_neg (chk _ _)]; decide +kernel)
    · exact one (smallKernel.offHandles + 4) 1 6 (by decide +kernel) (by rw [imageCheck, if_neg (by decide +kernel), if_neg (chk _ _)]; decide +kernel)
    · exact one 0x3B 1 7 (by decide +kernel) (by rw [imageCheck, if_neg (by decide +kernel), if_neg (chk _ _)]; decide +kernel)
    · exact one 0x3A 81 8 (by decide +kernel) (by rw [imageCheck, if_neg (by decide +kernel), if_neg (chk _ _)]; decide +kernel)

/-- That grove to be placed anywhere, and an operation of its stand, whose reply goes to a slot. -/
def savedOne : SavedGrove := { savedOn with onto := none }
def slotOp : Out := { det (.gbar h1 1 15) .replied {} {} with redirect := some 0x40000100, orphan := true }

theorem second (st : Stand) (k : Nat) : ((mk st).core k).slot1.ctx = none := by
  by_cases h : k = 0
  · subst h; rfl
  · simp [State.core, mk, SMap.get?, h, Core.init]

theorem met_ContextCommands :
    (∃ s : State, (s.ctx 1).state = .free) ∧ (∃ s : State, (s.ctx 1).state = .admitted ∧ ∀ k, ¬ ((s.core k).slot0.ctx = some 1 ∧ (s.core k).slot1.ctx = some 1)) ∧
    (∃ s : State, (s.ctx 1).state = .vacating ∧ s.fab.up = true ∧ ∀ kv ∈ s.outs, kv.2.ctx = 1 → ∃ ask rep, kv.2.work = .det .lodged ask rep) ∧
    (∃ s : State, (s.ctx 1).state = .vacated ∧ (s.ctx 1).saved ≠ []) ∧ (∃ s : State, (s.ctx 1).state = .halted) ∧
    (∃ (s : State), ∃ die c x g k u more, s.ctxs = (c, x) :: more ∧ (x.state = .admitted ∨ x.state = .restoring) ∧ x.saved = [g] ∧ g.onto = some k ∧ dieOfCore k = die ∧
      s.slotsFilled g = true ∧ s.slotsBack k g = true ∧ g.stands = [u] ∧ u.owed = [] ∧ s.homeNat (u.image + 6) 2 ≠ 1 ∧ SMap.get? s.groves g.id = none ∧ g.grove.core = k ∧
      imageCheck (s.launch g.grove.launch).kernel x (s.imageAt u.image) = 0 ∧
      s.tablePoison (s.tablesBack c k g) = none) ∧
    ∃ (s : State), ∃ n o pa rep g x, SMap.get? s.outs n = some o ∧ o.ctx = 1 ∧ s.carried o = true ∧ o.redirect = some pa ∧ o.redirected = some rep ∧
      rep.trap = none ∧ s.savedStand o.uid = some (g, x) ∧ x.image + 256 ≤ pa :=
  ⟨⟨State.reset, rfl⟩, ⟨mk (one 0xF), rfl, fun k h => absurd h.2 (by rw [second]; decide)⟩,
    ⟨{ inState .vacating [] with outs := [(5, { slotOp with work := .det .lodged {} {} })] }, rfl, rfl, fun kv h _ => ⟨{}, {}, by obtain rfl := List.mem_singleton.1 h; rfl⟩⟩,
    ⟨inState .vacated [savedOne], rfl, by decide +kernel⟩, ⟨inState .halted [], rfl⟩, ⟨drained, 0, 1, { Place.ctx with saved := [savedOn] }, savedOn, 0, savedStand, [], rfl, .inl rfl, rfl, rfl, rfl, by decide +kernel, by decide +kernel, rfl, rfl, by decide +kernel, rfl, rfl, drained_check,
      by decide +kernel⟩,
    { inState .vacating [savedOne] with stands := [], outs := [(5, slotOp)] }, 5, slotOp, 0x40000100, {}, savedOne, savedStand, rfl, rfl, by decide +kernel, rfl, rfl, rfl, by decide +kernel,
      by decide⟩


/-- A machine whose stand waits for a page, or holds a remote operation. -/
def parked : State := mk { one 0xF with paths := [(7, { below 7 16 0xF with parked := some { lanes := 3, va := 0x50000, fetch := false, first := some 0xF } })] }
def farOp : Out := { op (.aadd h1 3 4 1) .loads 2 (.atomic [⟨.mem 0x10000, 0x10000, [0], false⟩] 11 0 [] [] [] 0 0) with remote := some 1 }

theorem met_ErrorsAreHandled :
    (∃ (s : State) (pa : Nat), pa < 2 ^ 52 ∧ s.sectorRead pa = false) ∧ (∃ (s : State) (n line : Nat) (l : Line), SMap.get? (s.core n).snap line = some l ∧ l.dirty = 0) ∧
    (∃ (s : State) (key n : Nat) (st : Stand) (r : Residual), SMap.get? s.stands key = some st ∧ SMap.get? st.residuals n = some r) ∧
    (∃ (s : State) (q k : Nat) (x : Queue) (r : Rec), SMap.get? s.queues (queueKey q) = some x ∧ x.recs[k]? = some r ∧ x.broken = false) ∧
    (∃ (s : State) (key : Nat) (st : Stand), SMap.get? s.stands key = some st ∧ st.region = none ∧ (s.ctx st.ctx).state ≠ .free) ∧
    (∃ (s : State) (key : Nat) (st : Stand) (r : Region), SMap.get? s.stands key = some st ∧ st.region = some r ∧ (st.loads, st.stores, st.copies, st.tiles, st.tokmask) = (0, 0, 0, 0, 0)) ∧
    (∃ (s : State) (k w : Nat), k < Config.dies * Config.physPerDie ∧ (s.core k).retired = false ∧ (s.core k).work = some w) ∧
    (∃ (s : State) (die cp k j : Nat), die < Config.dies ∧ cp < Config.copses ∧ s.withdrawn (die * Config.copses + cp) = some k ∧
      s.nextInCopse (die * Config.copses + cp) k = some j) ∧
    (∃ (s : State) (key idx : Nat) (st : Stand) (p : Park), SMap.get? s.stands key = some st ∧ (st.path idx).parked = some p ∧ p.fetch = false ∧ st.replays = []) ∧
    (∃ s n o, Rule.Of s n o ∧ o.remote.isSome = true ∧ (∀ x, o.work ≠ .tile x) ∧ (∀ l, o.work ≠ .ptld l) ∧
      o.redirect = none ∧ s.keyOfUid o.uid = some o.st ∧ ∀ p ∈ s.pubs, n ∉ p.tiles) ∧
    (∃ s : State, s.fab.up = true) ∧
    ∃ (s : State) (key : Nat) (st : Stand) (i : Nat), SMap.get? s.stands key = some st ∧ (s.ctx st.ctx).cwdog ≠ 0 ∧ s.ctxRuns key st = true ∧ s.fab.holds = [] ∧
      i < 8 ∧ (st.path i).state = .active ∧ (st.path i).held = false :=
  ⟨⟨mk (one 0xF), 0xFFFFFFFFFFFFF, by decide, by decide +kernel⟩, ⟨{ busy [] with cores := [(0, { core0 with snap := [(5, {})] })] }, 0, 5, {}, by decide +kernel⟩,
    ⟨mk { one 0xF with residuals := [(15, residual)] }, 0, 15, { one 0xF with residuals := [(15, residual)] }, residual, rfl, rfl⟩,
    ⟨withQueue (queue0 [⟨task, false, none⟩]), 0, 0, queue0 [⟨task, false, none⟩], ⟨task, false, none⟩, rfl, rfl, rfl⟩, ⟨mk (one 0xF), 0, one 0xF, by decide +kernel⟩,
    ⟨region { one 0xF with region := some ⟨16, 40, 0xF, 0x3⟩ }, 0, { one 0xF with region := some ⟨16, 40, 0xF, 0x3⟩ }, ⟨16, 40, 0xF, 0x3⟩, by decide +kernel⟩,
    ⟨State.reset, 431 - 1, 7, by decide +kernel⟩, ⟨State.reset, 3, 11, 431, 423, by decide +kernel⟩,
    ⟨parked, 0, 7, { one 0xF with paths := [(7, { below 7 16 0xF with parked := some { lanes := 3, va := 0x50000, fetch := false, first := some 0xF } })] }, { lanes := 3, va := 0x50000, fetch := false, first := some 0xF },
      by decide +kernel⟩,
    ⟨busy [(5, farOp)], 5, farOp, of (by decide +kernel), rfl, by simp [farOp, op], by simp [farOp, op], rfl, by decide +kernel, by decide +kernel⟩, ⟨State.reset, rfl⟩,
    { mk (one 0xF) with ctxs := [(1, { Place.ctx with cwdog := 1 })] }, 0, one 0xF, 0, by decide +kernel⟩

/-- A die's window registers, in a machine whose context is admitted or free. -/
def window (a b c : DWord) (x : CState) : State := { mk (one 0) with ctxs := [(1, { Place.ctx with state := x })], dies := [(3, { obja := a, objb := b, objc := c })] }

/-- What the checks of a create command ask of OBJB, for queues with `n` = 3 and for chains with `n` = 2. -/
def createOk (b : DWord) (n : Nat) : Prop :=
  3 ≤ (b.extractLsb' 13 3).toNat ∧ (b.extractLsb' 13 3).toNat ≤ 5 ∧ (b.extractLsb' 17 4).toNat ≤ 10 ∧ (b.extractLsb' 24 4).toNat < 2 ^ n

/-- OBJB of queue 1023 of die 3 at scope 5 with the greatest size, and RIGHTS; OBJA of a ring in die 3's memory. -/
def objb (rights : Nat) : DWord := dw (0xFFF + 5 * 2 ^ 13 + 10 * 2 ^ 17 + rights * 2 ^ 24)
def obja : DWord := dw (3 * 0x8000000000)

/-- A machine with an object of kind 2, 3 or 4 in slot 5 of die 3, whose handle is in OBJA. -/
def object (kind : Nat) : State :=
  { window (dw (5 + 3 * 2 ^ 14 + 0x10000 + kind * 2 ^ 32)) 0 0 .admitted with
    queues := [(dirKey 2 3 5, queue0 [])], chains := [(dirKey 3 3 5, chain0 [])], endpoints := [(dirKey 4 3 5, ⟨1, true, 0, 0, 9⟩)] }

theorem met_SystemSoftware :
    (∃ s : State, ¬ createOk (s.die 3).objb 3) ∧
    (∃ s : State, createOk (s.die 3).objb 3 ∧ ((s.die 3).objb.extractLsb' 0 12).toNat / 1024 = 3 ∧ s.inMainMemory 3 (((s.die 3).obja.extractLsb' 12 40).toNat * 4096) = true ∧
      (SMap.get? s.queues (queueKey ((s.die 3).objb.extractLsb' 0 12).toNat)).isSome = true) ∧
    (∀ x : CState, ∃ s : State, createOk (s.die 3).objb 3 ∧ ((s.die 3).objb.extractLsb' 0 12).toNat / 1024 = 3 ∧ s.inMainMemory 3 (((s.die 3).obja.extractLsb' 12 40).toNat * 4096) = true ∧
      SMap.get? s.queues (queueKey ((s.die 3).objb.extractLsb' 0 12).toNat) = none ∧ (s.ctx 1).state = x) ∧
    (∃ s : State, ¬ createOk (s.die 3).objb 2) ∧ (∀ x : CState, ∃ s : State, createOk (s.die 3).objb 2 ∧ (s.ctx 1).state = x) ∧
    (∃ (s : State) (i : Nat), createOk (s.die 3).objb 2 ∧ (s.ctx 1).state = .admitted ∧ i < Config.objectSlots ∧ SMap.get? s.chains (dirKey 3 3 i) = none ∧
      ∀ j, j < i → (SMap.get? s.chains (dirKey 3 3 j)).isSome = true) ∧
    (∃ (s : State) (i : Nat), (s.die 3).obja.extractLsb' 0 2 = 2 ∧ (s.die 3).objb = 0 ∧ ((s.die 3).objc.extractLsb' 24 4).toNat < 4 ∧ (s.ctx 1).state = .admitted ∧ i < Config.objectSlots ∧
      SMap.get? s.endpoints (dirKey 4 3 i) = none ∧ ∀ j, j < i → (SMap.get? s.endpoints (dirKey 4 3 j)).isSome = true) ∧
    (∃ (s : State) (key : Nat) (q : Queue), s.toDestroy 3 2 = some key ∧ SMap.get? s.queues key = some q ∧ q.ctx = 1) ∧
    (∃ (s : State) (key : Nat) (x : Chain), s.toDestroy 3 3 = some key ∧ SMap.get? s.chains key = some x ∧ x.ctx = 1) ∧
    (∃ (s : State) (key : Nat) (x : Endpoint), s.toDestroy 3 4 = some key ∧ SMap.get? s.endpoints key = some x ∧ x.ctx = 1) ∧
    (∀ x : IfState, ∃ s : State, (s.iface 0).state = x) ∧ (∃ size : Nat, size ≠ 8) ∧ (∃ (s : State) (c : Nat), c < 1024 ∧ s.ifs = [] ∧ (s.ctx c).state = .free) ∧ ∃ d : Nat, d < 4 :=
  ⟨⟨window 0 0 0 .admitted, by unfold createOk; decide +kernel⟩,
    ⟨{ window obja (objb 7) 0 .admitted with queues := [(queueKey 4095, queue0 [])] }, by unfold createOk; decide +kernel, by decide +kernel, by decide +kernel, by decide +kernel⟩,
    fun x => ⟨window obja (objb 7) 0 x, by unfold createOk; cases x <;> decide +kernel, by cases x <;> decide +kernel, by cases x <;> decide +kernel, by cases x <;> decide +kernel, rfl⟩,
    ⟨window obja (objb 4) 0 .admitted, by unfold createOk; decide +kernel⟩, fun x => ⟨window obja (objb 3) 0 x, by unfold createOk; cases x <;> decide +kernel, rfl⟩,
    ⟨{ window obja (objb 3) 0 .admitted with chains := [(dirKey 3 3 0, chain0 [])] }, 1, by unfold createOk; decide +kernel, rfl, by decide, by decide +kernel, by decide +kernel⟩,
    ⟨window 2 0 0x3000000 .admitted, 0, by decide +kernel, by decide +kernel, by decide +kernel, rfl, by decide, by decide +kernel, by decide⟩,
    ⟨object 2, dirKey 2 3 5, queue0 [], by decide +kernel, rfl, rfl⟩, ⟨object 3, dirKey 3 3 5, chain0 [], by decide +kernel, rfl, rfl⟩,
    ⟨object 4, dirKey 4 3 5, ⟨1, true, 0, 0, 9⟩, by decide +kernel, rfl, rfl⟩, fun x => ⟨{ State.reset with ifs := [(0, { state := x })] }, rfl⟩, ⟨4, by decide⟩, ⟨State.reset, 1023, by decide, rfl, rfl⟩, 3,
    by decide⟩

/-- A home channel at a tap whose copse holds an atomic for it. -/
def channel (tap t : Nat) (low : Option Nat) (passes : SMap Nat) : State := { busy [(5, atom false)] with homes := [((homeOf 0x10000).getD 0, { tap := tap, t := t, low := low, passes := passes })] }

/-- An atomic to a word of Pelfold 1, which its context's limiter holds back or not. -/
def awayOp : Out := { op (.aadd h1 3 4 1) .loads 2 (.atomic [⟨.mem 0x400000010000, 0x10000, [0], false⟩] 11 0 [] [] [] 0 0) with remote := some 1 }
def away (level : Nat) : State := { flight [(5, awayOp)] with dies := [(0, { cyc := 16, limiters := [(1, { burst := 8, rate := 7, level })] })] }

theorem met_FabricAndHeat :
    let home := (homeOf 0x10000).getD 0
    let t0 := fun (s : State) => if (s.home home).tap = 0 then (s.home home).low.getD 63 else (s.home home).t
    home < 128 ∧ (∃ s : State, s.offers home (s.home home).tap = []) ∧
    (∃ (s : State) (r : Req) (l2 : List Req), s.offers home (s.home home).tap = [] ++ r :: l2 ∧ (∀ q ∈ l2, r.slack ≤ q.slack) ∧ r.slack ≤ t0 s) ∧
    (∃ (s : State) (r : Req) (l2 : List Req), s.offers home (s.home home).tap = [] ++ r :: l2 ∧ (∀ q ∈ l2, r.slack ≤ q.slack) ∧ t0 s < r.slack ∧ SMap.get 0 (s.home home).passes (s.home home).tap = 2) ∧
    (∃ (s : State) (r : Req) (l2 : List Req), s.offers home (s.home home).tap = [] ++ r :: l2 ∧ (∀ q ∈ l2, r.slack ≤ q.slack) ∧ t0 s < r.slack ∧ SMap.get 0 (s.home home).passes (s.home home).tap < 2) ∧
    (∃ (s : State) (d c : Nat) (l : Limiter), SMap.get? (s.die d).limiters c = some l) ∧
    (∃ (s : State) (src seq : Nat), s.fab.up = true ∧ seq < SMap.get 0 s.fab.next src) ∧
    (∃ (s : State) (src seq n : Nat) (o : Out) (h sub : Nat), s.fab.up = true ∧ seq = SMap.get 0 s.fab.next src ∧ s.fab.heldPk = [] ∧ SMap.get? s.outs n = some o ∧
      s.limited (dieOfCore (coreOf o.st)) o.ctx = false ∧ s.links o.remote = true ∧ h / 128 ≠ s.devid ∧ (h, sub) ∈ s.asks n o ∧ s.mayAsk n o sub = true) ∧
    (∃ (s : State) (src seq n : Nat) (o : Out), s.fab.up = true ∧ seq = SMap.get 0 s.fab.next src ∧ s.fab.heldPk = [] ∧ SMap.get? s.outs n = some o ∧
      s.limited (dieOfCore (coreOf o.st)) o.ctx = true) ∧
    (∃ (s : State) (src seq : Nat), s.fab.up = true ∧ SMap.get 0 s.fab.next src < seq ∧ ∀ p ∈ s.fab.heldPk, p.1 = src → p.2.1 ≠ seq ∧ p.2.1 ≠ SMap.get 0 s.fab.next src) ∧
    (∃ (s : State) (c n : Nat) (o : Out), (s.ctx c).state ≠ .free ∧ SMap.get? s.outs n = some o ∧ o.ctx = c) ∧ (∃ n : Nat, Config.fecLimit < n) ∧ (∃ s : State, (s.die 3).hot = true) ∧
    ∃ (s : State) (c : Nat) (x : Ctx), SMap.get? s.ctxs c = some x ∧ x.state ≠ .free :=
  ⟨by decide +kernel, ⟨State.reset, rfl⟩, ⟨channel 0 0 none [], ⟨5, 0, 0, 1⟩, [], by decide +kernel⟩, ⟨channel 0 0 (some 0) [(0, 2)], ⟨5, 0, 0, 1⟩, [], by decide +kernel⟩,
    ⟨channel 0 0 (some 0) [(0, 1)], ⟨5, 0, 0, 1⟩, [], by decide +kernel⟩, ⟨{ State.reset with dies := [(3, { limiters := [(1, ⟨8, 2, 7⟩)] })] }, 3, 1, ⟨8, 2, 7⟩, by decide +kernel⟩,
    ⟨{ State.reset with fab := { next := [(1, 1)] } }, 1, 0, by decide +kernel⟩, ⟨away 1, 1, 0, 5, awayOp, (homeOf 0x400000010000).getD 0, 0, by decide +kernel⟩,
    ⟨away 0, 1, 0, 5, awayOp, by decide +kernel⟩, ⟨State.reset, 1, 1, by decide +kernel⟩,
    ⟨busy [(5, atom false)], 1, 5, atom false, by decide +kernel⟩, ⟨Config.fecLimit + 1, by decide +kernel⟩, ⟨{ State.reset with dies := [(3, { hot := true })] }, by decide +kernel⟩,
    mk (one 0), 1, Place.ctx, by decide +kernel⟩

/-- A machine with a debugger. -/
def debugged (st : Stand) : State := { mk st with ctxs := [(1, { Place.ctx with debugger := true })] }

/-- An entry that is held, and one that meets a breakpoint. -/
def heldStand : Stand := { one 0xF with paths := [(7, { below 7 16 0xF with held := true })] }
def early : Out := { ldOp with spec := true, vu := 3, grow := 0 }

/-- A path at a BRA declared uniform whose predicate a GVOTE still has to write; behind it an SLD of a word that the snapshot holds. -/
def atBranch : State :=
  { mk { one 0xF with sregs := [(5, 0x10000)], paths := [(0, { Path.start 0 16 0xF 0 with wait := some .operand })] } with
    cores := [(0, { core0 with tlb := pages ++ [⟨1, 0x200000, 65536, 0x200038#64⟩], snap := [(1024, { data := [(0, 7)], valid := ~~~0 })] })],
    mem := ((upFrom 0x200040 12).zip (bytesOfWord 0x40400100 ++ bytesOfWord 0x00080000 ++ bytesOfWord 0x48E10280)).filter (·.2 != 0),
    outs := [(5, det (.gvote h1 0 2 0 7) .sent {} {})] }

/-- R22 to R24: the first step notes the branch, the second issues the load, with its charge and its count; the path stays at the branch and no register
changes. -/
theorem test_issue_ahead :
    (match atBranch.aheadMove.bind fun x => x.2.aheadMove with
      | some (_, t) => (match SMap.get? t.outs 10 with
          | some o => o.spec && o.seen.length == 8 && SMap.get? o.seen 0x10000 == some 7
          | none => false) && t.me.loads == 1 && (t.core 0).slot0.c == 1 && (t.me.path 0).pc == 16 && decide (t.me.sregs = atBranch.me.sregs)
      | none => false) = true := by decide +kernel

/-- A path ready at an SLD whose translation no TLB holds; behind it the SLD of a word that the snapshot holds. -/
def atMiss : State :=
  (({ mk { one 0xF with sregs := [(5, 0x10000), (6, 0x300000)] } with
      cores := atBranch.cores, mem := ((upFrom 0x200040 8).zip (bytesOfWord 0x48E08300 ++ bytesOfWord 0x48E10280)).filter (·.2 != 0) }.putEntry
    Place.root (Place.root + 0x1001)).putEntry (Place.root + 0x1000) (Place.root + 0x2001)).putEntry (Place.root + 0x2000) (2 + 8)

/-- R22: the second SLD issues first; the path stays at the first. -/
theorem test_issue_past_translation :
    (match atMiss.aheadMove with
      | some (_, t) => (match SMap.get? t.outs 10 with
          | some o => o.spec && o.pc == 17 && SMap.get? o.seen 0x10000 == some 7
          | none => false) && t.me.loads == 1 && (t.me.path 0).pc == 16
      | none => false) = true := by decide +kernel

theorem met_DebuggerAndBoot :
    (∃ (s : State) (c key : Nat) (st : Stand), (s.ctx c).debugger = true ∧ SMap.get? s.stands key = some st ∧ st.ctx = c) ∧
    (∃ (s : State) (c g : Nat) (x : Grove), (s.ctx c).debugger = true ∧ SMap.get? s.groves g = some x ∧ (s.launch x.launch).ctx = c) ∧
    (∃ (s : State) (key idx : Nat) (st : Stand), SMap.get? s.stands key = some st ∧ (s.ctx st.ctx).debugger = true ∧ idx < 8 ∧ (st.path idx).held = true ∧
      (st.path idx).state.runs = true) ∧
    (∃ (s : State) (key idx : Nat) (st : Stand), SMap.get? s.stands key = some st ∧ (s.ctx st.ctx).debugger = true ∧ idx < 8 ∧ (st.path idx).state.runs = true ∧
      (st.path idx).single = false ∧ (st.path idx).pass = false ∧ ∃ b ∈ (s.core (coreOf key)).breaks, b.2 = ⟨(s.kernelOf st).addr, (st.path idx).pc⟩) ∧
    (∃ (s : State) (key idx c : Nat) (ker : Kernel) (image : Nat), SMap.get? s.stands key = none ∧ s.haltedAt key = some (c, ker, image) ∧ (s.ctx c).debugger = true ∧ idx < 8) ∧
    (∃ n k len : Nat, n < 432 ∧ k < 8 ∧ len ≤ 4194304) ∧ (∃ (s : State) (n : Nat), n < 432 ∧ (s.core n).slot0.ctx = none ∧ (s.core n).slot1.ctx = none) ∧
    (∃ (s : State) (n : Nat), n < 432 ∧ (s.core n).slot0.ctx ≠ none) ∧ (∃ (s : State) (n : Nat), n < 432 ∧ (s.core n).slot1.ctx ≠ none) ∧
    (∃ (s : State) (n q : Nat), (SMap.get {} (s.core n).quarters q).run < 256) ∧
    (∃ (s : State) (n q key idx : Nat) (st : Stand), 256 ≤ (SMap.get {} (s.core n).quarters q).run ∧ (SMap.get {} (s.core n).quarters q).greedy = some (key, idx) ∧ SMap.get? s.stands key = some st ∧
      (st.path idx).state ≠ .free) ∧
    (∃ (s : State) (key idx : Nat) (st : Stand) (n : Nat) (o : Out) (b : Bool), SMap.get? s.stands key = some st ∧ s.outs.filter (fun kv => kv.2.uid == st.uid && kv.2.spec && kv.2.path == idx) = [(n, o)] ∧
      o.orphan = false ∧ o.st = key ∧ o.ctr ≠ .none ∧ s.slotOf (coreOf key) o.ctx = some b) ∧
    (∃ (s : State) (key idx : Nat) (t : State), ((s.stand key).path idx).state.runs = true ∧ SMap.get? s.outs s.nextId = none ∧ s.lookPast key idx = some t) ∧
    (∃ (s : State) (key idx : Nat) (t : State), ((s.stand key).path idx).state.runs = true ∧ SMap.get? s.outs s.nextId = none ∧ s.lookOver key idx = some t) ∧
    (∃ s : State, s.power ≠ .reset) ∧ (∃ s : State, s.power = .reset ∧ s.firmware ≠ [] ∧ ∀ f ∈ s.firmware, f.valid = true) ∧
    (∃ s : State, s.power = .reset ∧ ∃ f ∈ s.firmware, f.valid = false) ∧ ∃ s : State, s.power = .on ∨ s.power = .recovery :=
  ⟨⟨debugged (one 0xF), 1, 0, one 0xF, by decide +kernel⟩, ⟨debugged (one 0xF), 1, 1, { launch := 1, core := 0, units := 1, size := 1 }, by decide +kernel⟩,
    ⟨debugged heldStand, 0, 7, heldStand, by decide +kernel⟩,
    ⟨{ debugged (one 0xF) with cores := [(0, { core0 with breaks := [(7, ⟨dw Place.header, 16⟩)] })] }, 0, 0, one 0xF, by decide +kernel, by decide +kernel, by decide, by decide +kernel, rfl, rfl,
      (7, ⟨dw Place.header, 16⟩), List.mem_singleton.2 rfl, rfl⟩,
    ⟨{ drained with ctxs := [(1, { Place.ctx with saved := [savedOn], debugger := true })] }, 0, 7, 1, smallKernel, 0x40000000, by decide +kernel⟩,
    ⟨431, 7, 4194304, by decide⟩, ⟨State.reset, 431, by decide, rfl, rfl⟩, ⟨mk (one 0), 0, by decide +kernel⟩, ⟨shared (Core.init 0) 0, 0, by decide +kernel⟩, ⟨mk (one 0), 0, 3, by decide +kernel⟩,
    ⟨{ mk (one 0xF) with cores := [(0, { core0 with quarters := [(0, { greedy := some (0, 0), run := 256 })] })] }, 0, 0, 0, 0, one 0xF, by decide +kernel⟩,
    ⟨{ mk { one 0xF with loads := 1 } with outs := [(5, early)] }, 0, 0, { one 0xF with loads := 1 }, 5, early, false, by decide +kernel⟩,
    ⟨atBranch, 0, 0, _, by decide +kernel, by decide +kernel, Option.eq_some_of_isSome (by decide +kernel)⟩,
    ⟨atMiss, 0, 0, _, by decide +kernel, by decide +kernel, Option.eq_some_of_isSome (by decide +kernel)⟩,
    ⟨mk (one 0), by decide⟩, ⟨{ State.reset with firmware := [⟨.boot, [1], true⟩] }, by decide +kernel⟩, ⟨{ State.reset with firmware := [⟨.boot, [1], false⟩] }, rfl, ⟨.boot, [1], false⟩, List.mem_singleton.2 rfl, rfl⟩, mk (one 0), .inl rfl⟩


/-! ### Encoding and the step -/

theorem met_EncodeThenDecode : (∃ i bytes, Instr.wellFormed i = true ∧ encodeBytes i = some bytes ∧ bytes.length = 4) ∧
    ∃ i bytes, Instr.wellFormed i = true ∧ encodeBytes i = some bytes ∧ bytes.length = 8 :=
  ⟨⟨.iadd h1 4 5 6, _, rfl, rfl, rfl⟩, .tacc ⟨.v2, 3⟩ 15 63 0xFFFFFF80, _, rfl, rfl, rfl⟩

theorem met_DecodeThenEncode : ∃ i, decode [0x86, 0x02, 0x01, 0x42, 0xAA] = .ok (i, [0xAA]) := ⟨.iadd h1 4 5 6, rfl⟩

/-- A machine that runs a path at PC 16, on a page that its core's TLB holds, with two words there. -/
def placed (w0 w1 : Word) : State :=
  { mk (one 0xF) with cores := [(0, { core0 with tlb := [⟨1, 0x200000, 65536, 0x200038#64⟩] })], mem := ((upFrom 0x200040 8).zip (bytesOfWord w0 ++ bytesOfWord w1)).filter (·.2 != 0) }

/-- The conditions of `Rule.Fetches` where the TLB holds the page, as a test. -/
def fetchesB (s : State) (k c va : Nat) (w : Word) : Bool :=
  match (s.core k).tlb.find? (·.covers c va) with
  | some t => t.x && !t.psn && s.populated c (t.pa va) && !(s.core k).det && !s.poisonedAt (.mem (t.pa va))
      && decide (w = wordOfBytes (s.coreByte k (t.pa va)) (s.coreByte k (t.pa va + 1)) (s.coreByte k (t.pa va + 2)) (s.coreByte k (t.pa va + 3)))
  | none => false

theorem fetches {s : State} {k c va : Nat} {w : Word} (h : fetchesB s k c va w = true) : Rule.Fetches s k c va s w := by
  unfold fetchesB at h
  split at h
  · next t ht =>
    simp only [Bool.and_eq_true, Bool.not_eq_true', decide_eq_true_eq] at h
    exact ⟨t, by simp only [State.translate, ht], h.1.1.1.1.1, h.1.1.1.1.2, h.1.1.1.2, by simp [h.1.1.2], h.1.2, h.2⟩
  · simp at h

/-- The conditions of `Rule.Picked`, as a test. -/
def pickedB (s : State) (c : Cand) : Bool :=
  decide (s.power = .on) && s.agenda.isEmpty && decide (s.pickPath = some c) && s.aheadMove.isNone && !s.eventTurn c && !s.greedyDone c && ((s.beginIssue c).lateLine c).isNone
    && !(s.beginIssue c).atBreakpoint c (Rule.pcOf s c) && !((s.stand c.key).path c.idx).pass

theorem picked {s : State} {c : Cand} (h : pickedB s c = true) : Rule.Picked s c := by
  simp only [pickedB, Bool.and_eq_true, Bool.not_eq_true', decide_eq_true_eq, Option.isNone_iff_eq_none, List.isEmpty_iff] at h
  exact ⟨h.1.1.1.1.1.1.1.1, h.1.1.1.1.1.1.1.2, h.1.1.1.1.1.1.2, h.1.1.1.1.1.2, h.1.1.1.1.2, h.1.1.1.2, h.1.1.2, h.1.2, h.2⟩

/-- The path of `placed`. -/
def first : Cand := ⟨0, 0, false, 0⟩

/-- A machine whose path waits while a PREF is outstanding. -/
def waits : State :=
  { flight [(5, prefOp)] with
    stands := [(0, { one 0xF with paths := [(0, { below 0 16 0xF with wait := some .operand })] })] }

theorem met_StepRunsDecodedInstruction :
    (∃ s u w i, Rule.Fetches s (coreOf 0) (s.stand 0).ctx ((s.kernelOf (s.stand 0)).addr.toNat + 4 * 16) u w ∧ isKFormat (Raw.ofWord w).op = false ∧ decodeWords w 0 = .ok i) ∧
    (∃ s u w e, Rule.Fetches s (coreOf 0) (s.stand 0).ctx ((s.kernelOf (s.stand 0)).addr.toNat + 4 * 16) u w ∧ isKFormat (Raw.ofWord w).op = false ∧ decodeWords w 0 = .error e) ∧
    (∃ s u v w lit i, Rule.Fetches s (coreOf 0) (s.stand 0).ctx ((s.kernelOf (s.stand 0)).addr.toNat + 4 * 16) u w ∧ isKFormat (Raw.ofWord w).op = true ∧
      Rule.Fetches u (coreOf 0) (s.stand 0).ctx ((s.kernelOf (s.stand 0)).addr.toNat + 4 * 16 + 4) v lit ∧ decodeWords w lit = .ok i) ∧
    (∃ s u v w lit e, Rule.Fetches s (coreOf 0) (s.stand 0).ctx ((s.kernelOf (s.stand 0)).addr.toNat + 4 * 16) u w ∧ isKFormat (Raw.ofWord w).op = true ∧
      Rule.Fetches u (coreOf 0) (s.stand 0).ctx ((s.kernelOf (s.stand 0)).addr.toNat + 4 * 16 + 4) v lit ∧ decodeWords w lit = .error e) ∧
    (∃ s c i, Rule.Picked s c ∧ ((s.beginIssue c).fetch c.key (Rule.pcOf s c)).2 = .ok i) ∧ (∃ s c x, Rule.Picked s c ∧ ((s.beginIssue c).fetch c.key (Rule.pcOf s c)).2 = .bad x) ∧
    (∃ (s : State) (c : Cand), s.cur = ⟨c.key, c.idx, c.replay⟩ ∧ (s.core (coreOf c.key)).trace.on = false ∧ ((s.stand c.key).path c.idx).single = false) ∧
    (∃ s : State, s.ahead = [] ∧ (∀ kv ∈ s.outs, kv.2.work ≠ .rflush []) ∧ (∀ kv ∈ s.stands, kv.2.restart = false) ∧ (∀ kv ∈ s.cores, kv.2.snap.length ≤ Config.snapLines) ∧
      ∀ kv ∈ s.copses, kv.2.cache.length ≤ Config.copseLines) ∧
    (∃ s : State, s.power = .on ∧ s.agenda = [] ∧ s.pickPath = none ∧ s.aheadMove = none ∧ s.dueEvent = none) ∧
    (∃ (s : State) (i : Instr) (t : State), s.power = .on ∧ s.agenda = [] ∧ s.pickPath = none ∧ s.aheadMove = none ∧ s.dueEvent = some i ∧ i.isEncoded = false ∧
      exec i { s with turn := allQuarters - 1 } = .next t) ∧
    (∃ (u : State) (c : Cand) (pc : BitVec 17) (a : Ahead) (rest : List Beyond) (n : Nat) (o : Out), c.replay = false ∧ SMap.get? u.ahead (aheadKey c.key c.idx) = some a ∧
      a.past = ⟨pc, some n⟩ :: rest ∧ SMap.get? u.outs n = some o) ∧
    (∃ (s : State) (q : Nat) (t : State), s.power = .on ∧ s.agenda = [] ∧ s.aheadMove = some (q, t) ∧ s.pickPath = none) ∧
    (∃ (s : State) (i : Instr), s.power = .on ∧ s.agenda = [i] ∧ i.isEncoded = true) ∧ (∃ (s : State) (i : Instr), s.power = .on ∧ s.agenda = [i] ∧ i.isEncoded = false) ∧ ∃ s : State, s.power = .off :=
  ⟨⟨placed 0x42010286 0, _, 0x42010286, .iadd h1 4 5 6, fetches (by decide +kernel), rfl, rfl⟩, ⟨placed 0xC2010286 0, _, 0xC2010286, .version, fetches (by decide +kernel), rfl, rfl⟩,
    ⟨placed 0x4540C000 0x42DC0000, _, _, 0x4540C000, 0x42DC0000, .movk h1 3 0x42DC0000, fetches (by decide +kernel), rfl, fetches (by decide +kernel), rfl⟩,
    ⟨placed 0x4B00C200 0, _, _, 0x4B00C200, 0, _, fetches (by decide +kernel), rfl, fetches (by decide +kernel), rfl⟩,
    ⟨placed 0x42010286 0, first, .iadd h1 4 5 6, picked (by decide +kernel), by decide +kernel⟩, ⟨placed 0xC2010286 0, first, 0xC2010286, picked (by decide +kernel), by decide +kernel⟩,
    ⟨placed 0 0, first, rfl, by decide +kernel, rfl⟩, ⟨placed 0 0, by decide +kernel⟩, ⟨{ State.reset with power := .on }, by decide +kernel⟩,
    ⟨waits, .loadDataReturn 5, _, by decide +kernel, by decide +kernel, by decide +kernel, by decide +kernel, by decide +kernel, rfl, rfl⟩,
    ⟨{ State.reset with ahead := [(0, ⟨1, [⟨18, some 5⟩], 19, false⟩)], outs := [(5, early)] }, first, 18, _, [], 5, early, rfl, rfl, rfl, rfl⟩,
    ⟨atBranch, _, _, rfl, rfl, Option.eq_some_of_isSome (by decide +kernel), by decide +kernel⟩,
    ⟨{ State.reset with power := .on, agenda := [.nop h1] }, .nop h1, rfl, rfl, rfl⟩,
    ⟨{ State.reset with power := .on, agenda := [.boot] }, .boot, rfl, rfl, rfl⟩, { State.reset with power := .off }, rfl⟩

theorem met_StepKeepsMemory : ∃ s t, s.MemOk ∧ step s = .next t := ⟨{ State.reset with power := .on, agenda := [.boot] }, _, rfl, rfl⟩

/-! ## Ill-formed instructions, one for each check of `wellFormed` -/

theorem test_wellFormed_predicates :
    Instr.wellFormed (.illegal 0x42010286) = false ∧ Instr.wellFormed (.bra h1 false 17 0 0) = false ∧ Instr.wellFormed (.iset h1 6 0 1 2) = false ∧ Instr.wellFormed (.sel h1 0 1 17) = false ∧
    Instr.wellFormed (.pand h1 17 0 0) = false ∧ Instr.wellFormed (.por h1 0 17 0) = false ∧ Instr.wellFormed (.pxor h1 0 0 17) = false ∧ Instr.wellFormed (.pandn h1 0 31 0) = false ∧
    Instr.wellFormed (.p2s h1 0 17) = false ∧ Instr.wellFormed (.s2p h1 17 0) = false ∧ Instr.wellFormed (.lred h1 0 0 3) = false ∧ Instr.wellFormed (.lvote h1 3 0 0) = false ∧
    Instr.wellFormed (.lvote h1 0 0 17) = false ∧ Instr.wellFormed (.awin h1 17 0 0) = false ∧ Instr.wellFormed (.ktst h1 17 0) = false := by decide

theorem test_wellFormed_operands :
    Instr.wellFormed (.phase h1 0 0) = false ∧ Instr.wellFormed (.phase h1 1 6) = false ∧ Instr.wellFormed (.acvt h1 true 3 0 0) = false ∧ Instr.wellFormed (.tacc h1 0 0 0) = false ∧
    Instr.wellFormed (.ast h1 0 0 64) = false ∧ Instr.wellFormed (.ald h1 0 0 129) = false ∧ Instr.wellFormed (.cpin h1 false 0 62 0 1 4) = false ∧ Instr.wellFormed (.cpin h1 false 0 0 0 0 4) = false ∧
    Instr.wellFormed (.cpin h1 true 0 0 0 1 0) = false ∧ Instr.wellFormed (.cpout h1 0 0 62 1 4) = false ∧ Instr.wellFormed (.gvote h1 3 0 0 0) = false ∧ Instr.wellFormed (.gred h1 0 0 0 3) = false ∧
    Instr.wellFormed (.ginfo h1 62 0) = false ∧ Instr.wellFormed (.qenq h1 0 0 56) = false ∧ Instr.wellFormed (.qdeq h1 0 0 63) = false ∧ Instr.wellFormed (.qsteal h1 0 0 56) = false ∧
    Instr.wellFormed (.chapp h1 0 0 56) = false := by decide

theorem test_wellFormed_steps :
    Instr.wellFormed (.launchRecordEnqueue 4096 []) = false ∧ Instr.wellFormed (.grovePlacement 4) = false ∧ Instr.wellFormed (.greedyRunLimit 432 0) = false ∧ Instr.wellFormed (.greedyRunLimit 0 4) = false ∧
    Instr.wellFormed (.holdNotice 64) = false ∧ Instr.wellFormed (.ccmdAdmit 1024) = false ∧ Instr.wellFormed (.lockInterfaceRequest 64) = false ∧ Instr.wellFormed (.coppiceScanEnd 0 12 true) = false ∧
    Instr.wellFormed (.tokenTapVisit 128) = false ∧ Instr.wellFormed (.linkFailure 256) = false ∧ Instr.wellFormed (.wavelengthErrorWindow 0 8 0) = false ∧
    Instr.wellFormed (.debugSetBreakpoint 0 8 none) = false ∧ Instr.wellFormed (.createQueue 0 1024) = false := by decide

/-! ## Words

A word is VER, SCH, OP, D, A and B, from the top (R36); the hexadecimal words are those that the entries of spec/20 to 23 and the sections before them print. -/

/-- Fields of a word of VER 1 and SCH 0, laid out as R36 says. -/
def word (o d a b : BitVec 7) : Word := 0b01#2 ++ 0b00#2 ++ o ++ d ++ a ++ b

theorem test_words_control :
    decodeWords 0x40200000 0 = .ok (.nop h1) ∧ decodeWords 0x40404100 0x0006000A = .ok (.bra h1 true 2 6 10) ∧ decodeWords 0x40610286 0 = .ok (.brx h1 4 5 6) ∧
    decodeWords 0x40800000 0 = .ok (.join h1) ∧ decodeWords 0x40A50000 0x00000120 = .ok (.call h1 20 0x120) ∧ decodeWords 0x40C00A00 0 = .ok (.ret h1 20) ∧
    decodeWords 0x40E00000 0 = .ok (.exit h1) ∧ decodeWords 0x41000000 0x04FFFFC0 = .ok (.wait h1 0x04FFFFC0) ∧ decodeWords 0x41200000 0 = .ok (.yield h1) ∧
    decodeWords 0x41404100 0x00040001 = .ok (.spawn h1 1 2 0x00040001) ∧ decodeWords 0x41600185 0 = .ok (.trap h1 3 5) ∧ decodeWords 0x41800000 0 = .ok (.eret h1) ∧
    decodeWords 0x41A00000 0 = .ok (.brk h1) ∧ decodeWords 0x41C00000 0 = .ok (.idem h1) ∧ decodeWords 0x41E0C000 1 = .ok (.mode h1 3 1) :=
  ⟨rfl, rfl, rfl, rfl, rfl, rfl, rfl, rfl, rfl, rfl, rfl, rfl, rfl, rfl, rfl⟩

theorem test_words_integer :
    decodeWords 0x42010286 0 = .ok (.iadd h1 4 5 6) ∧ decodeWords 0x42210286 0 = .ok (.isub h1 4 5 6) ∧ decodeWords 0x42410286 0 = .ok (.imul h1 4 5 6) ∧
    decodeWords 0x42610286 0 = .ok (.imulh h1 4 5 6) ∧ decodeWords 0x42810286 0 = .ok (.imad h1 4 5 6) ∧ decodeWords 0x42A10286 0 = .ok (.imin h1 4 5 6) ∧
    decodeWords 0x42C10286 0 = .ok (.imax h1 4 5 6) ∧ decodeWords 0x43010286 0 = .ok (.or h1 4 5 6) ∧ decodeWords 0x43210286 0 = .ok (.xor h1 4 5 6) ∧
    decodeWords 0x43410286 0 = .ok (.shl h1 4 5 6) ∧ decodeWords 0x43610286 0 = .ok (.shr h1 4 5 6) ∧ decodeWords 0x43810286 0 = .ok (.sar h1 4 5 6) ∧
    decodeWords 0x43B04205 0 = .ok (.iset h1 4 1 4 5) ∧ decodeWords 0x43C10282 0 = .ok (.sel h1 4 5 2) ∧ decodeWords 0x43E10286 0 = .ok (.idp4 h1 4 5 6) ∧
    decodeWords 0x45210280 0xFFFFFFFF = .ok (.iaddk h1 4 5 0xFFFFFFFF) :=
  ⟨rfl, rfl, rfl, rfl, rfl, rfl, rfl, rfl, rfl, rfl, rfl, rfl, rfl, rfl, rfl, rfl⟩

theorem test_words_float :
    decodeWords 0x44010286 0 = .ok (.fadd h1 4 5 6) ∧ decodeWords 0x44210286 0 = .ok (.fsub h1 4 5 6) ∧ decodeWords 0x44410286 0 = .ok (.fmul h1 4 5 6) ∧
    decodeWords 0x44610286 0 = .ok (.ffma h1 4 5 6) ∧ decodeWords 0x44810286 0 = .ok (.fmin h1 4 5 6) ∧ decodeWords 0x44A10286 0 = .ok (.fmax h1 4 5 6) ∧
    decodeWords 0x44C88205 0 = .ok (.fset h1 2 2 4 5) ∧ decodeWords 0x44E10286 0 = .ok (.fdp2 h1 4 5 6) ∧ decodeWords 0x45010290 0 = .ok (.fabs h1 4 5) ∧
    decodeWords 0x45010291 0 = .ok (.fneg h1 4 5) ∧ decodeWords 0x45010292 0 = .ok (.frcp h1 4 5) ∧ decodeWords 0x45010293 0 = .ok (.frsq h1 4 5) ∧
    decodeWords 0x45010294 0 = .ok (.fsqrt h1 4 5) ∧ decodeWords 0x45010295 0 = .ok (.fexp2 h1 4 5) ∧ decodeWords 0x45010296 0 = .ok (.flog2 h1 4 5) ∧
    decodeWords 0x45010297 0 = .ok (.fsin h1 4 5) ∧ decodeWords 0x45010298 0 = .ok (.fcos h1 4 5) :=
  ⟨rfl, rfl, rfl, rfl, rfl, rfl, rfl, rfl, rfl, rfl, rfl, rfl, rfl, rfl, rfl, rfl, rfl⟩

theorem test_words_unary :
    decodeWords 0x45010280 0 = .ok (.mov h1 4 5) ∧ decodeWords 0x45010281 0 = .ok (.not h1 4 5) ∧ decodeWords 0x45010282 0 = .ok (.iabs h1 4 5) ∧
    decodeWords 0x45010283 0 = .ok (.ineg h1 4 5) ∧ decodeWords 0x4502C284 0 = .ok (.popc h1 11 5) ∧ decodeWords 0x4500C105 0 = .ok (.clz h1 3 2) ∧
    decodeWords 0x4500C106 0 = .ok (.brev h1 3 2) ∧ decodeWords 0x45018287 0 = .ok (.lrank h1 6 5) ∧ decodeWords 0x45000008 0 = .ok (.lidx h1 0) ∧
    decodeWords 0x4500C121 0 = .ok (.cvt h1 1 3 2) ∧ decodeWords 0x4540C000 0x42DC0000 = .ok (.movk h1 3 0x42DC0000) ∧
    decodeWords 0x45628032 0 = .ok (.csrr h1 10 0x032) ∧ decodeWords 0x45604100 0 = .ok (.csrr h1 1 0x100) ∧
    decodeWords 0x45824036 0 = .ok (.csrw h1 9 0x036) :=
  ⟨rfl, rfl, rfl, rfl, rfl, rfl, rfl, rfl, rfl, rfl, rfl, rfl, rfl, rfl⟩

theorem test_words_predicates :
    decodeWords 0x45A04103 0 = .ok (.pand h1 1 2 3) ∧ decodeWords 0x45C04103 0 = .ok (.por h1 1 2 3) ∧ decodeWords 0x45E04103 0 = .ok (.pxor h1 1 2 3) ∧
    decodeWords 0x46004103 0 = .ok (.pandn h1 1 2 3) ∧ decodeWords 0x46218080 0 = .ok (.p2s h1 6 1) ∧ decodeWords 0x46404300 0 = .ok (.s2p h1 1 6) :=
  ⟨rfl, rfl, rfl, rfl, rfl, rfl⟩

theorem test_words_lanes :
    decodeWords 0x46610286 0 = .ok (.lshf h1 4 5 6) ∧ decodeWords 0x46810283 0 = .ok (.lbcs h1 4 5 3) ∧ decodeWords 0x46A14380 0 = .ok (.lmatch h1 5 7) ∧
    decodeWords 0x46C40801 0 = .ok (.lpfx h1 16 16 true) ∧ decodeWords 0x46E58A02 0 = .ok (.lred h1 22 20 2) ∧
    decodeWords 0x47048080 0 = .ok (.lvote h1 1 2 1) ∧ decodeWords 0x47208081 0 = .ok (.xchg h1 2 1 1) ∧ decodeWords 0x47414203 0 = .ok (.v2s h1 5 4 3) ∧
    decodeWords 0x47610280 0 = .ok (.s2v h1 4 5 false) :=
  ⟨rfl, rfl, rfl, rfl, rfl, rfl, rfl, rfl, rfl⟩

theorem test_words_scalar :
    decodeWords 0x47804103 0 = .ok (.sadd h1 1 2 3) ∧ decodeWords 0x47A04103 0 = .ok (.ssub h1 1 2 3) ∧ decodeWords 0x47C04103 0 = .ok (.smul h1 1 2 3) ∧
    decodeWords 0x47E04103 0 = .ok (.sand h1 1 2 3) ∧ decodeWords 0x48004103 0 = .ok (.sor h1 1 2 3) ∧ decodeWords 0x48204103 0 = .ok (.sxor h1 1 2 3) ∧
    decodeWords 0x48404103 0 = .ok (.sshl h1 1 2 3) ∧ decodeWords 0x48604103 0 = .ok (.sshr h1 1 2 3) ∧ decodeWords 0x48984286 0 = .ok (.sset h1 6 1 5 6) ∧
    decodeWords 0x48A24000 1 = .ok (.smovk h1 9 1) ∧ decodeWords 0x48C08080 0x10000 = .ok (.saddk h1 2 1 0x10000) :=
  ⟨rfl, rfl, rfl, rfl, rfl, rfl, rfl, rfl, rfl, rfl, rfl⟩

theorem test_words_memory :
    decodeWords 0x48E14A00 0 = .ok (.sld h1 5 20) ∧ decodeWords 0x49014A00 0 = .ok (.sst h1 5 20) ∧ decodeWords 0x49204201 0 = .ok (.ld h1 1 4 1) ∧
    decodeWords 0x49404101 0 = .ok (.st h1 1 2 1) ∧ decodeWords 0x49600201 0 = .ok (.pref h1 false 4 1) ∧ decodeWords 0x49800000 0x13 = .ok (.phase h1 2 3) ∧
    decodeWords 0x49C08200 0 = .ok (.awin h1 2 4 0) ∧ decodeWords 0x49E00103 0 = .ok (.discard h1 2 3) ∧ decodeWords 0x4A018101 0 = .ok (.aadd h1 6 2 1) ∧
    decodeWords 0x4AE18108 0 = .ok (.acas h1 6 2 8) :=
  ⟨rfl, rfl, rfl, rfl, rfl, rfl, rfl, rfl, rfl, rfl⟩

theorem test_words_tiles :
    decodeWords 0x4B00C200 0x80 = .ok (.tacc h1 3 4 0x80) ∧ decodeWords 0x4B20C180 0x80 = .ok (.ast h1 3 3 0x80) ∧
    decodeWords 0x4B400500 0x80 = .ok (.ald h1 0 10 0x80) ∧ decodeWords 0x4B600103 0 = .ok (.rflush h1 2 3) ∧ decodeWords 0x4B800106 0 = .ok (.tagset h1 2 6) ∧
    decodeWords 0x4BA1C100 0 = .ok (.tagget h1 7 2) ∧ decodeWords 0x4BC24206 0x02000080 = .ok (.cpin h1 true 1 4 6 32 128) ∧
    decodeWords 0x4BE00108 0x00100100 = .ok (.cpout h1 0 2 8 1 256) ∧ decodeWords 0x4C004100 0 = .ok (.ktst h1 1 2) ∧
    decodeWords 0x4C000181 0 = .ok (.tmark h1 3) ∧ decodeWords 0x4C000102 0 = .ok (.vres h1 2) ∧ decodeWords 0x4C000003 0 = .ok (.vrel h1) ∧
    decodeWords 0x4C024404 0 = .ok (.ptst h1 9 8) ∧ decodeWords 0x4C000405 0 = .ok (.ptld h1 8) :=
  ⟨rfl, rfl, rfl, rfl, rfl, rfl, rfl, rfl, rfl, rfl, rfl, rfl, rfl, rfl⟩

theorem test_words_engine :
    decodeWords 0x4C204000 0 = .ok (.btake h1 true) ∧ decodeWords 0x4C404000 0 = .ok (.bpass h1 true) ∧ decodeWords 0x4C608000 0 = .ok (.oclm h1 2) ∧
    decodeWords 0x4C808000 0 = .ok (.orel h1 2) ∧ decodeWords 0x4CA041A0 0 = .ok (.old h1 1 3 32) ∧ decodeWords 0x4CC00082 0 = .ok (.mma h1 0 1 2) ∧
    decodeWords 0x4CE08000 0 = .ok (.azero h1 2) ∧ decodeWords 0x4D050000 0 = .ok (.amov h1 20 0 false 0) ∧
    decodeWords 0x4D2042A3 0 = .ok (.amovv h1 1 5 true 3) ∧ decodeWords 0x4D400280 0 = .ok (.gang h1 5) ∧ decodeWords 0x4D60C200 0 = .ok (.cbld h1 3 4) :=
  ⟨rfl, rfl, rfl, rfl, rfl, rfl, rfl, rfl, rfl, rfl, rfl⟩

theorem test_words_groups :
    decodeWords 0x4D804100 0 = .ok (.gcrt h1 1 2 0) ∧ decodeWords 0x4DA04000 0 = .ok (.gjoin h1 1 0) ∧ decodeWords 0x4DC04000 0 = .ok (.gleave h1 1 0) ∧
    decodeWords 0x4DE04000 0 = .ok (.gbar h1 1 0) ∧ decodeWords 0x4E048081 0 = .ok (.gvote h1 1 2 1 1) ∧ decodeWords 0x4E204004 0 = .ok (.gred h1 1 0 4 0) ∧
    decodeWords 0x4E404000 0 = .ok (.ginfo h1 1 0) ∧ decodeWords 0x4E604000 0 = .ok (.gdel h1 1 0) ∧ decodeWords 0x4E80C100 0 = .ok (.h2s h1 3 2) ∧
    decodeWords 0x4EA08180 0 = .ok (.s2h h1 2 3 0) :=
  ⟨rfl, rfl, rfl, rfl, rfl, rfl, rfl, rfl, rfl, rfl⟩

theorem test_words_queues :
    decodeWords 0x4EC04108 0 = .ok (.qenq h1 1 2 8) ∧ decodeWords 0x4EE04108 0 = .ok (.qdeq h1 1 2 8) ∧ decodeWords 0x4F004108 0 = .ok (.qsteal h1 1 2 8) ∧
    decodeWords 0x4F205F80 0 = .ok (.tdone h1 1 63) ∧ decodeWords 0x4F404200 0 = .ok (.tfull h1 1 4) ∧ decodeWords 0x4F604200 0 = .ok (.tempty h1 1 4) ∧
    decodeWords 0x4F804200 0 = .ok (.tstat h1 1 4) ∧ decodeWords 0x4FA04188 0 = .ok (.chapp h1 1 3 8) ∧ decodeWords 0x4FC00180 0 = .ok (.chadv h1 3) ∧
    decodeWords 0x4FE08180 0 = .ok (.chseq h1 2 3) :=
  ⟨rfl, rfl, rfl, rfl, rfl, rfl, rfl, rfl, rfl, rfl⟩


/-- Words laid out field by field from the tables of the entries are the words that those entries print. -/
theorem test_word_fields :
    word 0b0010000 4 5 6 = 0x42010286 ∧ word 0b0100000 4 5 6 = 0x44010286 ∧ word 0b0101000 4 5 0b0010010 = 0x45010292 ∧ word 0b0101101 1 2 3 = 0x45A04103 ∧
    word 0b0110011 4 5 6 = 0x46610286 ∧ word 0b0111100 1 2 3 = 0x47804103 ∧ word 0b1001001 1 4 1 = 0x49204201 ∧ word 0b1010000 6 2 1 = 0x4A018101 ∧
    word 0b1011000 3 4 0 = 0x4B00C200 ∧ word 0b1100000 1 2 0 = 0x4C004100 ∧ word 0b1100110 0 1 2 = 0x4CC00082 ∧ word 0b1101111 1 0 0 = 0x4DE04000 ∧
    word 0b1110110 1 2 8 = 0x4EC04108 ∧ word 0b0000010 0b0000001 2 0 = 0x40404100 := by decide

/-- R123's fields: A and D vector registers, B the window, its bit 6 the direction. -/
theorem test_words_acvt : decodeWords (word 0x4D 4 2 0b1000001) 0 = .ok (.acvt h1 true 1 4 2) ∧ decodeWords (word 0x17 7 7 10) 0 = .ok (.and h1 7 7 10) := ⟨rfl, rfl⟩

/-- R36, R37, R58: VER 3, an opcode outside the table, an operand that the row wants zero, and SCH kept as it is written. -/
theorem test_words_refused : decodeWords 0xC2010286 0 = .error .version ∧ (decodeWords (word 1 0 0 1) 0).toOption = none ∧ (decodeWords (word 0x0F 0 1 0) 0).toOption = none ∧
    decodeWords 0x12010286 0 = .ok (.iadd ⟨.v0, 1⟩ 4 5 6) := ⟨rfl, rfl, rfl, rfl⟩

/-- R36: words lie little-endian, and a K-format instruction takes two. -/
theorem test_decode_bytes : decode [0x86, 0x02, 0x01, 0x42] = .ok (.iadd h1 4 5 6, []) ∧
    decode [0x00, 0xC0, 0x40, 0x45, 0x00, 0x00, 0xDC, 0x42] = .ok (.movk h1 3 0x42DC0000, []) := ⟨rfl, rfl⟩

/-- Lane l of vector register r. -/
def reg (st : Stand) (r l : Nat) : Word := SMap.get 0 st.vregs (32 * r + l)

/-! ## The first step after reset with a program placed -/

/-- R36: the path goes on one word after an R-format word and two after a K-format one. -/
theorem test_step_placed :
    (match step (State.reset.withFetchWord 32 0x42010286) with | .next t => ((t.stand 0).path 0).pc.toNat | _ => 0) = 17 ∧
    (match step (State.reset.withFetchWord 64 0x42DC00004540C000) with | .next t => (((t.stand 0).path 0).pc.toNat, reg (t.stand 0) 3 0) | _ => (0, 0)) = (18, 0x42DC0000) ∧
    decodeTableWord 32 0x42010286 = some (.iadd h1 4 5 6) := by decide +kernel

/-! ## One instruction each

Lane 0 of v4, v5 and v6 under an ET; the values are those that the entries of spec/20 to 22 work out. -/

/-- What an instruction leaves in lane 0 of v4, and the flags. -/
def lane0 (i : Instr) (et : Word) (d a b : Word) : Word × BitVec 4 :=
  match exec i (mk { one 1 with mode := et, vregs := [(128, d), (160, a), (192, b)] }) with
  | .next t => (reg (t.stand 0) 4 0, (t.stand 0).flags)
  | _ => (0, 0)

/-- R338: I8 sign-fills, U8 wraps. -/
theorem test_iadd : lane0 (.iadd h1 4 5 6) 9 0 0x1234567F 1 = (0xFFFFFF80, 0) ∧ lane0 (.iadd h1 4 5 6) 13 0 0xFF 1 = (0, 0) := by decide +kernel

theorem test_imul : lane0 (.imul h1 4 5 6) 9 0 0x80 3 = (0xFFFFFF80, 0) ∧ lane0 (.imul h1 4 5 6) 8 0 0x8000 0x8000 = (0, 0) := by decide +kernel

theorem test_imulh : lane0 (.imulh h1 4 5 6) 9 0 0x80 3 = (0xFFFFFFFE, 0) ∧ lane0 (.imulh h1 4 5 6) 11 0 0xFFFFFFFF 0xFFFFFFFF = (0xFFFFFFFE, 0) := by decide +kernel

theorem test_imin_imax : lane0 (.imin h1 4 5 6) 7 0 0xFFFFFFFF 1 = (0xFFFFFFFF, 0) ∧ lane0 (.imax h1 4 5 6) 9 0 0x80 3 = (3, 0) := by decide +kernel

/-- R341. -/
theorem test_imad : lane0 (.imad h1 4 5 6) 8 5 0x100 0x100 = (5, 0) := by decide +kernel

/-- R340: the bytes' sign is `mode.ET`'s. -/
theorem test_idp4 : lane0 (.idp4 h1 4 5 6) 9 0xA 0xFF017F80 0x02020202 = (8, 0) ∧ lane0 (.idp4 h1 4 5 6) 13 0xA 0xFF017F80 0x02020202 = (0x408, 0) := by decide +kernel

/-- R339: only the literal's low bits. -/
theorem test_iaddk : lane0 (.iaddk h1 4 5 0x101) 13 0 5 0 = (6, 0) := by decide +kernel

/-- R333. -/
theorem test_fdp2 : lane0 (.fdp2 h1 4 5 6) 3 0x3F800000 0x40003F80 0x40404040 = (0x41200000, 0) := by decide +kernel

/-- R334: one rounding, and two. -/
theorem test_ffma : lane0 (.ffma h1 4 5 6) 1 0xBF800000 0x3F800800 0x3F800800 = (0x3A000400, 0) := by decide +kernel

theorem test_fmul : lane0 (.fmul h1 4 5 6) 1 0 0x3F800800 0x3F800800 = (0x3F801000, 8) := by decide +kernel

/-- R332. -/
theorem test_frcp_fsqrt : lane0 (.frcp h1 4 5) 1 0 0x40800000 0 = (0x3E800000, 0) ∧ lane0 (.fsqrt h1 4 5) 1 0 0x40000000 0 = (0x3FB504F3, 8) := by decide +kernel

theorem test_frsq : lane0 (.frsq h1 4 5) 1 0 0x40000000 0 = (0x3F3504F3, 8) := by decide +kernel

/-- R104 to R106: I8 from FP32 under RNA. -/
theorem test_cvt : lane0 (.cvt h1 1 4 5) 0x89 0 0xC0200000 0 = (0xFFFFFFFD, 8) ∧ lane0 (.cvt h1 1 4 5) 0x89 0 0x43480000 0 = (0x7F, 0xA) := by decide +kernel

/-- The entry of BREV, and R298. -/
theorem test_brev_lrank : lane0 (.brev h1 4 5) 0 0 1 0 = (0x80000000, 0) ∧
    (match exec (.lrank h1 4 5) (mk { one 0x40 with vregs := [(166, 0x44444444)] }) with | .next t => reg (t.stand 0) 4 6 | _ => 0) = 1 := by decide +kernel

/-- R299's walk (spec/17): exclusive sums. -/
theorem test_lpfx :
    (match exec (.lpfx h1 16 16 true) (mk { one 0xFFFFFFFF with mode := 11, vregs := [(512, 24), (516, 16), (519, 8), (528, 16)] }) with
      | .next t => [0, 1, 4, 5, 7, 8, 16, 17].map (reg (t.stand 0) 16) | _ => []) = [0, 24, 24, 40, 40, 48, 48, 64] := by decide +kernel

/-- What holds of the state after an instruction. -/
def after (i : Instr) (s : State) (f : State → Bool) : Bool :=
  match exec i s with
  | .next t => f t
  | _ => false

/-- The state, PC, join target, mask and AUX of a path-table entry. -/
def pathEntry (p : Path) : PState × Nat × Nat × Mask × Mask := (p.state, p.pc.toNat, p.jt.toNat, p.mask, p.aux)

/-- R18's example: BRA at PC 0x40 with p1 in lanes 0 to 9. -/
theorem test_bra_split :
    after (.bra h1 false 1 0x10 0x20) (mk { one 0xFFFFFFFF with paths := [(0, Path.start 0 0x40 0xFFFFFFFF 0)], preds := [(1, 0x3FF)] }) (fun t =>
      (pathEntry ((t.stand 0).path 0)).1 == .record && (pathEntry ((t.stand 0).path 0)).2.2 == (0x60, 0xFFFFFFFF, 0) &&
        pathEntry ((t.stand 0).path 1) == (.active, 0x50, 0, 0x3FF, 0) && pathEntry ((t.stand 0).path 2) == (.active, 0x42, 0, 0xFFFFFC00, 0)) = true := by decide +kernel

/-- The example of PAND's entry: `pand em, em, p3`, then `por em, em, pt`. -/
theorem test_pand_em :
    (match exec (.pand h1 16 16 3) (mk { one 0xFF with preds := [(3, 0xF)] }) with
      | .next t => match exec (.por h1 16 16 15) t with
        | .next u => ((t.stand 0).dis, (u.stand 0).dis) | _ => (0, 0)
      | _ => (0, 0)) = (0xF0, 0xF0) := by decide +kernel

/-- A launch whose kernel has its handler 24 words past the header and enables the causes `en`. -/
def handled (en : Word) : Launch := { ctx := 1, kernel := { Place.kernel with trapoff := 24, trapen := en }, left := 1 }

/-- R255, R256, R258: TRAP of code 5 raises SOFT with its scalar; the stand is in its handler. -/
theorem test_trap :
    after (.trap h1 3 5) { mk { one 1 with sregs := [(3, 0x77)] } with launches := [(1, handled 0x10000)] } (fun t =>
      decide ((t.stand 0).tcause = 0x50010 ∧ (t.stand 0).tval = 0x77 ∧ (t.stand 0).tepc = 16 ∧ (t.stand 0).tmask = 1 ∧
        ((t.stand 0).path 0).pc = 24 ∧ (t.stand 0).inHandler = some 0)) = true := by decide +kernel

/-- R256: with its cause not enabled it is a fatal machine check, which stops the context's stands. -/
theorem test_trap_fatal :
    after (.trap h1 3 5) { mk { one 1 with sregs := [(3, 0x77)] } with launches := [(1, handled 0xFFFF)] } (fun t => t.stands == []) = true := by decide +kernel

/-- R258: ERET gives `mode` back from `tcause` and goes to `tepc`. -/
theorem test_eret :
    after (.eret h1) (mk { one 1 with inHandler := some 0, tcause := 0x700050010, tepc := 17 }) (fun t =>
      decide ((t.stand 0).mode = 7 ∧ ((t.stand 0).path 0).pc = 17 ∧ (t.stand 0).inHandler = none)) = true := by decide +kernel

/-- R258: outside a handler ERET raises ILLEGAL with its word. -/
theorem test_eret_outside :
    after (.eret h1) { mk (one 1) with launches := [(1, handled 0xFFFFFFFF)] } (fun t =>
      decide ((t.stand 0).tcause % 64 = 1 ∧ (t.stand 0).tval = 0x41800000)) = true := by decide +kernel

/-- R297's walk (spec/17): the lanes that share lane 6's value, and their number. -/
theorem test_lmatch_popc :
    after (.lmatch h1 5 7) (mk { one 0xFFFFFFFF with vregs := (List.range 8).map fun k => (32 * 7 + 4 * k + 2, 0x25) }) (fun t =>
      reg (t.stand 0) 5 6 == 0x44444444 && reg (t.stand 0) 5 5 == 0xBBBBBBBB) = true ∧
    lane0 (.popc h1 4 5) 0 0 0x44444444 0 = (8, 0) := by decide +kernel

/-- R46: a mask of ET alone leaves the other fields, and a trap leaves them all. -/
theorem test_mode :
    after (.mode h1 1 0x7) (mk { one 1 with mode := 0x0189 }) (fun t => (t.stand 0).mode == 0x0187) = true ∧
    after (.mode h1 3 0xA7) { mk { one 1 with mode := 0x0189 } with launches := [(1, handled 0xFFFFFFFF)] } (fun t =>
      (t.stand 0).mode == 0x0189 && (t.stand 0).tcause == 0x18900000002 && (t.stand 0).tval == 0xA7) = true := by decide +kernel

/-- R351: MOVK writes all 32 bits whatever ET says; IADDK of `vz` fills (R339). -/
theorem test_movk : lane0 (.movk h1 4 0x42DC0000) 9 0 0 0 = (0x42DC0000, 0) ∧ lane0 (.iaddk h1 4 127 0x80) 9 0 0 0 = (0xFFFFFF80, 0) := by decide +kernel

end Sys2Proof.Tests
end

section
/-! O10. What a CSRW leaves in the stand (R5, R321), field by field, and what its commitment keeps. -/

namespace Sys2Proof.Machine

/-! ### The stand after a CSRW -/

/-- `t` is the stand `st` after a CSRW of `x` to the CSR of number `n`: the field that the number names has taken the bits that are RW and lost those that
are W1C and set in `x`; every other field of R322's map is as it was (R5, R321). -/
structure Stand.CsrWritten (st t : Stand) (n : Nat) (x : DWord) : Prop where
  flags : t.flags = if n = 0x001 then x.setWidth 4 else st.flags
  taskrec : t.taskrec = if n = 0x019 then x else st.taskrec
  vxTrap : t.vxTrap = if n = 0x036 then x.getLsbD 0 else st.vxTrap
  stalled : t.stalled = (st.stalled && !(decide (n = 0x036) && x.getLsbD 1))
  hopeless : t.hopeless = (st.hopeless && !(decide (n = 0x036) && x.getLsbD 2))
  accref : t.accref = if n = 0x040 then lo32 x else st.accref
  scloff : t.scloff = if n = 0x070 then lo32 x else st.scloff
  tcause : t.tcause = if n = 0x100 then mergeBits st.tcause x 0xFFFFFFFF00000200#64 else st.tcause
  tepc : t.tepc = if n = 0x101 then mergeBits st.tepc x 0x1FFFF#64 else st.tepc
  tval : t.tval = if n = 0x102 then x else st.tval
  tmask : t.tmask = if n = 0x103 then mergeBits st.tmask x 0xFFFFFFFF#64 else st.tmask
  tscratch : t.tscratch = if n = 0x105 then x else st.tscratch

/-- One case for each CSR with writable bits, and one for all others. -/
theorem csrWrite_written (st : Stand) (n : Nat) (x : DWord) : st.CsrWritten (st.csrWrite n x) n x := by
  unfold Stand.csrWrite
  split
  all_goals constructor <;> simp_all

theorem csrWrite_rest (st : Stand) (n : Nat) (x : DWord) : Rule.csrRest (st.csrWrite n x) = Rule.csrRest st := by
  unfold Stand.csrWrite; split <;> rfl

/-- A bit of a merged dword is the new one where the mask is set. -/
theorem getLsbD_mergeBits (old new m : DWord) {k : Nat} (hk : k < 64) :
    (mergeBits old new m).getLsbD k = if m.getLsbD k then new.getLsbD k else old.getLsbD k := by
  rw [BitVec.getLsbD_eq_getElem hk]
  cases h : m[k] <;> simp [mergeBits, h, hk]

/-- The writable bits of `tcause`: its upper half and bit 9 (R255). -/
theorem getLsbD_tcauseMask : ∀ k, k < 64 → (0xFFFFFFFF00000200#64).getLsbD k = decide (32 ≤ k ∨ k = 9) := by decide
/-- Those of `tepc`, a word address of 17 bits. -/
theorem getLsbD_tepcMask : ∀ k, k < 64 → (0x1FFFF#64).getLsbD k = decide (k < 17) := by decide
/-- Those of `tmask`, one for each lane. -/
theorem getLsbD_tmaskMask : ∀ k, k < 64 → (0xFFFFFFFF#64).getLsbD k = decide (k < 32) := by decide

/-- A write under a mask, bit by bit. -/
theorem getLsbD_written {old new m : DWord} {k : Nat} (hk : k < 64) (c p : Prop) [Decidable c] [Decidable p] (hm : m.getLsbD k = decide p) :
    (if c then mergeBits old new m else old).getLsbD k = if c ∧ p then new.getLsbD k else old.getLsbD k := by
  by_cases hc : c <;> simp [hc, getLsbD_mergeBits old new m hk, hm]

/-! ### Its commitment -/

/-- Commitment changes the path table and the counts that go with it, and no other field of a stand. -/
theorem committed_fields (i : Instr) (s : State) (st : Stand) :
    ∃ ps rc lr rg rp, committed i s st = { st with paths := ps, retcnt := rc, lastRet := lr, region := rg, replays := rp } := by
  unfold committed
  split <;> exact ⟨_, _, _, _, _, rfl⟩

theorem csrRest_committed (i : Instr) (s : State) (st : Stand) : Rule.csrRest (committed i s st) = Rule.csrRest st := by
  obtain ⟨ps, rc, lr, rg, rp, h⟩ := committed_fields i s st
  rw [h]; rfl

/-- A commitment on top of a CSRW. -/
theorem csrWritten_committed {s : State} {st : Stand} {n : Nat} {x : DWord} (i : Instr) (h : s.me.CsrWritten st n x) :
    s.me.CsrWritten (committed i s st) n x := by
  obtain ⟨ps, rc, lr, rg, rp, hc⟩ := committed_fields i s st
  rw [hc]
  exact ⟨h.flags, h.taskrec, h.vxTrap, h.stalled, h.hopeless, h.accref, h.scloff, h.tcause, h.tepc, h.tval, h.tmask, h.tscratch⟩

/-- A CSRW and the commitment of its instruction write different fields. -/
theorem committed_csrWrite (i : Instr) (s : State) (st : Stand) (n : Nat) (x : DWord) :
    committed i s (st.csrWrite n x) = (committed i s st).csrWrite n x := by
  unfold committed Stand.csrWrite
  split <;> split <;> rfl

/-- The path advances whatever a CSRW has written: it writes no field that a commitment reads. -/
theorem advances_csrWrite (i : Instr) (s : State) (n : Nat) (x : DWord) :
    Advances s (s.setStand s.cur.st (committed i s (s.me.csrWrite n x))) (s.nextPc i) := by
  have hf : ∀ c : Stand, (c.csrWrite n x).paths = c.paths ∧ (c.csrWrite n x).retcnt = c.retcnt ∧ (c.csrWrite n x).lastRet = c.lastRet ∧
      (c.csrWrite n x).region = c.region ∧ (c.csrWrite n x).replays = c.replays := by
    intro c; unfold Stand.csrWrite; split <;> exact ⟨rfl, rfl, rfl, rfl, rfl⟩
  obtain ⟨hp, hr, hl, hg, hq⟩ := hf (committed i s s.me)
  obtain ⟨⟨hcur, hret, hlast, hreg, hrep⟩, hgoes, hstays, hpaths⟩ := (regStep_committed i s s.me (.refl _)).advance
  simp only [me_setStand, myPath_setStand, Stand.path] at hret hlast hreg hrep hgoes hstays hpaths
  rw [committed_csrWrite]
  constructor
  · constructor <;> simpa only [me_setStand, hr, hl, hg, hq]
  all_goals simpa only [me_setStand, myPath_setStand, Stand.path, hp]

/-- A CSR's number as the instruction holds it. -/
theorem csrNumber_eq (n : BitVec 14) {k : Nat} (hk : k < 2 ^ 14) : n.toNat = k ↔ n = BitVec.ofNat 14 k := by
  rw [← BitVec.toNat_inj, BitVec.toNat_ofNat, Nat.mod_eq_of_lt hk]

/-- A CSRW of a number that names a CSR writes it and commits (R321). -/
theorem exec_csrw_commits {h : Hdr} {d : SReg} {n : BitVec 14} {s : State} (hp : Passes (.csrw h d n) s)
    (hn : (s.csr (s.env (.csrw h d n)) n.toNat).isSome = true) :
    exec (.csrw h d n) s = .next (s.setStand s.cur.st (committed (.csrw h d n) s (s.me.csrWrite n.toNat (s.me.sreg d)))) := by
  obtain ⟨v, hv⟩ := Option.isSome_iff_exists.1 hn
  rw [exec_csrw, execCsrw, gate_passes hp]
  simp only [hv, env_key, env_st, env_s]
  exact commit_setStand _ _ _

end Sys2Proof.Machine

namespace Sys2Proof
open Machine

/-- Settles O10: CSRW is `Stand.csrWrite` and a commitment, and these write different fields. -/
theorem csrWrites : Obligations.CsrWrites := by
  unfold Obligations.CsrWrites
  intro h d n s hp hn
  have hw := csrWritten_committed (.csrw h d n) (csrWrite_written s.me n.toNat (s.me.sreg d))
  have hno : ∀ k, k < 2 ^ 14 → (n.toNat = k ↔ n = BitVec.ofNat 14 k) := fun k hk => csrNumber_eq n hk
  refine ⟨_, exec_csrw_commits hp hn, advances_csrWrite _ s _ _, onlyMe_setStand s _, ?_⟩
  simp only [me_setStand]
  refine ⟨by rw [csrRest_committed, csrWrite_rest], ?_, ?_, ?_, ?_, ?_, ?_, ?_, fun k hk => ?_, fun k hk => ?_, ?_, fun k hk => ?_, ?_⟩
  · rw [hw.flags, BitVec.setWidth_eq_extractLsb' (by decide)]; simp [hno]
  · rw [hw.taskrec]; simp [hno]
  · rw [hw.vxTrap]; simp [hno]
  · rw [hw.stalled]; simp [hno, Bool.and_comm]
  · rw [hw.hopeless]; simp [hno, Bool.and_comm]
  · rw [hw.accref, lo32, BitVec.setWidth_eq_extractLsb' (by decide)]; simp [hno]
  · rw [hw.scloff, lo32, BitVec.setWidth_eq_extractLsb' (by decide)]; simp [hno]
  · rw [hw.tcause, getLsbD_written hk _ _ (getLsbD_tcauseMask k hk)]; simp [hno]
  · rw [hw.tepc, getLsbD_written hk _ _ (getLsbD_tepcMask k hk)]; simp [hno]
  · rw [hw.tval]; simp [hno]
  · rw [hw.tmask, getLsbD_written hk _ _ (getLsbD_tmaskMask k hk)]; simp [hno]
  · rw [hw.tscratch]; simp [hno]

end Sys2Proof
end

section
/-! O59: every step keeps the canonical form of memory. One lemma for every function of the model through which a state passes, in the order of the
model: `memOk_f` for a state that `f` gives (or the state of a pair), `optOk_f` for one that it may give, `outOk_f` for the states that an answer goes
on with. Memory is written in three places: `State.putHome`, `State.zeroRange` and the list that `State.writeList` clears; what only changes other
fields is covered by `memOk_upd`. -/

namespace Sys2Proof.Machine

/-- A state that differs from `u` in any other field has memory in its form where `u` has. -/
theorem memOk_upd
    {power firmware measured devid poison full live badFrames ctxs ifs dies copses cores homes launches groves stands gens groups
    queues chains endpoints qdrop outs ahead pubs enqs fab sent cur turn nextId agenda} {u : State} (h : u.MemOk) :
    (State.mk power firmware measured devid u.mem poison full live badFrames ctxs ifs dies copses cores homes launches groves stands gens groups
      queues chains endpoints qdrop outs ahead pubs enqs fab sent cur turn nextId agenda).MemOk :=
  h

/-- An answer that goes on leaves memory in its canonical form. -/
def OutOk (r : Out?) : Prop := ∀ t, r = .next t → t.MemOk

/-- So does an event that is due. -/
def OptOk (r : Option State) : Prop := ∀ t, r = some t → t.MemOk

/-! ### Answers and due events -/

theorem outOk_next {t : State} (h : t.MemOk) : OutOk (.next t) := by rintro _ ⟨⟩; exact h

theorem outOk_fault {f : Fault} : OutOk (.fault f) := nofun

theorem outOk_refused {r : Refusal} : OutOk (.refused r) := nofun

theorem optOk_none : OptOk none := nofun

theorem optOk_some {t : State} (h : t.MemOk) : OptOk (some t) := by rintro _ ⟨⟩; exact h

theorem optOk_due {c : Bool} {f : Option State} (hf : OptOk f) : OptOk (due c f) := by
  unfold due; split
  · exact hf
  · exact optOk_none

theorem optOk_map {α : Type} {f : α → State} {x : Option α} (hf : ∀ a, (f a).MemOk) : OptOk (x.map f) := by
  cases x with
  | none => exact optOk_none
  | some a => exact optOk_some (hf a)

theorem optOk_bind {α : Type} {f : α → Option State} {x : Option α} (hf : ∀ a, OptOk (f a)) : OptOk (x.bind f) := by
  cases x with
  | none => exact optOk_none
  | some a => exact hf a

theorem optOk_mapState {f : State → State} {x : Option State} (hx : OptOk x) (hf : ∀ u, u.MemOk → (f u).MemOk) : OptOk (x.map f) := by
  cases x with
  | none => exact optOk_none
  | some a => exact optOk_some (hf a (hx a rfl))

theorem optOk_bindState {f : State → Option State} {x : Option State} (hx : OptOk x) (hf : ∀ u, u.MemOk → OptOk (f u)) : OptOk (x.bind f) := by
  cases x with
  | none => exact optOk_none
  | some a => exact hf a (hx a rfl)

theorem outOk_event {s : State} {f : Option State} (h : s.MemOk) (hf : OptOk f) : OutOk (event s f) := by
  cases f with
  | none => exact outOk_next h
  | some t => exact outOk_next (hf t rfl)

theorem optOk_findSome {α : Type} {f : α → Option State} {l : List α} (hf : ∀ a, OptOk (f a)) : OptOk (l.findSome? f) := by
  intro t ht
  obtain ⟨a, _, ha⟩ := List.exists_of_findSome?_eq_some ht
  exact hf a t ha

theorem optOk_through {s : State} {op : Nat} {o : Out} {hold : Bool} {f : State → Option State} (h : s.MemOk)
    (hf : ∀ u, u.MemOk → OptOk (f u)) : OptOk (s.through op o hold f) :=
  fun _ ht => State.through_memOk ht h fun u v hu hv => hf u (memOk_of_mem h hu) v hv

/-! ### What a match binds: the state of a pair, of an event that is due, of an answer that goes on -/

theorem memOk_fst {α : Type} {p : State × α} {u : State} {x : α} (e : p = (u, x)) (h : p.1.MemOk) : u.MemOk := by subst e; exact h

/-- The state of a pair that is written out: without it the kernel compares the pair with the state by unfolding both. -/
theorem memOk_pair {α : Type} {s : State} {x : α} (h : s.MemOk) : (s, x).1.MemOk := h

theorem memOk_of_some {r : Option State} {t : State} (e : r = some t) (h : OptOk r) : t.MemOk := h t e

theorem memOk_of_next {r : Out?} {t : State} (e : r = .next t) (h : OutOk r) : t.MemOk := h t e

/-! ### Folds and branches -/

theorem memOk_fold {α : Type} {f : State → α → State} {l : List α} {s : State} (hf : ∀ u x, u.MemOk → (f u x).MemOk) (h : s.MemOk) :
    (l.foldl f s).MemOk :=
  memOk_foldl f hf l h

theorem memOk_getD {x : Option State} {s : State} (hx : OptOk x) (h : s.MemOk) : (x.getD s).MemOk := by
  cases x with
  | none => exact h
  | some t => exact hx t rfl

theorem memOk_foldl_fst {α β : Type} {f : State × β → α → State × β} {l : List α} {p : State × β}
    (hf : ∀ q x, q.1.MemOk → (f q x).1.MemOk) (h : p.1.MemOk) : (l.foldl f p).1.MemOk := by
  induction l generalizing p with
  | nil => exact h
  | cons x l ih => exact ih (hf p x h)

theorem memOk_ite {c : Prop} [Decidable c] {s t : State} (hs : s.MemOk) (ht : t.MemOk) : (if c then s else t).MemOk := by
  split
  · exact hs
  · exact ht

theorem outOk_ite {c : Prop} [Decidable c] {a b : Out?} (ha : OutOk a) (hb : OutOk b) : OutOk (if c then a else b) := by
  split
  · exact ha
  · exact hb

/-! ### Access -/

theorem memOk_setCore {s : State} {k : Nat} {c : Core} (h : s.MemOk) : (s.setCore k c).MemOk := h

theorem memOk_setCtx {s : State} {c : Nat} {x : Ctx} (h : s.MemOk) : (s.setCtx c x).MemOk := h

theorem memOk_setHome {s : State} {x1 : Nat} {x : Home} (h : s.MemOk) : (s.setHome x1 x).MemOk := h

theorem memOk_modHome {s : State} {x1 : Nat} {f : Home → Home} (h : s.MemOk) : (s.modHome x1 f).MemOk := memOk_setHome h

theorem memOk_setIface {s : State} {i : Nat} {x : TenantIf} (h : s.MemOk) : (s.setIface i x).MemOk := h

theorem memOk_setStand {s : State} {k : Nat} {x : Stand} (h : s.MemOk) : (s.setStand k x).MemOk := h

theorem memOk_modStand? {s : State} {k : Nat} {f : Stand → Stand} (h : s.MemOk) : (s.modStand? k f).MemOk := h

theorem memOk_setGrove {s : State} {g : Nat} {x : Grove} (h : s.MemOk) : (s.setGrove g x).MemOk := h

theorem memOk_modGrove {s : State} {g : Nat} {f : Grove → Grove} (h : s.MemOk) : (s.modGrove g f).MemOk := memOk_setGrove h

theorem memOk_setLaunch {s : State} {l : Nat} {x : Launch} (h : s.MemOk) : (s.setLaunch l x).MemOk := h

theorem memOk_modLaunch {s : State} {l : Nat} {f : Launch → Launch} (h : s.MemOk) : (s.modLaunch l f).MemOk := memOk_setLaunch h

theorem memOk_setOut {s : State} {i : Nat} {o : Out} (h : s.MemOk) : (s.setOut i o).MemOk := h

theorem memOk_dropOut {s : State} {i : Nat} (h : s.MemOk) : (s.dropOut i).MemOk := h

theorem memOk_bump {s : State} (h : s.MemOk) : s.bump.MemOk := h

theorem memOk_modSlot {s : State} {k c : Nat} {f : CtxSlot → CtxSlot} (h : s.MemOk) : (s.modSlot k c f).MemOk := memOk_of_mem h (modSlot_mem s k c f)

theorem memOk_modOwner {s : State} {o : Out} {f : Stand → Stand} (h : s.MemOk) : (s.modOwner o f).MemOk := by
  unfold State.modOwner
  split
  · exact h
  · exact memOk_modStand? h

theorem memOk_uncount {s : State} {o : Out} (h : s.MemOk) : (s.uncount o).MemOk := memOk_modOwner h

theorem memOk_reachCyc {s : State} {d c : Nat} (h : s.MemOk) : (s.reachCyc d c).MemOk := by
  unfold State.reachCyc
  split
  · exact memOk_modDie _ _ h
  · exact h

theorem memOk_wake {s : State} (h : s.MemOk) : s.wake.MemOk := h

/-! ### Vacate -/

theorem memOk_takeCharge {s : State} {key idx fixed b drawn : Nat} (h : s.MemOk) : (s.takeCharge key idx fixed b drawn).MemOk :=
  memOk_of_mem h (takeCharge_mem s key idx fixed b drawn)

theorem memOk_returnDrawn {s : State} {key c d : Nat} (h : s.MemOk) : (s.returnDrawn key c d).MemOk := memOk_of_mem h (s.returnDrawn_mem key c d)

theorem memOk_releaseFixed {s : State} {o : Out} (h : s.MemOk) : (s.releaseFixed o).MemOk := by
  unfold State.releaseFixed
  dsimp only
  split
  · exact h
  split
  · exact memOk_returnDrawn (memOk_modSlot h)
  · exact memOk_modSlot h

theorem memOk_growResident {s : State} {o : Out} (h : s.MemOk) : (s.growResident o).MemOk := by
  unfold State.growResident
  split
  · exact h
  · exact memOk_modStand? (memOk_modSlot h)

theorem memOk_growRefund {s : State} {o : Out} (h : s.MemOk) : (s.growRefund o).MemOk := by
  unfold State.growRefund
  split
  · exact h
  · exact memOk_returnDrawn (memOk_modSlot h)

theorem memOk_squashPath {s : State} {key idx : Nat} (h : s.MemOk) : (s.squashPath key idx).MemOk := memOk_of_mem h (s.squashPath_mem key idx)

theorem memOk_squashStand {s : State} {key : Nat} (h : s.MemOk) : (s.squashStand key).MemOk := memOk_fold (fun _ _ hv => memOk_squashPath hv) h

theorem memOk_shrink {s : State} {k c b : Nat} (h : s.MemOk) : (s.shrink k c b).MemOk := memOk_modSlot h

/-! ### Cache -/

theorem memOk_fillCopse {s : State} {cp pa : Nat} (h : s.MemOk) : (s.fillCopse cp pa).MemOk := by
  unfold State.fillCopse
  dsimp only
  split
  · exact h
  · exact memOk_modCopseLine _ _ _ (memOk_modCopseLine _ _ _ h)

theorem memOk_fillCore {s : State} {k pa : Nat} (h : s.MemOk) : (s.fillCore k pa).MemOk := by
  unfold State.fillCore
  dsimp only
  split
  · exact memOk_fillCopse h
  · exact memOk_modLine _ _ _ (memOk_modLine _ _ _ (memOk_fillCopse h))

theorem memOk_dropClean {s : State} {k sc pa : Nat} (h : s.MemOk) : (s.dropClean k sc pa).MemOk := by
  unfold State.dropClean
  dsimp only
  split
  · exact memOk_modCopseLine _ _ _ (memOk_modLine _ _ _ h)
  · exact memOk_modLine _ _ _ h

theorem memOk_storeCore {s : State} {k pa : Nat} {b : Byte} (h : s.MemOk) : (s.storeCore k pa b).MemOk := memOk_modLine _ _ _ h

theorem memOk_acquireCore {s : State} {k sc : Nat} (h : s.MemOk) : (s.acquireCore k sc).MemOk := by
  unfold State.acquireCore
  dsimp only
  split
  · exact memOk_setCopse _ _ (memOk_ite (memOk_modCore _ _ h) h)
  split
  · exact memOk_modCore _ _ h
  · exact h

theorem memOk_dropCopies {s : State} {pa n : Nat} (h : s.MemOk) : (s.dropCopies pa n).MemOk := h

theorem memOk_dropCopseCopies {s : State} {pa n : Nat} (h : s.MemOk) : (s.dropCopseCopies pa n).MemOk := h

theorem memOk_readFill {s : State} {k : Nat} {sc : Option Nat} {x1 : Place} (h : s.MemOk) : (s.readFill k sc x1).MemOk := by
  unfold State.readFill
  dsimp only
  split
  · exact h
  split
  · split
    · exact h
    · exact memOk_fillCore h
  · split
    · exact memOk_fillCopse (memOk_dropClean h)
    · exact memOk_dropClean h

theorem memOk_setPoison {s : State} {pa : Nat} {v : Bool} (h : s.MemOk) : (s.setPoison pa v).MemOk := h

theorem memOk_clearPoison {s : State} {pas : List Nat} (h : s.MemOk) : (s.clearPoison pas).MemOk := by
  unfold State.clearPoison
  split
  · exact h
  · exact memOk_fold (fun _ _ hu => memOk_setPoison hu) h

/-! ### Fabric -/

theorem memOk_injectFlits {s : State} {die c n : Nat} (h : s.MemOk) : (s.injectFlits die c n).MemOk := by
  unfold State.injectFlits
  split
  · exact h
  · exact memOk_modDie _ _ h

/-! ### Translate -/

theorem memOk_translate {s : State} {k c va : Nat} (h : s.MemOk) : (s.translate k c va).1.MemOk := by
  unfold State.translate
  dsimp only
  split
  · exact h
  split
  · exact memOk_pair (memOk_modCore _ _ h)
  split
  · exact h
  · exact memOk_pair (memOk_modCore _ _ (memOk_setCopse _ _ h))

theorem memOk_resolve {s : State} {key : Nat} {lane : Option Nat} {va : DWord} (h : s.MemOk) : (s.resolve key lane va).1.MemOk := by
  unfold State.resolve
  dsimp only
  split
  · exact memOk_pair (memOk_translate h)
  split
  · exact h
  split
  · exact h
  · split
    · exact h
    split
    · exact h
    split <;> exact h
  · split
    · exact h
    split <;> exact h
  · exact h

theorem memOk_resolveAll {s : State} {key : Nat} {sc : Bool} {nd : Need} {ask : List (Nat × DWord)} (h : s.MemOk) :
    (s.resolveAll key sc nd ask).1.MemOk := by
  induction ask generalizing s with
  | nil => exact h
  | cons x ask ih => exact ih (memOk_resolve h)

theorem memOk_access {s : State} {key : Nat} {sc : Bool} {nd : Need} {ls : List (Nat × DWord)} (h : s.MemOk) : (s.access key sc nd ls).1.MemOk :=
  memOk_resolveAll h

/-! ### Tiles -/

theorem memOk_report {s : State} {d : Nat} {r : MCheck} (h : s.MemOk) : (s.report d r).MemOk :=
  memOk_logError _ _ (memOk_tell _ (memOk_tell _ (memOk_modCtx _ _ h)))

theorem memOk_poisonTile {s : State} {rows : List Nat} (h : s.MemOk) : (s.poisonTile rows).MemOk :=
  memOk_fold (fun _ _ hv => memOk_fold (fun _ _ hw => memOk_setPoison hw) hv) h

theorem memOk_applyTile {s : State} {c : Nat} {t : Tile} {vals : SMap Word} {poisoned : Bool} (h : s.MemOk) :
    (s.applyTile c t vals poisoned).MemOk := by
  unfold State.applyTile
  dsimp only
  split
  · exact memOk_grouplineCheck _ _ _ h
  · exact memOk_fold (fun _ _ hu => memOk_dropCopseCopies hu) (memOk_ite (memOk_poisonTile h) (memOk_fold (fun _ _ hu => memOk_putWord _ _ hu) h))

theorem memOk_writeRow {s : State} {c k : Nat} {vals : SMap Word} {i row : Nat} (h : s.MemOk) : (s.writeRow c k vals i row).MemOk := by
  unfold State.writeRow
  split
  · exact memOk_grouplineCheck _ _ _ h
  refine memOk_dropCopseCopies (memOk_clearPoison (memOk_fold (fun _ _ hu => ?_) h))
  exact memOk_foldl_fst (fun _ _ hq => memOk_storePoc _ _ _ _ hq) hu

theorem memOk_writeRows {s : State} {c k : Nat} {vals : SMap Word} {i : Nat} {rows : List Nat} (h : s.MemOk) :
    (s.writeRows c k vals i rows).MemOk := by
  induction rows generalizing s i with
  | nil => exact h
  | cons r rows ih => exact ih (memOk_writeRow h)

theorem memOk_setTile {s : State} {op : Nat} {o : Out} {t : Tile} (h : s.MemOk) : (s.setTile op o t).MemOk := memOk_setOut h

theorem memOk_swapTile {s : State} {uid a b : Nat} (h : s.MemOk) : (s.swapTile uid a b).MemOk := h

theorem memOk_settleFlush {s : State} {op : Nat} (h : s.MemOk) : (s.settleFlush op).MemOk := by
  unfold State.settleFlush
  dsimp only
  refine memOk_fold (fun _ _ hu => ?_) h
  split
  · exact memOk_setOut hu
  · exact hu

theorem memOk_releaseFlushes {s : State} (h : s.MemOk) : s.releaseFlushes.MemOk := by
  unfold State.releaseFlushes
  refine memOk_fold (fun _ _ hu => ?_) h
  split
  · split
    · exact memOk_dropOut (memOk_releaseFixed hu)
    · exact hu
  · exact hu

theorem memOk_leaveDrain {s : State} {op : Nat} {o : Out} {t : Tile} (h : s.MemOk) : (s.leaveDrain op o t).MemOk :=
  memOk_settleFlush (memOk_setTile (memOk_ite (memOk_releaseFixed (memOk_modCore _ _ h)) (memOk_uncount (memOk_releaseFixed (memOk_modCore _ _ h)))))

theorem memOk_freeResidual {s : State} {o : Out} {slot : Nat} (h : s.MemOk) : (s.freeResidual o slot).MemOk := memOk_shrink (memOk_modOwner h)

theorem memOk_cancelOffer {s : State} {uid by_ : Nat} {x1 : Option Nat} (h : s.MemOk) : (s.cancelOffer uid by_ x1).MemOk := by
  unfold State.cancelOffer
  split
  · exact h
  split
  · exact h
  · exact memOk_settleFlush (memOk_dropOut (memOk_modHome (memOk_swapTile h)))

theorem memOk_payload {s : State} {op : Nat} {o : Out} {t : Tile} (h : s.MemOk) : (s.payload op o t).1.MemOk := by
  unfold State.payload
  dsimp only
  split
  · exact h
  split
  · split
    · exact memOk_pair (memOk_freeResidual h)
    · exact h
  · split
    · exact memOk_pair (memOk_cancelOffer (memOk_freeResidual h))
    · exact h

theorem memOk_sendTile {s : State} {op : Nat} {o : Out} {t : Tile} (h : s.MemOk) : (s.sendTile op o t).MemOk :=
  memOk_modHome (memOk_leaveDrain (memOk_ite (memOk_growRefund (memOk_payload h)) (memOk_payload h)))

theorem memOk_flushTile {s : State} {op : Nat} (h : s.MemOk) : (s.flushTile op).MemOk := by
  unfold State.flushTile
  split
  · split
    · split
      · exact h
      · exact memOk_setTile h
    · split
      · exact h
      · exact memOk_setTile h
    · exact h
  · exact h

theorem memOk_offerSlot {s : State} {key slot : Nat} {flush : Bool} (h : s.MemOk) : (s.offerSlot key slot flush).1.MemOk := by
  unfold State.offerSlot
  dsimp only
  split
  · exact h
  split
  · refine memOk_pair ?_
    split
    · exact memOk_flushTile h
    · exact h
  · exact memOk_pair (memOk_modStand _ _ (memOk_setOut (memOk_bump h)))

theorem memOk_flushSlots {s : State} {key : Nat} {l : List (Nat × Residual)} (h : s.MemOk) : (s.flushSlots key l).1.MemOk := by
  induction l generalizing s with
  | nil => exact h
  | cons x l ih => exact ih (memOk_offerSlot h)

theorem memOk_releaseFlush {s : State} {key sc : Nat} (h : s.MemOk) : (s.releaseFlush key sc).1.MemOk := memOk_flushSlots h

theorem memOk_flushAll {s : State} {key : Nat} (h : s.MemOk) : (s.flushAll key).MemOk :=
  memOk_fold (fun _ _ hw => memOk_flushTile hw) (memOk_flushSlots h)

theorem memOk_tileToSlot {s : State} {op : Nat} {o : Out} {t : Tile} {n : Nat} (h : s.MemOk) : (s.tileToSlot op o t n).MemOk := by
  unfold State.tileToSlot
  dsimp only
  refine memOk_dropOut ?_
  split
  · split
    · next e => exact memOk_swapTile (memOk_fst e (memOk_offerSlot (memOk_leaveDrain h)))
    next e =>
    exact memOk_fst e (memOk_offerSlot (memOk_leaveDrain h))
  · exact memOk_leaveDrain h

theorem memOk_refuseTile {s : State} {op : Nat} {o : Out} {t : Tile} (h : s.MemOk) : (s.refuseTile op o t).MemOk := by
  unfold State.refuseTile
  dsimp only
  split
  · exact memOk_setTile h
  split
  · exact memOk_tileToSlot (memOk_ite (memOk_growRefund (memOk_modStand _ _ h)) (memOk_modStand _ _ h))
  split
  · exact memOk_tileToSlot (memOk_growResident (memOk_modStand _ _ h))
  · exact memOk_setTile (memOk_ite (memOk_growRefund h) h)

theorem memOk_refuseSlot {s : State} {op : Nat} {o : Out} {t : Tile} {n : Nat} (h : s.MemOk) : (s.refuseSlot op o t n).MemOk := by
  unfold State.refuseSlot
  dsimp only
  split
  · exact memOk_dropOut h
  split
  · exact memOk_setTile h
  · exact memOk_modStand _ _ (memOk_dropOut h)

theorem memOk_carrySlot {s : State} {op : Nat} (h : s.MemOk) : (s.carrySlot op).MemOk := by
  unfold State.carrySlot
  split
  · exact h
  split
  · exact h
  split
  · split
    · exact memOk_setTile (memOk_freeResidual h)
    · exact h
  · exact h

theorem memOk_driveTile {s : State} {op : Nat} (h : s.MemOk) : (s.driveTile op).MemOk := by
  unfold State.driveTile
  split
  · exact h
  split
  · exact h
  split
  · exact memOk_leaveDrain h
  · exact memOk_sendTile (memOk_modHome h)

theorem memOk_driveTiles {s : State} {uid : Nat} (h : s.MemOk) : (s.driveTiles uid).MemOk :=
  memOk_fold (fun _ _ hu => memOk_driveTile hu) (memOk_fold (fun _ _ hu => memOk_carrySlot hu) h)

/-! ### Image -/

theorem memOk_bumpGen {s : State} {k : Nat} (h : s.MemOk) : (s.bumpGen k).MemOk := h

theorem memOk_storeBytes {s : State} {k pa : Nat} {bs : List Byte} (h : s.MemOk) : (s.storeBytes k pa bs).MemOk :=
  memOk_fold (fun _ _ hv => memOk_storeCore hv) h

theorem memOk_keepOver {s : State} {key : Nat} {old : SMap Path} (h : s.MemOk) : (s.keepOver key old).MemOk :=
  memOk_fold (fun _ _ hv => memOk_storeBytes hv) h

theorem memOk_writeList {s : State} {key : Nat} (h : s.MemOk) : (s.writeList key).MemOk := memOk_putHomes _ _ (SMap.wf_filter _ h)

theorem memOk_finishMma {s : State} {o : Out} (h : s.MemOk) : (s.finishMma o).MemOk := by
  unfold State.finishMma
  dsimp only
  split
  · exact memOk_modOwner h
  · exact h

theorem memOk_settleOuts {s : State} {slot0 n : Nat} {l : List (Nat × Out)} (h : s.MemOk) : (s.settleOuts slot0 n l).MemOk := by
  induction l generalizing s n with
  | nil => exact h
  | cons x l ih =>
    unfold State.settleOuts
    dsimp only
    split
    · exact ih h
    · exact ih h
    · exact ih h

theorem memOk_withdrawOffers {s : State} {uid : Nat} (h : s.MemOk) : (s.withdrawOffers uid).MemOk := by
  unfold State.withdrawOffers
  refine memOk_fold (fun _ _ hv => ?_) h
  split
  · split
    · exact memOk_modHome hv
    · exact hv
  · exact hv

theorem memOk_orphanLines {s : State} {key : Nat} (h : s.MemOk) : (s.orphanLines key).MemOk :=
  memOk_fold (fun _ _ hv => memOk_grouplineCheck _ _ _ hv) h

theorem memOk_wordHome {s : State} {k pa : Nat} (h : s.MemOk) : (s.wordHome k pa).MemOk := memOk_flushLine _ _ h

theorem memOk_wordDrop {s : State} {k pa : Nat} (h : s.MemOk) : (s.wordDrop k pa).MemOk := memOk_fold (fun _ _ hw => memOk_dropClean hw) h

theorem memOk_combineOut {s : State} {k : Nat} {e : Comb} (h : s.MemOk) : (s.combineOut k e).MemOk := by
  unfold State.combineOut
  dsimp only
  split
  · exact memOk_fold (fun _ _ hw => memOk_lostWrite _ _ hw) h
  split
  · exact h
  · exact memOk_wordDrop (memOk_putWord _ _ (memOk_wordHome h))

theorem memOk_combineDrain {s : State} {k : Nat} {f : Comb → Bool} (h : s.MemOk) : (s.combineDrain k f).MemOk :=
  memOk_modCore _ _ (memOk_fold (fun _ _ hv => memOk_combineOut hv) h)

theorem memOk_repay {s : State} {outs : List (Nat × Out)} (h : s.MemOk) : (s.repay outs).MemOk :=
  memOk_fold (fun _ _ hu => memOk_getD (optOk_map fun _ => memOk_returnDrawn hu) hu) h

theorem memOk_removeStand {s0 : State} {key : Nat} (h : s0.MemOk) : (s0.removeStand key).MemOk :=
  memOk_upd (memOk_modCore _ _ (memOk_modSlot (memOk_repay h)))

theorem memOk_publishFor {s : State} {k c : Nat} (h : s.MemOk) : (s.publishFor k c).MemOk := memOk_combineDrain (memOk_publishCore _ _ h)

theorem memOk_haltStand {s : State} {key reason : Nat} (h : s.MemOk) : (s.haltStand key reason).1.MemOk := by
  delta State.haltStand
  extract_lets st0 sp s0 outs src st k pa reps plies parts s1 s2
  have hp : sp.MemOk := memOk_publishFor (memOk_squashStand h)
  have h0 : s0.MemOk :=
    memOk_withdrawOffers (memOk_driveTiles (memOk_fold (fun _ _ hu => memOk_finishMma hu) (memOk_orphanLines hp)))
  have h1 : s1.MemOk := memOk_sealImage _ _ (memOk_putParts _ _ h0)
  exact memOk_pair (memOk_settleOuts (memOk_removeStand h1))

theorem memOk_haltStands {s : State} {reason : Nat} {ks : List Nat} (h : s.MemOk) : (s.haltStands reason ks).1.MemOk := by
  induction ks generalizing s with
  | nil => exact h
  | cons key ks ih =>
    simp only [State.haltStands]
    exact ih (memOk_haltStand h)

theorem memOk_removeGrove {s : State} {gid : Nat} (h : s.MemOk) : (s.removeGrove gid).MemOk := memOk_upd (memOk_shrink (memOk_modCore _ _ h))

theorem memOk_haltGrove {s : State} {gid reason : Nat} {onto : Option Nat} (h : s.MemOk) : (s.haltGrove gid reason onto).MemOk :=
  memOk_modCtx _ _ (memOk_removeGrove (memOk_putHomes _ _ (memOk_haltStands h)))

theorem memOk_freeSlot {s : State} {k c : Nat} (h : s.MemOk) : (s.freeSlot k c).MemOk := by
  unfold State.freeSlot
  dsimp only
  split
  · exact h
  · exact memOk_modCore _ _ h

theorem memOk_haltContext {s : State} {c reason : Nat} (h : s.MemOk) : (s.haltContext c reason).MemOk :=
  memOk_fold (fun _ _ hu => memOk_freeSlot hu) (memOk_fold (fun _ _ hu => memOk_publishFor hu) (memOk_fold (fun _ _ hu => memOk_haltGrove hu) h))

theorem memOk_fatal {s : State} {d : Nat} {r : MCheck} (h : s.MemOk) : (s.fatal d r).MemOk :=
  memOk_report (memOk_ite h (memOk_modCtx _ _ (memOk_haltContext h)))

/-! ### Ops -/

theorem outOk_wait {e : Env} {s : State} {w : Wait} (h : s.MemOk) : OutOk (e.wait s w) :=
  outOk_next (memOk_modStand _ _ (memOk_ite h (memOk_modSlot h)))

theorem memOk_leave {e : Env} {s : State} (h : s.MemOk) : (e.leave s).MemOk := by
  unfold Env.leave
  split
  · exact h
  · exact memOk_modStand _ _ h

theorem memOk_done {e : Env} {s : State} (h : s.MemOk) : (e.done s).MemOk := memOk_modStand _ _ h

theorem outOk_commit {e : Env} {s : State} (h : s.MemOk) : OutOk (e.commit s) := outOk_next (memOk_done (memOk_ite h (memOk_modStand _ _ h)))

theorem outOk_commitAt {e : Env} {s : State} (h : s.MemOk) : OutOk (e.commitAt s) := outOk_next (memOk_done h)

theorem outOk_moved {e : Env} {s : State} {st : Stand} (h : s.MemOk) : OutOk (e.moved s st) := by
  unfold Env.moved
  dsimp only
  split
  · exact outOk_next (memOk_fatal h)
  · exact outOk_commitAt (memOk_keepOver (memOk_setStand h))

theorem memOk_afterAcquire {s : State} {o : Out} (h : s.MemOk) : (s.afterAcquire o).MemOk := by
  unfold State.afterAcquire
  split
  · exact memOk_acquireCore h
  · exact h

theorem memOk_complete {s : State} {op : Nat} {o : Out} (h : s.MemOk) : (s.complete op o).MemOk :=
  memOk_afterAcquire (memOk_dropOut (memOk_modOwner (memOk_uncount (memOk_releaseFixed h))))

theorem memOk_settleLead {s : State} {op : Nat} (h : s.MemOk) : (s.settleLead op).MemOk := by
  unfold State.settleLead
  split
  · split
    · exact memOk_complete h
    · exact h
  · exact h

theorem memOk_finish {s : State} {op : Nat} {o : Out} (h : s.MemOk) : (s.finish op o).MemOk := by
  unfold State.finish
  dsimp only
  split
  · refine memOk_settleLead ?_
    split
    · exact memOk_setOut (memOk_afterAcquire (memOk_dropOut h))
    · exact memOk_afterAcquire (memOk_dropOut h)
  split
  · exact memOk_setOut h
  · exact memOk_complete h

theorem memOk_closeLead {s : State} {commits : Bool} {x1 : Option Nat} (h : s.MemOk) : (s.closeLead commits x1).MemOk := by
  unfold State.closeLead
  split
  · exact h
  split
  · exact memOk_settleLead (memOk_setOut h)
  · exact h

theorem memOk_enterHandler {s : State} {key idx : Nat} {oppc : BitVec 17} {rpl : Bool} {t : TrapRec} (h : s.MemOk) :
    (s.enterHandler key idx oppc rpl t).MemOk :=
  memOk_traceRec _ _ _ _ (memOk_closeLead (memOk_setStand (memOk_modSlot h)))

theorem memOk_takeTrap {s : State} {key idx : Nat} {oppc : BitVec 17} {rpl : Bool} {t : TrapRec} (h : s.MemOk) :
    (s.takeTrap key idx oppc rpl t).MemOk := by
  unfold State.takeTrap
  dsimp only
  split
  · exact memOk_modStand _ _ (memOk_ite (memOk_modStand _ _ h) h)
  split
  · exact memOk_fatal (memOk_ite (memOk_modStand _ _ h) h)
  split
  · exact memOk_fatal (memOk_ite (memOk_modStand _ _ h) h)
  · exact memOk_enterHandler (memOk_ite (memOk_modStand _ _ h) h)

theorem outOk_trapFor {e : Env} {s : State} {cause : Nat} {tval : DWord} {m : Mask} (h : s.MemOk) : OutOk (e.trapFor s cause tval m) :=
  outOk_next (memOk_takeTrap (memOk_leave h))

theorem outOk_raise {e : Env} {s : State} {cause : Nat} {tval : DWord} (h : s.MemOk) : OutOk (e.raise s cause tval) := outOk_trapFor h

theorem outOk_illegal {e : Env} {s : State} (h : s.MemOk) : OutOk (e.illegal s) := outOk_raise h

theorem outOk_illmode {e : Env} {s : State} (h : s.MemOk) : OutOk (e.illmode s) := outOk_raise h

theorem memOk_eret {e : Env} {s : State} (h : s.MemOk) : (e.eret s).MemOk := by
  unfold Env.eret
  dsimp only
  split
  · exact memOk_takeTrap (memOk_leave h)
  split
  · exact memOk_fatal (memOk_leave h)
  · exact memOk_setStand (memOk_done h)

theorem outOk_raiseDown {e : Env} {s : State} {a : Armed} (h : s.MemOk) : OutOk (e.raiseDown s a) :=
  outOk_next (memOk_takeTrap (memOk_leave (memOk_setStand h)))

/-- What `gate` does before the instruction itself, a trap or a wait, leaves memory; the rest is the instruction's (`hk`). -/
theorem outOk_gate {i : Instr} {s : State} {k : Env → State → Out?} (h : s.MemOk) (hk : ∀ (e : Env) (u : State), u.MemOk → OutOk (k e u)) :
    OutOk (gate i s k) := by
  unfold gate
  dsimp only
  split
  · exact outOk_illegal h
  split
  · exact outOk_raiseDown h
  split
  · exact outOk_trapFor h
  split
  · exact outOk_wait h
  · exact hk _ _ h

theorem outOk_plain {i : Instr} {s : State} {f : Env → Act} (h : s.MemOk) : OutOk (plain i s f) := by
  unfold plain
  refine outOk_gate h (fun _ _ hu => ?_)
  split
  · exact outOk_commit (memOk_setStand hu)
  · exact outOk_raise hu

theorem outOk_charge {e : Env} {s : State} {cls fixed b : Nat} {k : State → Nat → Out?} (h : s.MemOk)
    (hk : ∀ (u : State) (n : Nat), u.MemOk → OutOk (k u n)) :
    OutOk (e.charge s cls fixed b k) := by
  unfold Env.charge
  dsimp only
  split
  · exact hk _ _ (memOk_takeCharge h)
  · exact outOk_raise h
  · exact outOk_wait (memOk_modStand _ _ (memOk_modSlot h))

theorem memOk_issue {s : State} {o : Out} (h : s.MemOk) : (s.issue o).MemOk := memOk_modStand _ _ (memOk_setOut (memOk_bump h))

theorem outOk_issueOp {e : Env} {s : State} {cls vu grow : Nat} {ctr : Ctr} {lanes : Mask} {work : Work} {f : Out → Out} (h : s.MemOk) :
    OutOk (e.issueOp s cls vu grow ctr lanes work f) := by
  unfold Env.issueOp
  split
  · exact outOk_wait h
  · exact outOk_charge h (fun _ _ hv => outOk_commit (memOk_issue hv))

theorem memOk_holdOpen {s : State} {x1 : Option Nat} (h : s.MemOk) : (s.holdOpen x1).MemOk := by
  unfold State.holdOpen
  split
  · exact h
  split
  · exact memOk_setOut h
  · exact h

theorem outOk_park {e : Env} {s : State} {rest : Mask} {low : DWord} {op : Option Nat} (h : s.MemOk) : OutOk (e.park s rest low op) :=
  outOk_next (memOk_tell _ (memOk_modStand _ _ (memOk_holdOpen (memOk_modSlot (memOk_leave h)))))

/-! ### Flags -/

theorem outOk_laneOp {i : Instr} {s : State} {d : VReg} {f : Env → Nat → Word} (h : s.MemOk) : OutOk (laneOp i s d f) := outOk_plain h

theorem outOk_elemOp {i : Instr} {s : State} {d : VReg} {ok : Nat → Bool} {f : Env → Nat → Res} (h : s.MemOk) : OutOk (elemOp i s d ok f) :=
  outOk_plain h

/-! ### Order -/

theorem memOk_startRelease {s : State} {key sc : Nat} {reads : Bool} (h : s.MemOk) : (s.startRelease key sc reads).MemOk := by
  unfold State.startRelease
  dsimp only
  split
  · exact h
  · exact memOk_upd (memOk_bump (memOk_releaseFlush h))

theorem memOk_combineFor {s : State} {k : Nat} {ps : List Place} (h : s.MemOk) : (s.combineFor k ps).MemOk := by
  unfold State.combineFor
  split
  · exact h
  · exact memOk_combineDrain h

theorem outOk_unlessFailed {e : Env} {s : State} {read : Bool} {ps : List Place} {tabs : List Nat} {k : Out?} (h : s.MemOk) (hk : OutOk k) :
    OutOk (e.unlessFailed s read ps tabs k) := by
  unfold Env.unlessFailed
  split
  · exact outOk_raiseDown h
  · exact hk

theorem memOk_issueOrdered {e : Env} {s : State} {o : Out} (h : s.MemOk) : (e.issueOrdered s o).MemOk :=
  memOk_issue (memOk_ite (memOk_startRelease h) h)

/-! ### Mem -/

theorem outOk_issueAccess {e : Env} {s : State} {pl : Plan} {o : Nat → State → Out} {k : State → Nat → Out?} (h : s.MemOk)
    (hk : ∀ (u : State) (n : Nat), u.MemOk → OutOk (k u n)) :
    OutOk (e.issueAccess s pl o k) := by
  unfold Env.issueAccess
  dsimp only
  split
  · exact hk _ _ (memOk_ite (memOk_issueOrdered h) (memOk_issue h))
  · exact outOk_charge h (fun _ _ hw => hk _ _ (memOk_ite (memOk_issueOrdered hw) (memOk_issue hw)))

theorem outOk_access {e : Env} {s : State} {scalar : Bool} {nd : Need} {ask : List (Nat × DWord)} {pl : Plan} {w : Acc → Nat} {mk : List Acc → Work}
    {lanesOf : List Acc → Mask} {upd : List Acc → Stand → Stand} (h : s.MemOk) :
    OutOk (e.access s scalar nd ask pl w mk lanesOf upd) := by
  unfold Env.access
  dsimp only
  split
  · exact outOk_wait h
  split
  · next e =>
    have hv := memOk_fst e (memOk_access h)
    split <;> exact outOk_trapFor hv
  next e =>
  have hv := memOk_fst e (memOk_access h)
  split
  · exact outOk_park hv
  split
  · exact outOk_wait hv
  refine outOk_unlessFailed hv (outOk_issueAccess hv (fun _ _ hw => ?_))
  split
  · exact outOk_commit (memOk_closeLead (memOk_modStand _ _ hw))
  · exact outOk_park (memOk_modStand _ _ hw)

theorem outOk_execLd {hdr : Hdr} {d a : VReg} {b : SReg} {s : State} (h : s.MemOk) : OutOk (execLd hdr d a b s) := by
  unfold execLd
  refine outOk_gate h (fun _ _ hu => ?_)
  split
  · exact outOk_trapFor hu
  · exact outOk_access hu

theorem outOk_execSt {hdr : Hdr} {d a : VReg} {b : SReg} {s : State} (h : s.MemOk) : OutOk (execSt hdr d a b s) := by
  unfold execSt
  refine outOk_gate h (fun _ _ hu => ?_)
  split
  · exact outOk_trapFor hu
  · exact outOk_access hu

theorem memOk_prefLines {s : State} {key : Nat} {l : List (Nat × DWord)} (h : s.MemOk) : (s.prefLines key l).1.MemOk := by
  induction l generalizing s with
  | nil => exact h
  | cons x l ih =>
    unfold State.prefLines
    split
    · exact ih h
    · exact ih (memOk_translate h)

theorem outOk_execPref {hdr : Hdr} {copse : Bool} {a : VReg} {b : SReg} {s : State} (h : s.MemOk) : OutOk (execPref hdr copse a b s) := by
  unfold execPref
  dsimp only
  refine outOk_gate h (fun _ _ hu => ?_)
  split
  · exact outOk_trapFor (memOk_prefLines hu)
  split
  · exact outOk_wait (memOk_prefLines hu)
  · exact outOk_charge (memOk_prefLines hu) (fun _ _ hv => outOk_commit (memOk_issue (memOk_fold (fun _ _ hw => memOk_ite (memOk_fillCopse hw)
      (memOk_fillCore hw)) hv)))

theorem outOk_execPhase {hdr : Hdr} {kind : BitVec 2} {scope : BitVec 3} {s : State} (h : s.MemOk) : OutOk (execPhase hdr kind scope s) := by
  unfold execPhase
  dsimp only
  refine outOk_gate h (fun _ _ hu => ?_)
  split
  · exact outOk_illegal hu
  split
  · exact outOk_wait hu
  · exact outOk_commit (memOk_ite (memOk_acquireCore (memOk_ite (memOk_startRelease hu) hu)) (memOk_ite (memOk_startRelease hu) hu))

theorem memOk_discardPages {s : State} {key lo last va fuel : Nat} (h : s.MemOk) : (s.discardPages key lo last va fuel).1.MemOk := by
  induction fuel generalizing s va with
  | zero => exact h
  | succ fuel ih =>
    unfold State.discardPages
    split
    · exact h
    dsimp only
    split
    · next e => exact ih (memOk_fst e (memOk_translate h))
    next s1 t e =>
    have hu : s1.MemOk := memOk_fst e (memOk_translate h)
    split
    · exact hu
    split
    · exact hu
    split
    · exact hu
    split
    · next e => exact memOk_fst e (ih hu)
    · exact ih hu

theorem outOk_execDiscard {hdr : Hdr} {a b : SReg} {s : State} (h : s.MemOk) : OutOk (execDiscard hdr a b s) := by
  unfold execDiscard
  dsimp only
  refine outOk_gate h (fun _ _ hu => ?_)
  split
  · exact outOk_raise hu
  split
  · exact outOk_raise hu
  split
  · exact outOk_raise hu
  split
  · exact outOk_wait hu
  split
  · next e => exact outOk_raise (memOk_fst e (memOk_discardPages hu))
  next e =>
  have hv := memOk_fst e (memOk_discardPages hu)
  split
  · exact outOk_wait hv
  · exact outOk_commit (memOk_issue hv)

/-! ### Atomic -/

theorem outOk_atomicOp {i : Instr} {s : State} {d a b : VReg} (h : s.MemOk) : OutOk (atomicOp i s d a b) := by
  unfold atomicOp
  dsimp only
  refine outOk_gate h (fun _ _ hu => ?_)
  split
  · exact outOk_illmode hu
  · exact outOk_access hu

/-! ### Copy -/

theorem outOk_execOclm {hdr : Hdr} {d : OReg} {s : State} (h : s.MemOk) : OutOk (execOclm hdr d s) := by
  unfold execOclm
  dsimp only
  refine outOk_gate h (fun _ _ hu => ?_)
  split
  · exact outOk_commit hu
  split
  · exact outOk_wait hu
  · exact outOk_charge hu (fun _ _ hv => outOk_commit (memOk_modStand _ _ (memOk_modCore _ _ (memOk_growResident hv))))

theorem outOk_execOrel {hdr : Hdr} {d : OReg} {s : State} (h : s.MemOk) : OutOk (execOrel hdr d s) := by
  unfold execOrel
  dsimp only
  refine outOk_gate h (fun _ _ hu => ?_)
  split
  · exact outOk_commit hu
  split
  · exact outOk_wait hu
  · exact outOk_commit (memOk_shrink (memOk_modStand _ _ (memOk_modCore _ _ hu)))

theorem outOk_execOld {hdr : Hdr} {d : OReg} {a : SReg} {rows : BitVec 7} {s : State} (h : s.MemOk) : OutOk (execOld hdr d a rows s) := by
  unfold execOld
  dsimp only
  refine outOk_gate h (fun _ _ hu => ?_)
  split
  · exact outOk_illegal hu
  split
  · exact outOk_illegal hu
  split
  · exact outOk_illmode hu
  split
  · exact outOk_raise hu
  split
  · exact outOk_raise hu
  split
  · exact outOk_wait hu
  split
  · exact outOk_wait hu
  · exact outOk_unlessFailed hu (outOk_issueOp hu)

theorem outOk_copy {e : Env} {s : State} {inward : Bool} {k : Tok} {g t : DWord} {rows bytes : Nat} {near : Place} {fill : Option Nat} (h : s.MemOk) :
    OutOk (e.copy s inward k g t rows bytes near fill) := by
  unfold Env.copy
  dsimp only
  split
  · exact outOk_wait h
  split
  · next e => exact outOk_trapFor (memOk_fst e (memOk_access h))
  next e =>
  have hv := memOk_fst e (memOk_access h)
  split
  · exact outOk_park hv
  split
  · exact outOk_raise hv
  split
  · exact outOk_raise hv
  split
  · exact outOk_raise hv
  split
  · split
    · exact outOk_wait hv
    · exact outOk_unlessFailed hv (outOk_charge hv (fun _ _ hw => outOk_commit (memOk_modStand _ _ (memOk_issue hw))))
  · split
    · exact outOk_wait hv
    · exact outOk_unlessFailed hv (outOk_charge hv (fun _ _ hw => outOk_commit (memOk_modStand _ _ (memOk_issue hw))))

theorem outOk_execCpin {hdr : Hdr} {slot : Bool} {k : Tok} {a b : SReg} {rows : BitVec 12} {bytes : BitVec 20} {s : State} (h : s.MemOk) :
    OutOk (execCpin hdr slot k a b rows bytes s) := by
  unfold execCpin
  dsimp only
  refine outOk_gate h (fun _ _ hu => ?_)
  split
  · split
    · exact outOk_illegal hu
    split
    · exact outOk_raise hu
    split
    · exact outOk_raise hu
    split
    · exact outOk_raise hu
    split
    · exact outOk_raise (memOk_translate hu)
    · exact outOk_copy (memOk_translate hu)
  · split
    · exact outOk_illegal hu
    split
    · exact outOk_raise hu
    split
    · exact outOk_raise hu
    split
    · exact outOk_raise hu
    split
    · exact outOk_raise hu
    · exact outOk_copy hu

theorem outOk_execCpout {hdr : Hdr} {k : Tok} {a b : SReg} {rows : BitVec 12} {bytes : BitVec 20} {s : State} (h : s.MemOk) :
    OutOk (execCpout hdr k a b rows bytes s) := by
  unfold execCpout
  dsimp only
  refine outOk_gate h (fun _ _ hu => ?_)
  split
  · exact outOk_illegal hu
  split
  · exact outOk_raise hu
  split
  · exact outOk_raise hu
  split
  · exact outOk_raise hu
  split
  · exact outOk_raise hu
  split
  · exact outOk_raise hu
  · exact outOk_copy hu

/-! ### Csr -/

theorem outOk_execCsrr {hdr : Hdr} {d : SReg} {n : BitVec 14} {s : State} (h : s.MemOk) : OutOk (execCsrr hdr d n s) := by
  unfold execCsrr
  refine outOk_gate h (fun _ _ hu => ?_)
  split
  · exact outOk_illegal hu
  · exact outOk_commit (memOk_setStand hu)

theorem outOk_execCsrw {hdr : Hdr} {d : SReg} {n : BitVec 14} {s : State} (h : s.MemOk) : OutOk (execCsrw hdr d n s) := by
  unfold execCsrw
  refine outOk_gate h (fun _ _ hu => ?_)
  split
  · exact outOk_illegal hu
  · exact outOk_commit (memOk_setStand hu)

/-! ### Stands -/

theorem memOk_stashLocal {s : State} {c core idx : Nat} (h : s.MemOk) : (s.stashLocal c core idx).MemOk := memOk_modCtx _ _ h

theorem memOk_addStands {s : State} {core ctx grove : Nat} {k : Kernel} {pc s0 : Nat} {gang : Nat → Nat} {l : List (Nat × Nat)} (h : s.MemOk) :
    (s.addStands core ctx grove k pc s0 gang l).MemOk := by
  induction l generalizing s with
  | nil => exact h
  | cons x l ih => exact ih (memOk_writeList (memOk_setStand (memOk_bump (memOk_stashLocal h))))

/-! ### Ctrl -/

theorem outOk_jump {e : Env} {s : State} {st : Stand} (h : s.MemOk) : OutOk (e.jump s st) := outOk_commitAt (memOk_setStand h)

theorem outOk_execBra {hdr : Hdr} {neg : Bool} {p : PReg} {tgt jn : BitVec 16} {s : State} (h : s.MemOk) : OutOk (execBra hdr neg p tgt jn s) := by
  unfold execBra
  dsimp only
  refine outOk_gate h (fun _ _ hu => ?_)
  split
  · exact outOk_illegal hu
  split
  · exact outOk_moved hu
  · exact outOk_illegal hu

theorem outOk_execBrx {hdr : Hdr} {n : BitVec 7} {a : VReg} {b : SReg} {s : State} (h : s.MemOk) : OutOk (execBrx hdr n a b s) := by
  unfold execBrx
  dsimp only
  refine outOk_gate h (fun _ _ hu => ?_)
  split
  · exact outOk_illegal hu
  split
  · exact outOk_commit hu
  split
  · exact outOk_wait hu
  split
  · next e => exact outOk_trapFor (memOk_fst e (memOk_access hu))
  next e =>
  have hv := memOk_fst e (memOk_access hu)
  split
  · exact outOk_park hv
  split
  · exact outOk_wait hv
  refine outOk_unlessFailed hv ?_
  split
  · exact outOk_trapFor (memOk_combineFor hv)
  split
  · split
    · exact outOk_moved (memOk_fold (fun _ _ hw => memOk_readFill hw) (memOk_combineFor hv))
    · exact outOk_illegal (memOk_fold (fun _ _ hw => memOk_readFill hw) (memOk_combineFor hv))
  · exact outOk_illegal (memOk_fold (fun _ _ hw => memOk_readFill hw) (memOk_combineFor hv))

theorem outOk_execCall {hdr : Hdr} {d : SReg} {lit : Word} {s : State} (h : s.MemOk) : OutOk (execCall hdr d lit s) := by
  unfold execCall
  dsimp only
  refine outOk_gate h (fun _ _ hu => ?_)
  split
  · exact outOk_illegal hu
  split
  · exact outOk_commit hu
  · exact outOk_jump hu

theorem outOk_execRet {hdr : Hdr} {a : SReg} {s : State} (h : s.MemOk) : OutOk (execRet hdr a s) := by
  unfold execRet
  dsimp only
  refine outOk_gate h (fun _ _ hu => ?_)
  split
  · exact outOk_illegal hu
  split
  · exact outOk_commit hu
  · exact outOk_jump hu

theorem outOk_execExit {hdr : Hdr} {s : State} (h : s.MemOk) : OutOk (execExit hdr s) := by
  unfold execExit
  dsimp only
  refine outOk_gate h (fun _ _ hu => ?_)
  split
  · exact outOk_commit hu
  split
  · next e =>
    have hv := memOk_of_next e (outOk_moved (memOk_fold (fun _ _ hv => memOk_grouplineCheck _ _ _ hv) hu))
    exact outOk_next (memOk_ite (memOk_ite (memOk_modStand? hv) hv) (memOk_flushAll (memOk_ite (memOk_modStand? hv) hv)))
  · exact outOk_moved (memOk_fold (fun _ _ hv => memOk_grouplineCheck _ _ _ hv) hu)

theorem outOk_execWait {hdr : Hdr} {lit : Word} {s : State} (h : s.MemOk) : OutOk (execWait hdr lit s) := by
  unfold execWait
  dsimp only
  refine outOk_gate h (fun _ _ hu => ?_)
  split
  · exact outOk_wait hu
  · exact outOk_commit hu

theorem outOk_execSpawn {hdr : Hdr} {d a : SReg} {lit : Word} {s : State} (h : s.MemOk) : OutOk (execSpawn hdr d a lit s) := by
  unfold execSpawn
  dsimp only
  refine outOk_gate h (fun _ _ hu => ?_)
  split
  · exact outOk_raise hu
  split
  · exact outOk_wait hu
  refine outOk_charge hu (fun _ _ hv => ?_)
  split
  · exact outOk_commit (memOk_modStand _ _ (memOk_modGrove (memOk_addStands (memOk_growResident hv))))
  · exact outOk_commit (memOk_modStand _ _ (memOk_growRefund hv))

theorem outOk_execBrk {hdr : Hdr} {s : State} (h : s.MemOk) : OutOk (execBrk hdr s) := by
  unfold execBrk
  refine outOk_gate h (fun _ _ hu => ?_)
  split
  · exact outOk_next (memOk_tell _ (memOk_modStand _ _ hu))
  · exact outOk_raise hu

theorem outOk_execIdem {hdr : Hdr} {s : State} (h : s.MemOk) : OutOk (execIdem hdr s) := by
  unfold execIdem
  dsimp only
  refine outOk_gate h (fun _ _ hu => ?_)
  split
  · exact outOk_illegal hu
  split
  · exact outOk_commit (memOk_setStand hu)
  · exact outOk_commit hu

/-! ### TileIns -/

theorem outOk_tileAccess {e : Env} {s : State} {a : SReg} {lit : Word} {etOk : Nat → Bool} {nd : Need} {pl : Plan} {k : State → List Acc → Out?} (h : s.MemOk)
    (hk : ∀ (u : State) (x : List Acc), u.MemOk → OutOk (k u x)) :
    OutOk (e.tileAccess s a lit etOk nd pl k) := by
  unfold Env.tileAccess
  dsimp only
  split
  · exact outOk_illegal h
  split
  · exact outOk_illmode h
  split
  · exact outOk_raise h
  split
  · exact outOk_raise h
  split
  · exact outOk_wait h
  split
  · next e => exact outOk_trapFor (memOk_fst e (memOk_access h))
  next e =>
  have hv := memOk_fst e (memOk_access h)
  split
  · exact hk _ _ hv
  · exact outOk_park hv

theorem memOk_toDrain {s : State} {k op : Nat} (h : s.MemOk) : (s.toDrain k op).MemOk := memOk_modCore _ _ h

theorem outOk_execTacc {hdr : Hdr} {d : AReg} {a : SReg} {lit : Word} {s : State} (h : s.MemOk) : OutOk (execTacc hdr d a lit s) := by
  unfold execTacc
  dsimp only
  refine outOk_gate h (fun _ _ hu => outOk_tileAccess hu (fun _ _ hv => ?_))
  split
  · exact outOk_raise hv
  split
  · split
    · exact outOk_raise hv
    split
    · exact outOk_raise hv
    split
    · exact outOk_wait hv
    · exact outOk_charge hv (fun _ _ hw => outOk_commit (memOk_toDrain (memOk_issue (memOk_ite (memOk_startRelease hw) hw))))
  · split
    · exact outOk_raise hv
    split
    · exact outOk_raise hv
    split
    · exact outOk_wait hv
    · exact outOk_charge hv (fun _ _ hw => outOk_commit (memOk_toDrain (memOk_issue (memOk_ite (memOk_startRelease hw) hw))))

theorem outOk_execAst {hdr : Hdr} {d : AReg} {a : SReg} {lit : Word} {s : State} (h : s.MemOk) : OutOk (execAst hdr d a lit s) := by
  unfold execAst
  dsimp only
  refine outOk_gate h (fun _ _ hu => outOk_tileAccess hu (fun _ _ hv => ?_))
  split
  · exact outOk_wait hv
  · exact outOk_charge hv (fun _ _ hw => outOk_commit (memOk_toDrain (memOk_issueOrdered hw)))

theorem outOk_execAld {hdr : Hdr} {d : AReg} {a : SReg} {lit : Word} {s : State} (h : s.MemOk) : OutOk (execAld hdr d a lit s) := by
  unfold execAld
  dsimp only
  refine outOk_gate h (fun _ _ hu => outOk_tileAccess hu (fun _ _ hv => ?_))
  split
  · exact outOk_wait hv
  · exact outOk_charge hv (fun _ _ hw => outOk_commit (memOk_issueOrdered hw))

theorem outOk_waitFlush {e : Env} {s : State} {ops : List Nat} (h : s.MemOk) : OutOk (e.waitFlush s ops) := outOk_wait (memOk_modStand _ _ h)

theorem outOk_execRflush {hdr : Hdr} {a b : SReg} {s : State} (h : s.MemOk) : OutOk (execRflush hdr a b s) := by
  unfold execRflush
  dsimp only
  refine outOk_gate h (fun _ _ hu => ?_)
  split
  · split
    · exact outOk_commit (memOk_modStand _ _ hu)
    · exact outOk_waitFlush hu
  · refine outOk_charge hu (fun _ _ hv => ?_)
    split
    · exact outOk_commit (memOk_issue (memOk_fold (fun _ _ hw => memOk_flushTile hw) (memOk_flushSlots hv)))
    · exact outOk_waitFlush (memOk_issue (memOk_fold (fun _ _ hw => memOk_flushTile hw) (memOk_flushSlots hv)))

theorem outOk_execAzero {hdr : Hdr} {d : AReg} {s : State} (h : s.MemOk) : OutOk (execAzero hdr d s) := by
  unfold execAzero
  dsimp only
  refine outOk_gate h (fun _ _ hu => ?_)
  split
  · exact outOk_wait hu
  · exact outOk_commit (memOk_setStand hu)

theorem outOk_execAmov {hdr : Hdr} {d : VReg} {a : AReg} {col : Bool} {n : BitVec 5} {s : State} (h : s.MemOk) : OutOk (execAmov hdr d a col n s) := by
  unfold execAmov
  refine outOk_gate h (fun _ _ hu => ?_)
  split
  · exact outOk_wait hu
  · exact outOk_commit (memOk_setStand hu)

theorem outOk_execAmovv {hdr : Hdr} {d : AReg} {a : VReg} {col : Bool} {n : BitVec 5} {s : State} (h : s.MemOk) :
    OutOk (execAmovv hdr d a col n s) := by
  unfold execAmovv
  dsimp only
  refine outOk_gate h (fun _ _ hu => ?_)
  split
  · exact outOk_wait hu
  · exact outOk_commit (memOk_setStand hu)

/-! ### Engine -/

theorem outOk_execGang {hdr : Hdr} {a : SReg} {s : State} (h : s.MemOk) : OutOk (execGang hdr a s) := by
  unfold execGang
  dsimp only
  refine outOk_gate h (fun _ _ hu => ?_)
  split
  · exact outOk_raise hu
  split
  · exact outOk_wait hu
  · exact outOk_commit (memOk_setStand hu)

theorem memOk_queueMma {s : State} {sb drawn payer : Nat} {m : MmaMember} (h : s.MemOk) : (s.queueMma sb drawn payer m).MemOk := by
  unfold State.queueMma
  dsimp only
  split
  · next e =>
    have hu := memOk_of_next e (outOk_commit (memOk_upd (memOk_modStand _ _ (memOk_setOut h))))
    exact hu
  · exact memOk_modStand _ _ (memOk_setOut h)

theorem memOk_queueAll {s : State} {sb payer drawn : Nat} {ms : List MmaMember} (h : s.MemOk) : (s.queueAll sb payer drawn ms).MemOk := by
  induction ms generalizing s drawn with
  | nil => exact h
  | cons m ms ih => exact ih (memOk_queueMma h)

theorem memOk_failMma {s : State} {cause : Nat} {tval : DWord} {m : MmaMember} (h : s.MemOk) : (s.failMma cause tval m).MemOk :=
  memOk_takeTrap (memOk_dropOut h)

theorem outOk_rendezvous {e : Env} {s : State} {sb : Nat} {others : List MmaMember} {me : Out} (h : s.MemOk) :
    OutOk (e.rendezvous s sb others me) := by
  unfold Env.rendezvous
  dsimp only
  split
  · exact outOk_wait (memOk_modStand _ _ h)
  split
  · exact outOk_wait h
  refine outOk_charge h (fun _ _ hu => ?_)
  split
  · exact outOk_next (memOk_fold (fun _ _ hv => memOk_failMma hv) (memOk_releaseFixed hu))
  · exact outOk_next (memOk_queueAll (memOk_bump hu))

theorem outOk_execMma {x : Hdr} {d : AReg} {a b : OReg} {s : State} (h : s.MemOk) : OutOk (execMma x d a b s) := by
  refine outOk_gate h fun _ _ hu => ?_
  extract_lets
  split
  · exact outOk_illegal hu
  refine outOk_ite (outOk_illegal hu) (outOk_ite (outOk_wait hu) (outOk_unlessFailed hu (outOk_ite (outOk_rendezvous hu)
    (outOk_ite (outOk_raise hu) (outOk_ite (outOk_wait hu) (outOk_ite (outOk_wait hu) (outOk_ite ?_ ?_)))))))
  · exact outOk_wait (memOk_setOut (memOk_bump hu))
  · exact outOk_rendezvous hu

theorem outOk_execBtake {hdr : Hdr} {matrix : Bool} {s : State} (h : s.MemOk) : OutOk (execBtake hdr matrix s) := by
  unfold execBtake
  refine outOk_gate h (fun _ _ hu => ?_)
  split
  · exact outOk_raise hu
  split
  · exact outOk_raise hu
  split
  · exact outOk_wait hu
  · exact outOk_commit (memOk_acquireCore hu)

theorem outOk_execBpass {hdr : Hdr} {matrix : Bool} {s : State} (h : s.MemOk) : OutOk (execBpass hdr matrix s) := by
  unfold execBpass
  refine outOk_gate h (fun _ _ hu => ?_)
  split
  · exact outOk_raise hu
  split
  · exact outOk_raise hu
  split
  · exact outOk_wait hu
  · exact outOk_commit (memOk_modGrove hu)

theorem outOk_execCbld {hdr : Hdr} {tab : BitVec 3} {a : SReg} {s : State} (h : s.MemOk) : OutOk (execCbld hdr tab a s) := by
  unfold execCbld
  dsimp only
  refine outOk_gate h (fun _ _ hu => ?_)
  split
  · exact outOk_raise hu
  split
  · exact outOk_raise hu
  split
  · exact outOk_wait hu
  split
  · exact outOk_wait hu
  refine outOk_charge hu (fun _ _ hv => ?_)
  split
  · next e => exact outOk_trapFor (memOk_releaseFixed (memOk_fst e (memOk_access hv)))
  next e =>
  have hw := memOk_fst e (memOk_access hv)
  split
  · exact outOk_park (memOk_releaseFixed hw)
  · exact outOk_commit (memOk_issue hw)

/-! ### Lane -/

theorem outOk_predOp {i : Instr} {s : State} {d a b : PReg} {f : Bool → Bool → Bool} (h : s.MemOk) : OutOk (predOp i s d a b f) := outOk_plain h

/-! ### GroupOps -/

theorem memOk_replyTo {s : State} {op : Nat} {rep : Reply} (h : s.MemOk) : (s.replyTo op rep).MemOk := by
  unfold State.replyTo
  split
  · exact memOk_setOut h
  · exact h

theorem memOk_lodge {s : State} {op : Nat} (h : s.MemOk) : (s.lodge op).MemOk := by
  unfold State.lodge
  dsimp only
  split
  · split
    · exact memOk_sealImage _ _ (memOk_putHomes _ _ (memOk_setOut (memOk_releaseFixed h)))
    · exact memOk_setOut (memOk_releaseFixed h)
  · exact h

theorem memOk_answer {s : State} {op : Nat} {o : Out} {g : Option Group} {code : Nat} {pend : Bool} (h : s.MemOk) :
    (s.answer op o g code pend).MemOk :=
  memOk_replyTo h

theorem memOk_setMembers {s : State} {uid : Nat} {l : List Member} (h : s.MemOk) : (s.setMembers uid l).MemOk := by
  unfold State.setMembers
  split
  · exact memOk_storeBytes (memOk_modStand _ _ h)
  split
  · exact memOk_sealImage _ _ (memOk_putHomes _ _ h)
  · exact h

theorem memOk_dropMember {s : State} {uid gk gen : Nat} (h : s.MemOk) : (s.dropMember uid gk gen).MemOk := memOk_setMembers h

theorem memOk_admitAll {s : State} {gk : Nat} (h : s.MemOk) : (s.admitAll gk).MemOk := memOk_fold (fun _ _ hu => memOk_ite (memOk_setMembers hu) hu) h

theorem memOk_setGroup {s : State} {gk : Nat} {g : Group} (h : s.MemOk) : (s.setGroup gk g).MemOk := h

theorem memOk_writeBack {s : State} {gk : Nat} {g : Group} (h : s.MemOk) : (s.writeBack gk g).MemOk := memOk_setGroup (memOk_putHomes _ _ h)

theorem memOk_touch {s : State} {gk : Nat} (h : s.MemOk) : (s.touch gk).MemOk := by
  unfold State.touch
  dsimp only
  split
  · split
    · exact memOk_setGroup h
    split
    · exact memOk_writeBack (memOk_setGroup h)
    · exact memOk_writeBack h
  · exact h

theorem memOk_freeCells {s : State} {gk : Nat} {g : Group} (h : s.MemOk) : (s.freeCells gk g).MemOk := by
  unfold State.freeCells
  split
  · exact h
  · exact memOk_setGroup (memOk_modDie _ _ h)

theorem memOk_logArrival {s : State} {g : Group} {ord n : Nat} (h : s.MemOk) : (s.logArrival g ord n).MemOk := by
  unfold State.logArrival
  dsimp only
  split
  · exact h
  split
  · exact memOk_setCtx h
  · exact memOk_setCtx (memOk_putHomes _ _ h)

theorem memOk_finishRound {s : State} {gk : Nat} {g : Group} (h : s.MemOk) : (s.finishRound gk g).1.MemOk :=
  memOk_admitAll (memOk_freeCells (memOk_setGroup (memOk_fold (fun _ _ hu => memOk_replyTo hu) h)))

theorem memOk_arriveOne {s : State} {gk op : Nat} (h : s.MemOk) : (s.arriveOne gk op).MemOk := by
  delta State.arriveOne
  split
  · extract_lets mem n die isRed take g2 s1
    split
    · exact memOk_replyTo h
    split
    · exact memOk_replyTo h
    split
    · exact memOk_replyTo h
    split
    · exact memOk_replyTo h
    split
    · exact memOk_lodge h
    have h1 : s1.MemOk := memOk_logArrival h
    exact memOk_ite h1 (memOk_lodge h1)
  · exact h

theorem memOk_runOps {s : State} {gk fuel : Nat} {ops : List Nat} (h : s.MemOk) : (s.runOps gk fuel ops).MemOk := by
  induction fuel generalizing s ops with
  | zero => exact h
  | succ fuel ih =>
    unfold State.runOps
    split
    · exact h
    split
    · exact ih (memOk_finishRound h)
    split
    · exact h
    · exact ih (memOk_arriveOne h)

theorem memOk_withdraw {s : State} {gk uid : Nat} (h : s.MemOk) : (s.withdraw gk uid).MemOk := by
  unfold State.withdraw
  dsimp only
  split
  · exact h
  refine memOk_fold (fun _ _ hw => ?_) (memOk_modDie _ _ (memOk_ite (memOk_freeCells (memOk_setGroup h)) (memOk_setGroup h)))
  split
  · exact memOk_dropOut (memOk_uncount (memOk_releaseFixed hw))
  · exact hw

theorem memOk_stateLeave {s : State} {gk uid : Nat} {pending fault : Bool} (h : s.MemOk) : (s.leave gk uid pending fault).MemOk := by
  unfold State.leave
  dsimp only
  split
  · exact h
  · exact memOk_touch (memOk_runOps (memOk_setGroup (memOk_dropMember h)))

theorem memOk_leaveAll {s : State} {uid : Nat} {fault : Bool} (h : s.MemOk) : (s.leaveAll uid fault).MemOk :=
  memOk_fold (fun _ _ hv => memOk_ite (memOk_stateLeave (memOk_withdraw hv)) hv) h

theorem memOk_deleteGroup {s : State} {gk : Nat} (h : s.MemOk) : (s.deleteGroup gk).MemOk := by
  unfold State.deleteGroup
  dsimp only
  split
  · exact h
  refine memOk_bumpGen (memOk_upd (memOk_modDie _ _ (memOk_freeCells (memOk_fold (fun _ _ hv => memOk_dropMember hv) (memOk_fold
      (fun _ _ hv => ?_) h)))))
  split
  · exact memOk_dropMember (memOk_answer hv)
  · exact hv

/-! ### Handle -/

theorem outOk_afterAcq {e : Env} {s : State} {k : Out?} (h : s.MemOk) (hk : OutOk k) : OutOk (e.afterAcq s k) := by
  unfold Env.afterAcq
  split
  · exact outOk_wait h
  · exact hk

theorem outOk_detach {e : Env} {s : State} {ctr : Ctr} {rel acq : Option Nat} {ask : Ask} {far : Option Nat} (h : s.MemOk) :
    OutOk (e.detach s ctr rel acq ask far) := by
  unfold Env.detach
  dsimp only
  split
  · exact outOk_wait h
  split
  · exact outOk_wait h
  refine outOk_charge h (fun _ _ hv => outOk_commit (memOk_issue ?_))
  split
  · exact memOk_startRelease hv
  · exact hv

theorem outOk_groupOp {e : Env} {s : State} {a : HReg} {right : Nat} {rel round : Bool} {ctr : Ctr} {ask : Ask} (h : s.MemOk) :
    OutOk (e.groupOp s a right rel round ctr ask) := by
  unfold Env.groupOp
  dsimp only
  split
  · exact outOk_raise h
  split
  · exact outOk_wait h
  · exact outOk_detach h

theorem outOk_execGcrt {hdr : Hdr} {d a : SReg} {b : HReg} {s : State} (h : s.MemOk) : OutOk (execGcrt hdr d a b s) := by
  unfold execGcrt
  dsimp only
  refine outOk_gate h (fun _ _ hu => ?_)
  split
  · exact outOk_illmode hu
  split
  · exact outOk_raise hu
  split
  · exact outOk_raise hu
  split
  · exact outOk_wait hu
  split
  · next e => exact outOk_trapFor (memOk_fst e (memOk_access hu))
  next e =>
  have hv := memOk_fst e (memOk_access hu)
  split
  · exact outOk_park hv
  · exact outOk_detach hv

theorem outOk_execGvote {hdr : Hdr} {kind : BitVec 2} {p : BitVec 4} {a : HReg} {b : SReg} {s : State} (h : s.MemOk) :
    OutOk (execGvote hdr kind p a b s) := by
  unfold execGvote
  refine outOk_gate h (fun _ _ hu => ?_)
  split
  · exact outOk_illegal hu
  · exact outOk_groupOp hu

theorem outOk_execGred {hdr : Hdr} {d : SReg} {a : HReg} {b : SReg} {op : BitVec 2} {s : State} (h : s.MemOk) : OutOk (execGred hdr d a b op s) := by
  unfold execGred
  refine outOk_gate h (fun _ _ hu => ?_)
  split
  · exact outOk_illegal hu
  split
  · exact outOk_illmode hu
  · exact outOk_groupOp hu

theorem outOk_execGinfo {hdr : Hdr} {d : SReg} {a : HReg} {s : State} (h : s.MemOk) : OutOk (execGinfo hdr d a s) := by
  unfold execGinfo
  refine outOk_gate h (fun _ _ hu => ?_)
  split
  · exact outOk_illegal hu
  · exact outOk_groupOp hu

/-! ### QueueOps -/

theorem memOk_setQueue {s : State} {qk : Nat} {q : Queue} (h : s.MemOk) : (s.setQueue qk q).MemOk := h

theorem memOk_setChain {s : State} {ck : Nat} {c : Chain} (h : s.MemOk) : (s.setChain ck c).MemOk := h

theorem memOk_enqueue {s : State} {qk : Nat} {bytes : List Byte} (h : s.MemOk) : (s.enqueue qk bytes).1.MemOk := by
  unfold State.enqueue
  dsimp only
  split
  · exact h
  split
  · exact h
  split
  · exact h
  split
  · exact h
  split
  · exact h
  refine memOk_pair ?_
  split
  · exact memOk_setQueue h
  · exact memOk_setQueue (memOk_setLaunch (memOk_bump h))

theorem memOk_takeRecord {s : State} {qk : Nat} {q : Queue} {steal : Bool} {room : Nat} {got : List (Nat × Nat × Bool)} (h : s.MemOk) :
    (s.takeRecord qk q steal room got).1.MemOk := by
  unfold State.takeRecord
  dsimp only
  split
  · exact h
  split
  · exact h
  split
  · exact memOk_pair (memOk_setQueue h)
  · exact h

theorem memOk_queueAct {s : State} {op : Nat} {o : Out} {ask : Ask} (h : s.MemOk) : (s.queueAct op o ask).MemOk := by
  unfold State.queueAct
  dsimp only
  split
  · exact memOk_replyTo h
  split
  · exact memOk_replyTo (memOk_enqueue h)
  split
  · exact memOk_setOut h
  · exact memOk_replyTo (memOk_takeRecord h)

theorem memOk_setCstat {s : State} {pa code : Nat} {keep : Bool} (h : s.MemOk) : (s.setCstat pa code keep).MemOk := memOk_putHome _ _ h

theorem memOk_trySuccessor {s : State} {e : Enq} (h : s.MemOk) : (s.trySuccessor e).MemOk := by
  unfold State.trySuccessor
  dsimp only
  split
  · split
    · exact h
    · exact memOk_setCstat h
  · split
    · exact memOk_upd (memOk_enqueue h)
    · exact memOk_setCstat (memOk_upd (memOk_enqueue h))

theorem memOk_startSuccessor {s : State} {c pa : Nat} {keep : Bool} (h : s.MemOk) : (s.startSuccessor c pa keep).MemOk := by
  unfold State.startSuccessor
  dsimp only
  split
  · exact h
  split
  · split
    · exact memOk_trySuccessor (memOk_upd (memOk_bump h))
    · exact memOk_upd (memOk_bump h)
  · exact memOk_setCstat (memOk_bump h)

theorem memOk_decrement {s : State} {c pa : Nat} {keep : Bool} (h : s.MemOk) : (s.decrement c pa keep).1.MemOk := by
  unfold State.decrement
  dsimp only
  split
  · refine memOk_pair ?_
    split
    · exact memOk_setCstat h
    · exact h
  refine memOk_pair ?_
  split
  · exact memOk_startSuccessor (memOk_putHomes _ _ h)
  · exact memOk_putHomes _ _ h

theorem memOk_lineHome {s : State} {k pa : Nat} (h : s.MemOk) : (s.lineHome k pa).MemOk := memOk_flushLine _ _ h

theorem memOk_lineDrop {s : State} {k pa : Nat} (h : s.MemOk) : (s.lineDrop k pa).MemOk := memOk_fold (fun _ _ hu => memOk_dropClean hu) h

theorem memOk_chainAct {s : State} {op : Nat} {o : Out} {ask : Ask} (h : s.MemOk) : (s.chainAct op o ask).MemOk := by
  unfold State.chainAct
  dsimp only
  split
  · exact memOk_replyTo h
  · split
    · exact memOk_replyTo h
    · exact memOk_replyTo (memOk_setChain (memOk_putHomes _ _ h))
  · exact memOk_replyTo h
  · exact memOk_replyTo h

/-! ### Issue -/

theorem memOk_fetchWord {s : State} {k c va : Nat} (h : s.MemOk) : (s.fetchWord k c va).1.MemOk := by
  unfold State.fetchWord
  dsimp only
  split
  · exact memOk_pair (memOk_translate h)
  split
  · exact memOk_pair (memOk_translate h)
  split <;> exact memOk_pair (memOk_translate h)

theorem memOk_fetch {s : State} {key : Nat} {pc : BitVec 17} (h : s.MemOk) : (s.fetch key pc).1.MemOk := by
  unfold State.fetch
  dsimp only
  split
  · next e => exact memOk_fst e (memOk_fetchWord h)
  next e =>
  have hu := memOk_fst e (memOk_fetchWord h)
  split
  · split
    · next e => exact memOk_fst e (memOk_fetchWord hu)
    next e =>
    have hv := memOk_fst e (memOk_fetchWord hu)
    split <;> exact hv
  · split <;> exact hu

theorem memOk_tick {s : State} (h : s.MemOk) : s.tick.MemOk := memOk_fold (fun _ _ hu => memOk_modDie _ _ hu) h

theorem memOk_turnTo {s : State} {q : Nat} (h : s.MemOk) : (s.turnTo q).MemOk := memOk_upd (memOk_ite (memOk_tick h) h)

theorem memOk_giveUp {s : State} {k q : Nat} (h : s.MemOk) : (s.giveUp k q).MemOk := by
  unfold State.giveUp
  dsimp only
  split
  · exact h
  · exact memOk_modStand? (memOk_modCore _ _ h)

theorem memOk_afterIssue {s : State} {c : Cand} {issued yields : Bool} (h : s.MemOk) : (s.afterIssue c issued yields).MemOk := by
  unfold State.afterIssue
  dsimp only
  split
  · exact memOk_modCore _ _ (memOk_ite h (memOk_giveUp h))
  split
  · exact memOk_giveUp (memOk_modCore _ _ (memOk_ite h (memOk_giveUp h)))
  split <;> exact memOk_giveUp h

theorem memOk_settleAge {s : State} {c : Cand} {issued : Bool} (h : s.MemOk) : (s.settleAge c issued).MemOk := by
  unfold State.settleAge
  split
  · exact h
  · exact memOk_modStand? h

/-! ### Restore -/

theorem memOk_reloadTables {s : State} {k c : Nat} (h : s.MemOk) : (s.reloadTables k c).MemOk := memOk_modSlot h

theorem memOk_bindSlots {s : State} {k : Nat} {l : List (Nat × OpSlot)} (h : s.MemOk) : (s.bindSlots k l).1.MemOk := by
  induction l generalizing s with
  | nil => exact h
  | cons x l ih =>
    unfold State.bindSlots
    split
    · exact ih h
    · exact ih h

theorem memOk_tileRowsAt {s : State} {k c rva rpa stride : Nat} (h : s.MemOk) : (s.tileRowsAt k c rva rpa stride).1.MemOk := by
  refine memOk_foldl_fst (fun _ _ hq => ?_) h
  split
  · next e => exact memOk_fst e (memOk_translate hq)
  · next e => exact memOk_fst e (memOk_translate hq)

theorem memOk_imgResiduals {s : State} {key : Nat} {k : Kernel} {img : Nat → Byte} (h : s.MemOk) : (s.imgResiduals key k img).1.MemOk := by
  refine memOk_foldl_fst (fun _ _ hq => ?_) h
  extract_lets b
  split
  next e => exact memOk_pair (memOk_fst e (memOk_tileRowsAt hq))

theorem memOk_reattach {s : State} {key slotPa : Nat} (h : s.MemOk) : (s.reattach key slotPa).MemOk := by
  unfold State.reattach
  dsimp only
  split
  · exact h
  · exact memOk_setStand (memOk_setOut h)

theorem memOk_takeSlots {s : State} {key : Nat} {k : Kernel} {img : Nat → Byte} {pa : Nat → Nat} (h : s.MemOk) :
    (s.takeSlots key k img pa).MemOk := by
  unfold State.takeSlots
  dsimp only
  refine memOk_fold (fun _ _ hu => ?_) h
  split
  · exact memOk_reattach hu
  split
  · next e => exact memOk_modStand _ _ (memOk_fst e (memOk_fetch hu))
  next e =>
  exact memOk_fst e (memOk_fetch hu)

theorem memOk_nameParked {s : State} {key : Nat} (h : s.MemOk) : (s.nameParked key).MemOk := memOk_modStand _ _ h

theorem memOk_takeImage {s : State} {key : Nat} {k : Kernel} {img : Nat → Byte} {pa : Nat → Nat} (h : s.MemOk) :
    (s.takeImage key k img pa).MemOk := by
  delta State.takeImage
  extract_lets c
  split
  next e =>
  have h1 := memOk_fst e (memOk_bindSlots h)
  split
  next e =>
  have h2 := memOk_fst e (memOk_imgResiduals h1)
  exact memOk_nameParked (memOk_takeSlots (memOk_setStand (memOk_modSlot h2)))

/-! ### Distribute -/

theorem memOk_yieldCore {s : State} {k : Nat} (h : s.MemOk) : (s.yieldCore k).MemOk := by
  unfold State.yieldCore
  dsimp only
  split
  · exact memOk_modCore _ _ h
  · exact h

theorem memOk_takeSlot {s : State} {c k : Nat} (h : s.MemOk) : (s.takeSlot c k).MemOk := by
  unfold State.takeSlot
  dsimp only
  split
  · exact h
  · exact memOk_modCore _ _ h

theorem memOk_loadFrom {s : State} {c k : Nat} {tabs : List (Nat × Nat)} (h : s.MemOk) : (s.loadFrom c k tabs).MemOk :=
  memOk_fold (fun _ _ hu => memOk_modSlot hu) h

theorem memOk_poisonedTable {s : State} {l c k pa : Nat} (h : s.MemOk) : (s.poisonedTable l c k pa).MemOk := memOk_fatal (memOk_modLaunch h)

theorem memOk_beginLaunch {s : State} {l : Nat} (h : s.MemOk) : (s.beginLaunch l).MemOk := h

theorem memOk_startGrove {s : State} {l g k : Nat} (h : s.MemOk) : (s.startGrove l g k).MemOk := by
  unfold State.startGrove
  dsimp only
  split
  · exact memOk_poisonedTable h
  · exact memOk_yieldCore (memOk_modLaunch (memOk_addStands (memOk_modSlot (memOk_modCore _ _ (memOk_setGrove (memOk_bump (memOk_loadFrom
      (memOk_takeSlot (memOk_beginLaunch h)))))))))

theorem optOk_tryPlace {s : State} {die l : Nat} (h : s.MemOk) : OptOk (s.tryPlace die l) := by
  unfold State.tryPlace
  dsimp only
  split
  · exact optOk_none
  · exact optOk_bind (fun _ => optOk_map (fun _ => memOk_startGrove (memOk_modLaunch h)))

theorem optOk_placeAll {s : State} {l : Nat} {cores gs : List Nat} (h : s.MemOk) : OptOk (s.placeAll l cores gs) := by
  induction gs generalizing s with
  | nil => exact optOk_some h
  | cons g gs ih =>
    unfold State.placeAll
    dsimp only
    split
    · exact optOk_some h
    split
    · exact optOk_none
    · exact ih (memOk_startGrove h)

theorem optOk_tryColevel {s : State} {l : Nat} (h : s.MemOk) : OptOk (s.tryColevel l) := by
  unfold State.tryColevel
  dsimp only
  split
  · exact optOk_none
  · exact optOk_findSome (fun _ => optOk_placeAll h)

theorem memOk_failedRestore {s : State} {c key : Nat} {sg : SavedGrove} {x : SavedStand} {reason : Nat} (h : s.MemOk) :
    (s.failedRestore c key sg x reason).MemOk := by
  unfold State.failedRestore
  dsimp only
  split
  · exact memOk_fatal h
  · exact memOk_enterHandler (memOk_writeList (memOk_setStand (memOk_modSlot h)))

theorem memOk_moveLocal {s : State} {c key : Nat} {x : SavedStand} (h : s.MemOk) : (s.moveLocal c key x).MemOk := by
  unfold State.moveLocal
  split
  · exact memOk_putHomes _ _ h
  · exact h

theorem memOk_takeLocals {s : State} {c k : Nat} {sg : SavedGrove} {idxs : List Nat} (h : s.MemOk) : (s.takeLocals c k sg idxs).1.MemOk :=
  memOk_fold (fun _ _ hu => memOk_stashLocal hu) h

theorem memOk_restoreStand {s : State} {c key : Nat} {sg : SavedGrove} {x : SavedStand} (h : s.MemOk) : (s.restoreStand c key sg x).MemOk := by
  unfold State.restoreStand
  dsimp only
  split
  · exact memOk_failedRestore h
  split
  · exact memOk_modStand _ _ (memOk_takeImage (memOk_moveLocal (memOk_setStand (memOk_modSlot h))))
  · exact memOk_writeList (memOk_modStand _ _ (memOk_takeImage (memOk_moveLocal (memOk_setStand (memOk_modSlot h)))))

theorem memOk_restoreStands {s : State} {c k : Nat} {sg : SavedGrove} {l : List (SavedStand × Nat)} (h : s.MemOk) :
    (s.restoreStands c k sg l).MemOk := by
  induction l generalizing s with
  | nil => exact h
  | cons x l ih =>
    obtain ⟨x, i⟩ := x
    have ht : (s.restoreStand c (k * 64 + i) sg x).MemOk := memOk_restoreStand h
    rw [State.restoreStands]
    exact memOk_ite (memOk_modCtx _ _ ht) (ih ht)

theorem memOk_raiseOwed {s : State} {c : Nat} {l : List SavedStand} (h : s.MemOk) : (s.raiseOwed c l).MemOk := by
  unfold State.raiseOwed
  dsimp only
  refine memOk_fold (fun _ _ hu => (memOk_fold (fun _ _ hv => ?_) hu)) h
  split
  · exact memOk_getD (optOk_map (fun _ => memOk_takeTrap hv)) hv
  · exact memOk_modCtx _ _ hv

theorem memOk_restoreGrove {s : State} {c k : Nat} {sg0 : SavedGrove} {idxs : List Nat} (h : s.MemOk) : (s.restoreGrove c k sg0 idxs).MemOk := by
  unfold State.restoreGrove
  dsimp only
  split
  · exact memOk_poisonedTable h
  · exact memOk_yieldCore (memOk_raiseOwed (memOk_restoreStands (memOk_modLaunch (memOk_ite (memOk_loadFrom (memOk_takeSlot (memOk_acquireCore
      (memOk_takeLocals (memOk_modCtx _ _ h))))) (memOk_modSlot (memOk_modCore _ _ (memOk_setGrove (memOk_loadFrom (memOk_takeSlot
      (memOk_acquireCore (memOk_takeLocals (memOk_modCtx _ _ h))))))))))))

theorem optOk_seatGrove {s : State} {c : Nat} {cores : List Nat} {sg : SavedGrove} (h : s.MemOk) : OptOk (s.seatGrove c cores sg) := by
  unfold State.seatGrove
  dsimp only
  split
  · exact optOk_none
  · exact optOk_map (fun _ => memOk_restoreGrove h)

theorem optOk_seatAll {s : State} {c : Nat} {cores : List Nat} {gs : List SavedGrove} (h : s.MemOk) : OptOk (s.seatAll c cores gs) := by
  induction gs generalizing s with
  | nil => exact optOk_some h
  | cons g gs ih =>
    refine optOk_bindState (optOk_seatGrove h) fun u hu => ?_
    split
    · exact optOk_some hu
    · exact ih hu

theorem memOk_settleRestore {s : State} {c : Nat} (h : s.MemOk) : (s.settleRestore c).MemOk := by
  unfold State.settleRestore
  split
  · exact memOk_modCtx _ _ h
  · exact h

theorem optOk_returnOne {s : State} {die : Nat} {debug : Bool} (h : s.MemOk) : OptOk (s.returnOne die debug) := by
  unfold State.returnOne
  refine optOk_findSome (fun _ => ?_)
  split
  · exact optOk_none
  refine optOk_findSome (fun _ => ?_)
  split
  · split
    · exact optOk_some (memOk_restoreGrove h)
    · exact optOk_none
  · exact optOk_none

theorem optOk_restoreOne {s : State} {die : Nat} {debug : Bool} (h : s.MemOk) : OptOk (s.restoreOne die debug) := by
  unfold State.restoreOne
  dsimp only
  split
  · next e =>
    refine optOk_some (memOk_of_some e ?_)
    split
    · next e => exact optOk_some (optOk_returnOne h _ e)
    refine optOk_findSome fun _ => optOk_findSome fun _ => optOk_mapState ?_ fun _ hu => memOk_settleRestore hu
    split
    · exact optOk_seatGrove h
    · exact optOk_findSome fun _ => optOk_seatAll h
  split
  · exact optOk_returnOne h
  · exact optOk_none

/-! ### Sys -/

theorem outOk_execVres {hdr : Hdr} {a : SReg} {s : State} (h : s.MemOk) : OutOk (execVres hdr a s) := by
  unfold execVres
  dsimp only
  refine outOk_gate h (fun _ _ hu => ?_)
  split
  · exact outOk_raise hu
  · exact outOk_wait (memOk_modStand _ _ (memOk_modSlot hu))
  · exact outOk_commit (memOk_modStand _ _ (memOk_modSlot hu))

theorem outOk_execPtst {x : Hdr} {d a : SReg} {s : State} (h : s.MemOk) : OutOk (execPtst x d a s) := by
  refine outOk_gate h fun _ _ hu => outOk_ite (outOk_raise hu) (outOk_ite (outOk_raise hu) (outOk_ite (outOk_raise hu)
    (outOk_ite (outOk_wait hu) ?_)))
  split
  · next e => exact outOk_trapFor (memOk_fst e (memOk_access hu))
  next e =>
  have hv := memOk_fst e (memOk_access hu)
  refine outOk_ite (outOk_park hv) ?_
  split
  · exact outOk_wait (memOk_modStand _ _ (memOk_startRelease hv))
  refine outOk_ite (outOk_wait hv) ?_
  extract_lets
  split
  · exact outOk_trapFor hv
  · exact outOk_commit (memOk_modStand _ _ (memOk_issue hv))

theorem outOk_execPtld {x : Hdr} {a : SReg} {s : State} (h : s.MemOk) : OutOk (execPtld x a s) := by
  refine outOk_gate h fun _ _ hu => outOk_ite (outOk_raise hu) (outOk_ite (outOk_raise hu) (outOk_ite (outOk_wait hu) ?_))
  split
  · next e => exact outOk_trapFor (memOk_fst e (memOk_access hu))
  next e =>
  have hv := memOk_fst e (memOk_access hu)
  refine outOk_ite (outOk_park hv) (outOk_ite (outOk_trapFor hv) (outOk_ite (outOk_wait hv) ?_))
  exact outOk_charge hv fun _ _ hw => outOk_next (memOk_ite (memOk_done (memOk_issue hw)) (memOk_leave (memOk_issue hw)))

/-! ### Task -/

theorem outOk_queueOp {e : Env} {s : State} {a : HReg} {right : Nat} {b : SReg} {enq : Bool} (h : s.MemOk) : OutOk (e.queueOp s a right b enq) := by
  unfold Env.queueOp
  dsimp only
  split
  · exact outOk_raise h
  split
  · exact outOk_illegal h
  · exact outOk_afterAcq h (outOk_detach h)

theorem outOk_lineOp {e : Env} {s : State} {va : DWord} {align : Nat} {nd : Need} {rel acq : Option Nat} (h : s.MemOk) :
    OutOk (e.lineOp s va align nd rel acq) := by
  unfold Env.lineOp
  split
  · exact outOk_raise h
  split
  · exact outOk_wait h
  split
  · next e => exact outOk_trapFor (memOk_fst e (memOk_access h))
  next e =>
  have hv := memOk_fst e (memOk_access h)
  split
  · exact outOk_park hv
  · exact outOk_detach hv

theorem outOk_execTdone {hdr : Hdr} {d a : SReg} {s : State} (h : s.MemOk) : OutOk (execTdone hdr d a s) := by
  unfold execTdone
  dsimp only
  refine outOk_gate h (fun _ _ hu => ?_)
  split
  · split
    · exact outOk_commit (memOk_modStand _ _ hu)
    · exact outOk_lineOp hu
  · split
    · exact outOk_commit (memOk_modStand _ _ hu)
    · exact outOk_lineOp hu

theorem outOk_execChapp {hdr : Hdr} {d : SReg} {a : HReg} {b : SReg} {s : State} (h : s.MemOk) : OutOk (execChapp hdr d a b s) := by
  unfold execChapp
  refine outOk_gate h (fun _ _ hu => ?_)
  split
  · exact outOk_raise hu
  split
  · exact outOk_illegal hu
  · exact outOk_afterAcq hu (outOk_detach hu)

theorem outOk_execChadv {hdr : Hdr} {a : HReg} {s : State} (h : s.MemOk) : OutOk (execChadv hdr a s) := by
  unfold execChadv
  dsimp only
  refine outOk_gate h (fun _ _ hu => ?_)
  split
  · exact outOk_raise hu
  split
  · exact outOk_commit hu
  split
  · exact outOk_wait hu
  · exact outOk_commit (memOk_upd (memOk_startRelease hu))

theorem outOk_execChseq {hdr : Hdr} {d : SReg} {a : HReg} {s : State} (h : s.MemOk) : OutOk (execChseq hdr d a s) := by
  unfold execChseq
  dsimp only
  refine outOk_gate h (fun _ _ hu => ?_)
  split
  · exact outOk_raise hu
  · exact outOk_afterAcq hu (outOk_detach hu)

/-! ### Channel -/

theorem memOk_serve {s : State} {home op sub : Nat} (h : s.MemOk) : (s.serve home op sub).MemOk := memOk_modHome h

/-! ### EvMem -/

theorem memOk_lateTrap {s : State} {op : Nat} {o : Out} {t : TrapRec} (h : s.MemOk) : (s.lateTrap op o t).MemOk := by
  unfold State.lateTrap
  dsimp only
  split
  · exact h
  split
  · exact h
  · exact memOk_takeTrap (memOk_ite (memOk_setStand h) h)

theorem memOk_uncommit {s : State} {op : Nat} {o : Out} (h : s.MemOk) : (s.uncommit op o).MemOk := by
  unfold State.uncommit
  dsimp only
  split
  · split
    · exact memOk_setOut (memOk_modOwner h)
    · exact h
  · exact h

theorem memOk_abandon {s : State} {op : Nat} {o : Out} (h : s.MemOk) : (s.abandon op o).MemOk := by
  unfold State.abandon
  dsimp only
  split
  · exact memOk_complete (memOk_upd (memOk_uncommit h))
  · exact memOk_upd (memOk_uncommit h)

theorem memOk_flatPoison {s : State} {op : Nat} {o : Out} {va : DWord} (h : s.MemOk) : (s.flatPoison op o va).MemOk := memOk_lateTrap h

theorem memOk_dropLive {s : State} {op : Nat} {o : Out} {va : DWord} (h : s.MemOk) : (s.dropLive op o va).MemOk := by
  unfold State.dropLive
  dsimp only
  split
  · exact memOk_grouplineCheck _ _ _ h
  split
  · exact memOk_grouplineCheck _ _ _ h
  split
  · exact memOk_grouplineCheck _ _ _ h
  split
  · exact h
  · exact memOk_setStand (memOk_disownOp _ h)

theorem memOk_doWrite {s : State} {k : Nat} {sc : Option Nat} {w : Wr} (h : s.MemOk) : (s.doWrite k sc w).MemOk := memOk_writePlace _ _ _ _ h

theorem memOk_failLoad {s : State} {op : Nat} {o : Out} {bad : List (Nat × DWord)} (h : s.MemOk) : (s.failLoad op o bad).MemOk :=
  memOk_lateTrap (memOk_abandon h)

theorem memOk_readAll {s : State} {k : Nat} {sc : Option Nat} {ps : List Place} (h : s.MemOk) : (s.readAll k sc ps).MemOk :=
  memOk_fold (fun _ _ hv => memOk_readFill hv) h

theorem memOk_finishLoad {s : State} {op : Nat} {o : Out} {accs : List Acc} {scloff : Nat} (h : s.MemOk) : (s.finishLoad op o accs scloff).MemOk := by
  delta State.finishLoad
  extract_lets k ps s1 bad
  have h1 : s1.MemOk := memOk_readAll (memOk_combineFor h)
  split
  · exact memOk_failLoad h1
  · exact memOk_finish (memOk_modOwner h1)

theorem memOk_finishSload {s : State} {op : Nat} {o : Out} {a : Acc} (h : s.MemOk) : (s.finishSload op o a).MemOk := by
  unfold State.finishSload
  dsimp only
  split
  · exact memOk_flatPoison (memOk_abandon (memOk_readAll (memOk_combineFor h)))
  · exact memOk_complete (memOk_modOwner (memOk_readAll (memOk_combineFor h)))

theorem memOk_finishTagget {s : State} {op : Nat} {o : Out} {accs : List Acc} (h : s.MemOk) : (s.finishTagget op o accs).MemOk := by
  unfold State.finishTagget
  dsimp only
  split
  · exact memOk_failLoad (memOk_readAll h)
  · exact memOk_finish (memOk_modOwner (memOk_readAll h))

theorem optOk_finishPtld {s0 : State} {op : Nat} {o : Out} {pas : List Nat} (h : s0.MemOk) : OptOk (s0.finishPtld op o pas) := by
  unfold State.finishPtld
  dsimp only
  split
  · exact optOk_some (memOk_flatPoison (memOk_complete (memOk_growRefund (memOk_combineDrain h))))
  · exact optOk_some (memOk_lateTrap (memOk_complete (memOk_growRefund (memOk_combineDrain h))))
  split
  · exact optOk_none
  · exact optOk_some (memOk_writeList (memOk_takeImage (memOk_reloadTables (memOk_acquireCore (memOk_complete (memOk_growResident
      (memOk_combineDrain h)))))))

theorem memOk_ownLines {s : State} {k : Nat} {sc : Option Nat} {w : Owner} {at_ : List (Nat × DWord)} (h : s.MemOk) :
    (s.ownLines k sc w at_).MemOk := by
  unfold State.ownLines
  dsimp only
  refine memOk_fold (fun _ _ hv => ?_) h
  split
  · exact memOk_modLine _ _ _ hv
  · exact memOk_modLine _ _ _ hv
  · exact memOk_modCopseLine _ _ _ hv
  · exact hv

theorem memOk_finishStore {s : State} {op : Nat} {o : Out} {wr : List Wr} {sc : Option Nat} (h : s.MemOk) : (s.finishStore op o wr sc).MemOk := by
  unfold State.finishStore
  dsimp only
  refine memOk_finish ?_
  split
  · exact memOk_dropLive (memOk_ownLines (memOk_clearPoison (memOk_fold (fun _ _ hv => memOk_doWrite hv) (memOk_combineFor h))))
  · exact memOk_ownLines (memOk_clearPoison (memOk_fold (fun _ _ hv => memOk_doWrite hv) (memOk_combineFor h)))

theorem memOk_logDiscard {s : State} {t : Nat} (h : s.MemOk) : (s.logDiscard t).MemOk := by
  unfold State.logDiscard
  dsimp only
  split
  · exact h
  · exact memOk_modDie _ _ (memOk_putHomes _ _ h)

theorem memOk_dropTile {s : State} {t : Nat} (h : s.MemOk) : (s.dropTile t).MemOk := by
  delta State.dropTile
  extract_lets s1 s2
  have h1 : s1.MemOk := memOk_dropCopies (memOk_dropCopies h)
  have h2 : s2.MemOk := memOk_putHomes _ _ (memOk_putHomes _ _ h1)
  exact memOk_logDiscard (memOk_upd h2)

theorem memOk_discardNext {s : State} {op : Nat} {o : Out} {va : DWord} {x1 : List Nat} (h : s.MemOk) : (s.discardNext op o va x1).MemOk := by
  unfold State.discardNext
  dsimp only
  split
  · exact memOk_complete h
  split
  · exact memOk_complete (memOk_dropTile (memOk_combineDrain h))
  · exact memOk_setOut (memOk_dropTile (memOk_combineDrain h))

theorem memOk_putWordAt {s : State} {w : Word} {x1 : Place} (h : s.MemOk) : (s.putWordAt w x1).MemOk := by
  unfold State.putWordAt
  split
  · exact memOk_putWord _ _ h
  · exact memOk_fold (fun _ _ hu => memOk_putScr _ _ _ hu) h

theorem memOk_doWord {s : State} {op : Nat} {o : Out} {a : AtomicSt} {n : Nat} {w : AWord} (h : s.MemOk) : (s.doWord op o a n w).1.MemOk := by
  delta State.doWord
  extract_lets k ws bytes s1 s2 old live
  have h1 : s1.MemOk := memOk_combineFor h
  have h2 : s2.MemOk := by
    unfold s2
    split
    · exact memOk_wordHome h1
    · exact h1
  split
  · exact memOk_pair (memOk_dropLive h2)
  split
  · exact memOk_pair h2
  split
  extract_lets s3 s4
  have h3 : s3.MemOk := memOk_putWordAt h2
  refine memOk_pair (?_ : s4.MemOk)
  unfold s4
  split
  · exact memOk_wordDrop h3
  · exact h3

theorem memOk_combineIn {s : State} {k op : Nat} {o : Out} {et rm pa : Nat} {va : DWord} {x : Word} (h : s.MemOk) :
    (s.combineIn k op o et rm pa va x).MemOk := by
  unfold State.combineIn
  dsimp only
  split
  · exact memOk_setCore h
  refine memOk_modCore _ _ ?_
  split
  · split
    · exact memOk_modCore _ _ (memOk_combineOut (memOk_combineDrain h))
    · exact memOk_combineDrain h
  · exact memOk_combineDrain h

theorem memOk_restWord {s : State} {op : Nat} {o : Out} {a : AtomicSt} {n : Nat} {w : AWord} (h : s.MemOk) : (s.restWord op o a n w).1.MemOk := by
  unfold State.restWord
  dsimp only
  split
  · exact memOk_doWord h
  split
  · exact memOk_pair (memOk_dropLive h)
  · exact memOk_pair (memOk_fold (fun _ _ hv => memOk_combineIn hv) h)

theorem memOk_doWords {s : State} {f : State → AtomicSt → Nat → AWord → State × AtomicSt} {a : AtomicSt} {l : List (Nat × AWord)} (h : s.MemOk)
    (hf : ∀ u b n w, u.MemOk → (f u b n w).1.MemOk) :
    (s.doWords f a l).1.MemOk := by
  induction l generalizing s a with
  | nil => exact h
  | cons x l ih =>
    unfold State.doWords
    split
    next e =>
    refine ih (memOk_fst e ?_)
    split
    · exact h
    · exact hf _ _ _ _ h

theorem memOk_settleLines {s : State} {op : Nat} {o : Out} (h : s.MemOk) : (s.settleLines op o).MemOk := by
  unfold State.settleLines
  dsimp only
  split
  · exact memOk_disownOp _ h
  · exact h

theorem memOk_restAll {s : State} {op : Nat} {o : Out} {a : AtomicSt} (h : s.MemOk) : (s.restAll op o a).MemOk :=
  memOk_finish (memOk_settleLines (memOk_doWords h (fun _ _ _ _ hu => memOk_restWord hu)))

theorem optOk_evLoadDataReturn {op : Nat} {s : State} (h : s.MemOk) : OptOk (evLoadDataReturn op s) := by
  unfold evLoadDataReturn
  split
  · exact optOk_none
  refine optOk_due (optOk_through h (fun _ hu => ?_))
  split
  · exact optOk_some (memOk_finishLoad hu)
  · exact optOk_some (memOk_finishSload hu)
  · exact optOk_some (memOk_finishTagget hu)
  · exact optOk_some (memOk_complete hu)
  · exact optOk_finishPtld hu
  · exact optOk_none

theorem optOk_evStorePerformed {op : Nat} {s : State} (h : s.MemOk) : OptOk (evStorePerformed op s) := by
  unfold evStorePerformed
  split
  · exact optOk_none
  refine optOk_due ?_
  split
  · exact optOk_due (optOk_through h (fun _ hu => optOk_some (memOk_finishStore hu)))
  · exact optOk_due (optOk_through h (fun _ hu => optOk_some (memOk_discardNext hu)))
  · split
    · exact optOk_none
    split
    · exact optOk_due (optOk_some (memOk_restAll h))
    · exact optOk_due (optOk_some (memOk_setOut (memOk_uncount (memOk_combineFor h))))
  · exact optOk_none

theorem optOk_evAtomicAtHome {op k : Nat} {s : State} (h : s.MemOk) : OptOk (evAtomicAtHome op k s) := by
  unfold evAtomicAtHome
  dsimp only
  split
  · exact optOk_none
  split
  · exact optOk_none
  split
  · exact optOk_none
  refine optOk_due ?_
  split
  · split
    · exact optOk_some (memOk_finish (memOk_doWord (memOk_serve h)))
    · exact optOk_some (memOk_setOut (memOk_doWord (memOk_serve h)))
  · split
    · exact optOk_some (memOk_finish (memOk_doWord h))
    · exact optOk_some (memOk_setOut (memOk_doWord h))

theorem memOk_finishAtomic {s : State} {op : Nat} {o : Out} {a : AtomicSt} (h : s.MemOk) : (s.finishAtomic op o a).MemOk := by
  unfold State.finishAtomic
  dsimp only
  split
  · exact memOk_finish (memOk_modOwner h)
  · exact memOk_lateTrap (memOk_finish (memOk_uncommit (memOk_modOwner h)))

theorem optOk_evAtomicReply {op : Nat} {s : State} (h : s.MemOk) : OptOk (evAtomicReply op s) := by
  unfold evAtomicReply
  split
  · exact optOk_none
  split
  · exact optOk_none
  · exact optOk_due (optOk_some (memOk_finishAtomic h))

theorem optOk_evCombineEntryTimeout {core k : Nat} {s : State} (h : s.MemOk) : OptOk (evCombineEntryTimeout core k s) := by
  unfold evCombineEntryTimeout
  dsimp only
  split
  · exact optOk_none
  · exact optOk_due (optOk_some (memOk_modCore _ _ (memOk_combineOut (memOk_reachCyc h))))

theorem memOk_advanceChain {s : State} {c : Option (Nat × Nat)} (h : s.MemOk) : (s.advanceChain c).MemOk := by
  unfold State.advanceChain
  split
  · exact h
  split <;> exact h

theorem optOk_evPublicationComplete {pub : Nat} {s : State} (h : s.MemOk) : OptOk (evPublicationComplete pub s) := by
  unfold evPublicationComplete
  dsimp only
  split
  · exact optOk_none
  · exact optOk_due (optOk_some (memOk_advanceChain (memOk_upd (memOk_combineDrain (memOk_publishCore _ _ h)))))

/-! ### EvLaunch -/

theorem memOk_countDrop {s : State} {q : Nat} (h : s.MemOk) : (s.countDrop q).MemOk := h

theorem memOk_windowEnqueue {s : State} {q : Nat} {bytes : List Byte} (h : s.MemOk) : (s.windowEnqueue q bytes).1.MemOk := by
  unfold State.windowEnqueue
  split
  next e =>
  have h1 := memOk_fst e (memOk_enqueue h)
  exact memOk_pair (memOk_ite h1 (memOk_countDrop h1))

theorem optOk_evLaunchRecordEnqueue {q : Nat} {bytes : List Byte} {s : State} (h : s.MemOk) : OptOk (evLaunchRecordEnqueue q bytes s) := by
  unfold evLaunchRecordEnqueue
  split
  · exact optOk_some (memOk_countDrop h)
  split
  · exact optOk_some h
  · exact optOk_some (memOk_windowEnqueue h)

theorem optOk_evForwardedRecord {msg : List Byte} {s : State} (h : s.MemOk) : OptOk (evForwardedRecord msg s) := by
  unfold evForwardedRecord
  dsimp only
  refine optOk_due (optOk_some (memOk_tell _ ?_))
  split
  · split
    · exact memOk_windowEnqueue h
    · exact h
  · split
    · exact memOk_windowEnqueue h
    · exact h

theorem optOk_evGrovePlacement {die : Nat} {s : State} (h : s.MemOk) : OptOk (evGrovePlacement die s) :=
  optOk_due (optOk_findSome (fun _ => optOk_mapState (optOk_tryPlace h) (fun _ hu => memOk_modDie _ _ hu)))

theorem optOk_evColevelLaunchPlacement {die : Nat} {s : State} (h : s.MemOk) : OptOk (evColevelLaunchPlacement die s) :=
  optOk_due (optOk_findSome (fun _ => optOk_mapState (optOk_tryColevel h) (fun _ hu => memOk_modDie _ _ hu)))

theorem optOk_evStealMessage {die : Nat} {s : State} (h : s.MemOk) : OptOk (evStealMessage die s) := by
  unfold evStealMessage
  dsimp only
  refine optOk_findSome (fun _ => ?_)
  split
  · exact optOk_none
  · exact optOk_map (fun _ => memOk_modLaunch h)

theorem memOk_orphanOuts {s : State} {uid : Nat} (h : s.MemOk) : (s.orphanOuts uid).MemOk := h

theorem memOk_leaveGrove {s : State} {gid standid : Nat} (h : s.MemOk) : (s.leaveGrove gid standid).MemOk := by
  unfold State.leaveGrove
  dsimp only
  split
  · exact memOk_modLaunch (memOk_removeGrove h)
  · exact memOk_setGrove h

theorem memOk_retire {s : State} {key : Nat} (h : s.MemOk) : (s.retire key).MemOk := by
  delta State.retire
  extract_lets st s1 s2
  have h1 : s1.MemOk := memOk_leaveAll (memOk_orphanLines h)
  have h2 : s2.MemOk := memOk_orphanOuts (memOk_removeStand h1)
  exact memOk_yieldCore (memOk_leaveGrove h2)

theorem optOk_evStandRetire {key : Nat} {s : State} (h : s.MemOk) : OptOk (evStandRetire key s) := by
  unfold evStandRetire
  split
  · exact optOk_none
  split
  · exact optOk_none
  split
  · exact optOk_some (memOk_flushAll h)
  · exact optOk_due (optOk_some (memOk_retire h))

theorem memOk_dropLaunch {s : State} {l : Nat} (h : s.MemOk) : (s.dropLaunch l).MemOk := by
  unfold State.dropLaunch
  dsimp only
  split <;> exact h

theorem memOk_tellDone {s : State} {l : Nat} (h : s.MemOk) : (s.tellDone l).MemOk := by
  unfold State.tellDone
  dsimp only
  split
  · exact memOk_tell _ (memOk_tell _ h)
  · exact h

theorem memOk_countGrove {s : State} {l pa : Nat} (h : s.MemOk) : (s.countGrove l pa).MemOk := by
  unfold State.countGrove
  dsimp only
  split
  · exact h
  · exact memOk_decrement (memOk_ite (memOk_putHome _ _ h) h)

theorem optOk_evCompletionCounterDecrement {l : Nat} {s : State} (h : s.MemOk) : OptOk (evCompletionCounterDecrement l s) := by
  unfold evCompletionCounterDecrement
  dsimp only
  split
  · exact optOk_none
  refine optOk_due (optOk_some (memOk_dropLaunch (memOk_tellDone ?_)))
  split
  · exact memOk_countGrove (memOk_modLaunch (memOk_fold (fun _ _ hu => memOk_combineDrain (memOk_publishCore _ _ hu)) h))
  · exact memOk_modLaunch (memOk_fold (fun _ _ hu => memOk_combineDrain (memOk_publishCore _ _ hu)) h)

/-! ### EvCtx -/

theorem memOk_switchCore {s : State} {k : Nat} (h : s.MemOk) : (s.switchCore k).MemOk := memOk_modCore _ _ h

theorem optOk_evSwitchCommand {k : Nat} {v : DWord} {s : State} (h : s.MemOk) : OptOk (evSwitchCommand k v s) :=
  optOk_due (optOk_some (memOk_ite (memOk_switchCore (memOk_modCore _ _ h)) (memOk_modCore _ _ h)))

theorem memOk_cresult {s : State} {c r : Nat} (h : s.MemOk) : (s.cresult c r).MemOk := memOk_modCtx _ _ h

theorem optOk_evCcmdAdmit {c : Nat} {s : State} (h : s.MemOk) : OptOk (evCcmdAdmit c s) :=
  optOk_some (memOk_cresult (memOk_ite (memOk_modCtx _ _ h) h))

theorem memOk_endOuts {s : State} {c : Nat} (h : s.MemOk) : (s.endOuts c).MemOk := h

theorem memOk_endContext {s : State} {c : Nat} (h : s.MemOk) : (s.endContext c).MemOk :=
  memOk_modCtx _ _ (memOk_upd (memOk_fold (fun _ _ hu => memOk_freeSlot (memOk_publishFor hu)) (memOk_endOuts (memOk_fold
      (fun _ _ hu => memOk_removeGrove hu) (memOk_fold (fun _ _ hu => memOk_removeStand (memOk_withdrawOffers hu)) (memOk_fold
      (fun _ _ hu => memOk_deleteGroup hu) h))))))

theorem optOk_evCcmdEnd {c : Nat} {s : State} (h : s.MemOk) : OptOk (evCcmdEnd c s) := by
  unfold evCcmdEnd
  split
  · exact optOk_some (memOk_cresult h)
  · exact optOk_some (memOk_endContext h)

theorem optOk_evCcmdVacate {c : Nat} {s : State} (h : s.MemOk) : OptOk (evCcmdVacate c s) := by
  unfold evCcmdVacate
  dsimp only
  split
  · exact optOk_some (memOk_modCtx _ _ (memOk_haltContext h))
  · exact optOk_some (memOk_cresult h)

theorem optOk_evVacateComplete {c : Nat} {s : State} (h : s.MemOk) : OptOk (evVacateComplete c s) :=
  optOk_due (optOk_some (memOk_modCtx _ _ (memOk_fold (fun _ _ hu => memOk_publishFor hu) h)))

theorem optOk_evCcmdRestore {c : Nat} {s : State} (h : s.MemOk) : OptOk (evCcmdRestore c s) := by
  unfold evCcmdRestore
  dsimp only
  split
  · exact optOk_some (memOk_settleRestore (memOk_modCtx _ _ h))
  · exact optOk_some (memOk_cresult h)

theorem optOk_evDebugger {c : Nat} {on : Bool} {s : State} (h : s.MemOk) : OptOk (evDebugger c on s) := by
  unfold evDebugger
  split
  · exact optOk_some (memOk_cresult h)
  · exact optOk_some (memOk_modCtx _ _ h)

theorem memOk_issueAgain {s : State} {o : Out} {rep : Reply} (h : s.MemOk) : (s.issueAgain o rep).MemOk := by
  unfold State.issueAgain
  dsimp only
  split
  · exact h
  · exact memOk_modCtx _ _ h

theorem memOk_uncountImage {s : State} {o : Out} {rep : Reply} {k : Kernel} {x : SavedStand} (h : s.MemOk) : (s.uncountImage o rep k x).MemOk := by
  unfold State.uncountImage
  split
  · exact memOk_putHomes _ _ h
  · exact h

theorem optOk_evReplySlotWrite {c op : Nat} {s : State} (h : s.MemOk) : OptOk (evReplySlotWrite c op s) := by
  unfold evReplySlotWrite
  dsimp only
  split
  · exact optOk_none
  split
  · exact optOk_due (optOk_some (memOk_dropOut (memOk_issueAgain (memOk_sealImage _ _ (memOk_uncountImage (memOk_putHomes _ _
      (memOk_putHomes _ _ h)))))))
  · exact optOk_none

theorem memOk_dropTlb {s : State} {die : Nat} {f : TlbEntry → Bool} (h : s.MemOk) : (s.dropTlb die f).MemOk := h

theorem memOk_invalidate {s : State} {die c : Nat} {f : TlbEntry → Bool} (h : s.MemOk) : (s.invalidate die c f).MemOk :=
  memOk_modDie _ _ (memOk_dropTlb h)

/-! ### EvEng -/

theorem memOk_clearToken {s : State} {o : Out} (h : s.MemOk) : (s.clearToken o).MemOk := by
  unfold State.clearToken
  split
  · exact h
  split
  · exact h
  · exact memOk_modOwner h

theorem memOk_fillSlot {s : State} {k p : Nat} {desc : OpSlot} {data scales : List Byte} (h : s.MemOk) : (s.fillSlot k p desc data scales).MemOk :=
  memOk_modCore _ _ h

theorem memOk_copyOutByte {s : State} {k : Nat} {sc : Option Nat} {x : Byte × Place} (h : s.MemOk) : (s.copyOutByte k sc x).MemOk := by
  unfold State.copyOutByte
  split
  · split
    · exact h
    · exact memOk_writePlace _ _ _ _ h
  · exact memOk_writePlace _ _ _ _ h

theorem memOk_finishCopy {s : State} {op : Nat} {o : Out} {mv : List (Place × Place)} {slot : Option (Nat × OpSlot)} {out : Bool} (h : s.MemOk) :
    (s.finishCopy op o mv slot out).MemOk := by
  unfold State.finishCopy
  dsimp only
  split
  · exact memOk_flatPoison (memOk_clearToken (memOk_abandon (memOk_readAll (memOk_combineFor h))))
  split
  · exact memOk_fillSlot (memOk_clearToken (memOk_complete (memOk_readAll (memOk_combineFor h))))
  · exact memOk_fold (fun _ _ hv => memOk_grouplineCheck _ _ _ hv) (memOk_ite (memOk_ownLines (memOk_clearPoison (memOk_fold
      (fun _ _ hv => memOk_copyOutByte hv) (memOk_clearToken (memOk_complete (memOk_readAll (memOk_combineFor h))))))) (memOk_fold
      (fun _ _ hv => memOk_copyOutByte hv) (memOk_clearToken (memOk_complete (memOk_readAll (memOk_combineFor h))))))

theorem optOk_evCopyComplete {op : Nat} {s : State} (h : s.MemOk) : OptOk (evCopyComplete op s) := by
  unfold evCopyComplete
  split
  · exact optOk_none
  split
  · exact optOk_due (optOk_through h (fun _ hu => optOk_some (memOk_finishCopy hu)))
  · exact optOk_none

theorem optOk_evOldFillComplete {op : Nat} {s : State} (h : s.MemOk) : OptOk (evOldFillComplete op s) := by
  unfold evOldFillComplete
  dsimp only
  split
  · exact optOk_none
  split
  · exact optOk_due (optOk_some (memOk_fillSlot (memOk_complete h)))
  · exact optOk_none

theorem optOk_evMmaArrayStart {op : Nat} {s : State} (h : s.MemOk) : OptOk (evMmaArrayStart op s) := by
  unfold evMmaArrayStart
  dsimp only
  split
  · exact optOk_none
  split
  · exact optOk_due (optOk_map (fun _ => memOk_setOut h))
  · exact optOk_none

theorem optOk_evMmaFinish {op : Nat} {s : State} (h : s.MemOk) : OptOk (evMmaFinish op s) := by
  unfold evMmaFinish
  split
  · exact optOk_none
  split
  · exact optOk_due (optOk_some (memOk_complete (memOk_finishMma h)))
  · exact optOk_none

theorem memOk_finishAld {s : State} {op : Nat} {o : Out} {rows : List Nat} (h : s.MemOk) : (s.finishAld op o rows).MemOk := by
  unfold State.finishAld
  dsimp only
  split
  · exact memOk_flatPoison (memOk_abandon (memOk_readAll (memOk_combineFor h)))
  · exact memOk_complete (memOk_modOwner (memOk_readAll (memOk_combineFor h)))

theorem optOk_evAldComplete {op : Nat} {s : State} (h : s.MemOk) : OptOk (evAldComplete op s) := by
  unfold evAldComplete
  split
  · exact optOk_none
  split
  · exact optOk_due (optOk_through h (fun _ hu => optOk_some (memOk_finishAld hu)))
  · exact optOk_none

theorem optOk_evCbldTableWrite {op : Nat} {s : State} (h : s.MemOk) : OptOk (evCbldTableWrite op s) := by
  unfold evCbldTableWrite
  dsimp only
  split
  · exact optOk_none
  split
  · refine optOk_due (optOk_through h (fun _ hu => ?_))
    split
    · exact optOk_some (memOk_flatPoison (memOk_abandon (memOk_readAll (memOk_combineFor hu))))
    · exact optOk_some (memOk_modSlot (memOk_complete (memOk_readAll (memOk_combineFor hu))))
  · exact optOk_none

/-! ### EvQueue -/

theorem optOk_evQueueOpAtController {op : Nat} {s : State} (h : s.MemOk) : OptOk (evQueueOpAtController op s) := by
  unfold evQueueOpAtController
  split
  · refine optOk_due ?_
    split
    · exact optOk_through h (fun _ hu => optOk_some (memOk_queueAct hu))
    · exact optOk_through h (fun _ hu => optOk_some (memOk_queueAct hu))
    · exact optOk_through h (fun _ hu => optOk_some (memOk_queueAct hu))
    · exact optOk_through h (fun _ hu => optOk_some (memOk_chainAct hu))
    · exact optOk_through h (fun _ hu => optOk_some (memOk_chainAct hu))
    · exact optOk_none
  · exact optOk_none

theorem optOk_evRemoteQenqMessage {m : Nat} {s : State} (h : s.MemOk) : OptOk (evRemoteQenqMessage m s) := by
  unfold evRemoteQenqMessage
  split
  · exact optOk_due (optOk_through h (fun _ hu => optOk_some (memOk_queueAct hu)))
  · exact optOk_none
  split
  · exact optOk_due (optOk_some (memOk_trySuccessor h))
  · exact optOk_none

theorem optOk_evSuccessorEnqueueRetry {m : Nat} {s : State} (h : s.MemOk) : OptOk (evSuccessorEnqueueRetry m s) := by
  unfold evSuccessorEnqueueRetry
  split
  · exact optOk_due (optOk_some (memOk_trySuccessor h))
  · exact optOk_none

theorem optOk_evCounterDecrementAtHome {op : Nat} {s : State} (h : s.MemOk) : OptOk (evCounterDecrementAtHome op s) := by
  unfold evCounterDecrementAtHome
  split
  · split
    · refine optOk_due (optOk_through h fun _ hu => ?_)
      split
      · exact optOk_some (memOk_replyTo hu)
      split
      next e =>
      have hv := memOk_fst e (memOk_decrement (memOk_lineHome (memOk_combineFor hu)))
      exact optOk_some (memOk_replyTo (memOk_lineDrop hv))
    · exact optOk_none
  · exact optOk_none

theorem memOk_setFull {s : State} {op pa : Nat} {v : Bool} (h : s.MemOk) : (s.setFull op pa v).MemOk := by
  unfold State.setFull
  split <;> exact memOk_replyTo h

theorem optOk_evBufferBitAtHome {op : Nat} {s : State} (h : s.MemOk) : OptOk (evBufferBitAtHome op s) := by
  unfold evBufferBitAtHome
  split
  · refine optOk_due ?_
    split
    · exact optOk_through h (fun _ hu => optOk_some (memOk_setFull hu))
    · exact optOk_through h (fun _ hu => optOk_some (memOk_setFull hu))
    · exact optOk_through h (fun _ hu => optOk_some (memOk_replyTo hu))
    · exact optOk_none
  · exact optOk_none

theorem optOk_evIoEntryStart {chain : Nat} {s : State} (h : s.MemOk) : OptOk (evIoEntryStart chain s) := by
  unfold evIoEntryStart
  dsimp only
  split
  · exact optOk_none
  · exact optOk_due (optOk_some (memOk_setChain h))

theorem memOk_dmaWrite {s : State} {c : Nat} {va : DWord} {bs : List Byte} (h : s.MemOk) : (s.dmaWrite c va bs).1.MemOk := by
  induction bs generalizing s va with
  | nil => exact h
  | cons b bs ih =>
    unfold State.dmaWrite
    split
    · exact h
    · exact ih (memOk_ite h (memOk_putHome _ _ h))

theorem memOk_ioWrite {s : State} {c ck : Nat} {va : DWord} {bs : List Byte} (h : s.MemOk) : (s.ioWrite c ck va bs).1.MemOk :=
  memOk_fold (fun _ _ hu => memOk_grouplineCheck _ _ _ hu) (memOk_clearPoison (memOk_dmaWrite h))

theorem memOk_movePacket {s : State} {c ck : Nat} {x : IoEntry} {i : Nat} {bs : List Byte} (h : s.MemOk) : (s.movePacket c ck x i bs).1.MemOk := by
  unfold State.movePacket
  dsimp only
  split
  · exact memOk_pair (memOk_ioWrite h)
  split
  · exact h
  split
  · exact h
  · exact memOk_pair (memOk_tell _ h)

theorem memOk_movePackets {s : State} {c ck : Nat} {x : IoEntry} {bs : List Byte} {is : List Nat} (h : s.MemOk) :
    (s.movePackets c ck x bs is).1.MemOk := by
  induction is generalizing s with
  | nil => exact h
  | cons i is ih =>
    unfold State.movePackets
    split
    · next e => exact ih (memOk_fst e (memOk_movePacket h))
    · exact memOk_movePacket h

theorem memOk_moveEntry {s : State} {c ck : Nat} {x : IoEntry} {bs : List Byte} {fails : Option Byte} (h : s.MemOk) :
    (s.moveEntry c ck x bs fails).1.MemOk := by
  unfold State.moveEntry
  dsimp only
  split
  · exact memOk_pair (memOk_ioWrite h)
  · exact memOk_movePackets h

theorem memOk_afterPacket {s : State} {ck : Nat} {x : IoEntry} {i : Nat} (h : s.MemOk) : (s.afterPacket ck x i).MemOk := h

theorem memOk_finishEntry {s : State} {ck n code : Nat} (h : s.MemOk) : (s.finishEntry ck n code).MemOk := by
  unfold State.finishEntry
  dsimp only
  split
  · exact h
  · exact memOk_setChain (memOk_putHomes _ _ h)

theorem optOk_evIoEntryComplete {chain n : Nat} {dev : DevResult} {s : State} (h : s.MemOk) : OptOk (evIoEntryComplete chain n dev s) := by
  unfold evIoEntryComplete
  split
  · exact optOk_none
  split
  · exact optOk_none
  refine optOk_due ?_
  split
  · exact optOk_some (memOk_finishEntry h)
  split
  · exact optOk_some (memOk_finishEntry h)
  split
  · split
    · exact optOk_some (memOk_finishEntry h)
    · exact optOk_due (optOk_some (memOk_finishEntry h))
  · split
    · exact optOk_some (memOk_finishEntry h)
    split
    · exact optOk_due (optOk_some (memOk_ite (memOk_afterPacket (memOk_movePacket h)) (memOk_finishEntry (memOk_movePacket h))))
    · exact optOk_some (memOk_finishEntry (memOk_moveEntry h))
    · exact optOk_some (memOk_finishEntry (memOk_moveEntry h))

/-! ### EvErr -/

theorem memOk_stopIssue {s : State} {key : Nat} (h : s.MemOk) : (s.stopIssue key).MemOk :=
  memOk_modStand _ _ (memOk_modSlot (memOk_fold (fun _ _ hu => memOk_closeLead hu) h))

theorem memOk_resumeRegion {s : State} {key : Nat} (h : s.MemOk) : (s.resumeRegion key).MemOk := by
  unfold State.resumeRegion
  dsimp only
  split
  · split
    · exact memOk_keepOver (memOk_setStand (memOk_orphanLines h))
    · exact memOk_setStand (memOk_orphanLines h)
  · exact h

theorem memOk_settleRestarts {s : State} (h : s.MemOk) : s.settleRestarts.MemOk := memOk_fold (fun _ _ hu => memOk_resumeRegion hu) h

theorem memOk_killOuts {s : State} {uid : Nat} (h : s.MemOk) : (s.killOuts uid).MemOk := h

theorem memOk_killStand {s : State} {key : Nat} (h : s.MemOk) : (s.killStand key).MemOk :=
  memOk_killOuts (memOk_removeStand (memOk_upd (memOk_modCore _ _ (memOk_withdrawOffers (memOk_leaveAll (memOk_orphanLines (memOk_squashStand h)))))))

theorem memOk_killSaved {s : State} {c gid : Nat} (h : s.MemOk) : (s.killSaved c gid).MemOk :=
  memOk_modCtx _ _ (memOk_fold (fun _ _ hu => memOk_killOuts (memOk_leaveAll hu)) h)

theorem memOk_killGrove {s : State} {gid : Nat} (h : s.MemOk) : (s.killGrove gid).MemOk := by
  unfold State.killGrove
  dsimp only
  split
  · exact memOk_yieldCore (memOk_modLaunch (memOk_removeGrove (memOk_killSaved (memOk_fold (fun _ _ hu => memOk_killStand hu) h))))
  · exact memOk_fatal (memOk_removeGrove (memOk_killSaved (memOk_fold (fun _ _ hu => memOk_killStand hu) h)))

theorem memOk_noteError {s : State} {d structure_ ctx gsi loc : Nat} (h : s.MemOk) : (s.noteError d structure_ ctx gsi loc).MemOk :=
  memOk_logError _ _ h

theorem memOk_standError {s : State} {key : Nat} {st : Stand} {part : StandPart} (h : s.MemOk) : (s.standError key st part).MemOk := by
  unfold State.standError
  dsimp only
  split
  · exact memOk_settleRestarts (memOk_stopIssue (memOk_noteError h))
  · exact memOk_fatal (memOk_noteError h)

theorem optOk_lineError {s : State} {copse : Bool} {n line : Nat} (h : s.MemOk) : OptOk (s.lineError copse n line) := by
  unfold State.lineError
  dsimp only
  split
  · exact optOk_due (optOk_some (memOk_noteError (memOk_setCopse _ _ h)))
  · exact optOk_due (optOk_some (memOk_noteError (memOk_setCore h)))

theorem optOk_queueError {s : State} {q k : Nat} (h : s.MemOk) : OptOk (s.queueError q k) := by
  unfold State.queueError
  dsimp only
  split
  · exact optOk_none
  · exact optOk_due (optOk_some (memOk_ite (memOk_noteError (memOk_setQueue h)) (memOk_report (memOk_noteError (memOk_setQueue h)))))

theorem optOk_evUncorrectableError {loc : ErrLoc} {s : State} (h : s.MemOk) : OptOk (evUncorrectableError loc s) := by
  unfold evUncorrectableError
  split
  · exact optOk_map (fun _ => memOk_standError h)
  · exact optOk_lineError h
  · exact optOk_due (optOk_some (memOk_noteError (memOk_setPoison h)))
  · exact optOk_map (fun _ => memOk_killGrove (memOk_noteError h))
  · split
    · exact optOk_none
    · exact optOk_due (optOk_some (memOk_setStand (memOk_noteError h)))
  · split
    · exact optOk_none
    · exact optOk_due (optOk_some (memOk_setTile (memOk_noteError h)))
  · exact optOk_queueError h
  · exact optOk_due (optOk_some (memOk_noteError (memOk_setPoison h)))

theorem memOk_drainCore {s : State} {k : Nat} {onto : Option Nat} (h : s.MemOk) : (s.drainCore k onto).MemOk := by
  unfold State.drainCore
  dsimp only
  split
  · exact memOk_fold (fun _ _ hu => memOk_takeSlot hu) (memOk_fold (fun _ _ hu => memOk_freeSlot hu) (memOk_combineDrain (memOk_publishCore _ _
      (memOk_fold (fun _ _ hu => memOk_haltGrove hu) h))))
  · exact memOk_fold (fun _ _ hu => memOk_freeSlot hu) (memOk_combineDrain (memOk_publishCore _ _ (memOk_fold (fun _ _ hu => memOk_haltGrove hu) h)))

theorem memOk_clearProvisional {s : State} {k l : Nat} (h : s.MemOk) : (s.clearProvisional k l).MemOk := by
  unfold State.clearProvisional
  dsimp only
  split
  · split
    · exact memOk_dropLaunch h
    · exact memOk_dropLaunch (memOk_putHome _ _ (memOk_publishCore _ _ h))
  · exact h

theorem memOk_passScan {s : State} {k : Nat} (h : s.MemOk) : (s.passScan k).MemOk :=
  memOk_fold (fun _ _ hu => memOk_clearProvisional (memOk_modLaunch hu)) h

theorem memOk_retireCore {s : State} {k : Nat} (h : s.MemOk) : (s.retireCore k).MemOk :=
  memOk_fold (fun _ _ hu => memOk_tell _ hu) (memOk_modCore _ _ h)

theorem memOk_rotate {s : State} {cp k : Nat} {back : Bool} (h : s.MemOk) : (s.rotate cp k back).MemOk := by
  unfold State.rotate
  dsimp only
  split
  · exact h
  split
  · exact memOk_modCore _ _ (memOk_modCore _ _ (memOk_drainCore h))
  · exact memOk_modCore _ _ (memOk_drainCore h)

theorem optOk_evCoppiceScanEnd {die copse : Nat} {pass : Bool} {s : State} (h : s.MemOk) : OptOk (evCoppiceScanEnd die copse pass s) := by
  unfold evCoppiceScanEnd
  dsimp only
  split
  · exact optOk_none
  · exact optOk_due (optOk_some (memOk_ite (memOk_rotate (memOk_passScan h)) (memOk_rotate (memOk_retireCore h))))

theorem optOk_evErrorSelfTest {tgt : TestTarget} {pass : Bool} {s : State} (h : s.MemOk) : OptOk (evErrorSelfTest tgt pass s) := by
  unfold evErrorSelfTest
  split
  · exact optOk_some (memOk_ite h (memOk_tell _ h))
  · exact optOk_due (optOk_some (memOk_ite (memOk_ite (memOk_drainCore h) h) (memOk_ite (memOk_retireCore (memOk_drainCore h)) (memOk_rotate
      (memOk_retireCore h)))))

theorem optOk_evPageFaultResolved {key idx : Nat} {s : State} (h : s.MemOk) : OptOk (evPageFaultResolved key idx s) := by
  unfold evPageFaultResolved
  split
  · exact optOk_none
  split
  · exact optOk_some (memOk_setStand h)
  · exact optOk_map (fun _ => memOk_setStand h)

theorem optOk_evPageFaultFatal {key idx : Nat} {s : State} (h : s.MemOk) : OptOk (evPageFaultFatal key idx s) := by
  unfold evPageFaultFatal
  split
  · exact optOk_none
  split
  · exact optOk_due (optOk_some (memOk_takeTrap h))
  · exact optOk_map (fun _ => memOk_takeTrap h)

theorem memOk_failOp {s : State} {op : Nat} {o : Out} (h : s.MemOk) : (s.failOp op o).MemOk := by
  unfold State.failOp
  split
  · split
    · exact memOk_complete h
    · exact memOk_dropOut (memOk_modHome (memOk_leaveDrain (memOk_ite (memOk_growRefund h) h)))
  · exact memOk_complete (memOk_growRefund h)
  · exact memOk_clearToken (memOk_finish h)

theorem memOk_failPub {s : State} {id key : Nat} (h : s.MemOk) : (s.failPub id key).MemOk := by
  unfold State.failPub
  dsimp only
  split
  · exact memOk_lateTrap (memOk_failOp (memOk_uncommit h))
  · exact memOk_modStand _ _ h

theorem memOk_dropPub {s : State} {p : Pub} (h : s.MemOk) : (s.dropPub p).MemOk := by
  unfold State.dropPub
  dsimp only
  split
  · exact memOk_failPub h
  · exact h

theorem memOk_arm {s : State} {o : Out} {a : Armed} (h : s.MemOk) : (s.arm o a).MemOk := by
  unfold State.arm
  split
  · exact memOk_modStand _ _ h
  · exact memOk_modCtx _ _ h

theorem memOk_closeSlot {s : State} {o : Out} (h : s.MemOk) : (s.closeSlot o).MemOk := by
  unfold State.closeSlot
  split
  · exact memOk_sealImage _ _ (memOk_putHomes _ _ h)
  · exact h

theorem optOk_evRemoteOpTimeout {op : Nat} {s : State} (h : s.MemOk) : OptOk (evRemoteOpTimeout op s) := by
  unfold evRemoteOpTimeout
  dsimp only
  split
  · exact optOk_due (optOk_some (memOk_arm (memOk_closeSlot (memOk_fold (fun _ _ hu => memOk_dropPub hu) (memOk_failOp h)))))
  · exact optOk_due (optOk_some (memOk_dropPub h))
  · exact optOk_none

theorem optOk_evWatchdogExpiry {key : Nat} {s : State} (h : s.MemOk) : OptOk (evWatchdogExpiry key s) := by
  unfold evWatchdogExpiry
  dsimp only
  split
  · exact optOk_none
  · exact optOk_due (optOk_some (memOk_report (memOk_modStand _ _ (memOk_reachCyc h))))

/-! ### EvDbg -/

theorem memOk_haltOne {s : State} {c key : Nat} (h : s.MemOk) : (s.haltOne c key).MemOk := by
  unfold State.haltOne
  split
  next e => exact memOk_modCtx _ _ (memOk_fst e (memOk_haltStand h))

theorem optOk_evDebugHalt {c : Nat} {tgt : HaltTarget} {s : State} (h : s.MemOk) : OptOk (evDebugHalt c tgt s) := by
  unfold evDebugHalt
  refine optOk_due ?_
  split
  · split
    · exact optOk_none
    · exact optOk_due (optOk_some (memOk_haltOne h))
  · split
    · exact optOk_none
    · exact optOk_due (optOk_some (memOk_haltGrove h))

theorem memOk_holdImage {s : State} {ker : Kernel} {image idx : Nat} {on : Bool} (h : s.MemOk) : (s.holdImage ker image idx on).MemOk :=
  memOk_sealImage _ _ (memOk_putHome _ _ h)

theorem optOk_hold {s : State} {key idx : Nat} {on : Bool} {f : Path → Path} (h : s.MemOk) : OptOk (s.hold key idx on f) := by
  unfold State.hold
  refine optOk_due ?_
  split
  · exact optOk_due (optOk_some (memOk_setStand h))
  split
  · exact optOk_due (optOk_some (memOk_holdImage h))
  · exact optOk_none

theorem optOk_evSingleStep {key idx : Nat} {s : State} (h : s.MemOk) : OptOk (evSingleStep key idx s) := by
  unfold evSingleStep
  split
  · exact optOk_none
  · exact optOk_due (optOk_some (memOk_setStand h))

theorem optOk_evBreakpointHit {key idx : Nat} {s : State} (h : s.MemOk) : OptOk (evBreakpointHit key idx s) := by
  unfold evBreakpointHit
  split
  · exact optOk_none
  · exact optOk_due (optOk_some (memOk_tell _ (memOk_setStand h)))

theorem optOk_evSpeculationSquash {key idx : Nat} {s : State} (h : s.MemOk) : OptOk (evSpeculationSquash key idx s) := by
  unfold evSpeculationSquash
  split
  · exact optOk_none
  · exact optOk_due (optOk_some (memOk_squashPath h))

/-! ### EvFab -/

theorem memOk_arrive {s : State} {home : Nat} {r : Req} (h : s.MemOk) : (s.arrive home r).MemOk := memOk_modHome h

theorem optOk_evTokenTapVisit {slice : Nat} {s : State} (h : s.MemOk) : OptOk (evTokenTapVisit slice s) := by
  unfold evTokenTapVisit
  dsimp only
  refine optOk_due ?_
  split
  · exact optOk_some (memOk_setHome h)
  split
  · split
    · refine optOk_some (memOk_setHome ?_)
      split
      · exact memOk_injectFlits h
      · exact h
    · exact optOk_some (memOk_setHome h)
  · split
    · refine optOk_some (memOk_setHome ?_)
      split
      · exact memOk_injectFlits h
      · exact h
    · exact optOk_some (memOk_setHome h)

theorem memOk_passOn {s : State} {op : Nat} (h : s.MemOk) : (s.passOn op).MemOk := by
  unfold State.passOn
  split
  · exact h
  split
  · exact h
  · exact memOk_fold (fun _ _ hu => memOk_injectFlits (memOk_arrive hu)) h

theorem memOk_release {s : State} {src fuel : Nat} (h : s.MemOk) : (s.release src fuel).MemOk := by
  induction fuel generalizing s with
  | zero => exact h
  | succ fuel ih =>
    unfold State.release
    dsimp only
    split
    · exact h
    · exact ih (memOk_passOn h)

theorem optOk_evPacketArrival {src seq op : Nat} {s : State} (h : s.MemOk) : OptOk (evPacketArrival src seq op s) := by
  unfold evPacketArrival
  dsimp only
  refine optOk_due ?_
  split
  · exact optOk_some h
  · exact optOk_some (memOk_release h)

theorem memOk_fatalFabric {s : State} {c : Nat} (h : s.MemOk) : (s.fatalFabric c).MemOk := memOk_fatal h

theorem memOk_fatalAll {s : State} (h : s.MemOk) : s.fatalAll.MemOk := memOk_fold (fun _ _ hu => memOk_fatalFabric hu) h

theorem optOk_evFlitPayloadError {c op : Nat} {s : State} (h : s.MemOk) : OptOk (evFlitPayloadError c op s) := by
  unfold evFlitPayloadError
  dsimp only
  refine optOk_some ?_
  split
  · split
    · refine memOk_dropOut (memOk_fatalFabric ?_)
      split
      · split
        · exact memOk_failOp h
        · exact h
      · exact h
    refine memOk_fatalFabric ?_
    split
    · split
      · exact memOk_failOp h
      · exact h
    · exact h
  · refine memOk_fatalFabric ?_
    split
    · split
      · exact memOk_failOp h
      · exact h
    · exact h

theorem memOk_linkOut {s : State} {link : Nat} (h : s.MemOk) : (s.linkOut link).MemOk := by
  unfold State.linkOut
  dsimp only
  split <;> exact h

/-! ### EvGroup -/

theorem memOk_createGroup {s : State} {op : Nat} {o : Out} {ask : Ask} (h : s.MemOk) : (s.createGroup op o ask).MemOk := by
  unfold State.createGroup
  dsimp only
  split
  · exact memOk_replyTo (memOk_modDie _ _ h)
  split
  · exact memOk_replyTo (memOk_modDie _ _ h)
  split
  · exact memOk_replyTo (memOk_modDie _ _ h)
  · exact memOk_touch (memOk_upd (memOk_replyTo (memOk_setGroup (memOk_modDie _ _ h))))

theorem memOk_joinGroup {s : State} {op : Nat} {o : Out} {ask : Ask} {gk : Nat} {g : Group} (h : s.MemOk) : (s.joinGroup op o ask gk g).MemOk := by
  unfold State.joinGroup
  dsimp only
  split
  · exact memOk_answer h
  split
  · exact memOk_answer h
  split
  · exact memOk_answer h
  · exact memOk_touch (memOk_answer (memOk_setMembers (memOk_setGroup h)))

theorem memOk_groupAct {s : State} {op : Nat} {o : Out} {ask : Ask} {gk : Nat} {g : Group} (h : s.MemOk) : (s.groupAct op o ask gk g).MemOk := by
  unfold State.groupAct
  split
  · exact memOk_joinGroup h
  · split
    · exact memOk_answer h
    · exact memOk_stateLeave (memOk_answer h)
  · exact memOk_replyTo (memOk_touch h)
  · exact memOk_deleteGroup (memOk_dropMember (memOk_answer h))
  · split
    · exact memOk_answer h
    split
    · exact memOk_lodge (memOk_setGroup h)
    · exact memOk_touch (memOk_runOps h)

theorem optOk_evGroupOpAtController {op : Nat} {s : State} (h : s.MemOk) : OptOk (evGroupOpAtController op s) := by
  unfold evGroupOpAtController
  split
  · refine optOk_due ?_
    split
    · exact optOk_through h (fun _ hu => optOk_some (memOk_createGroup hu))
    split
    · exact optOk_none
    refine optOk_through h (fun _ hu => ?_)
    split
    · exact optOk_some (memOk_answer hu)
    · exact optOk_some (memOk_groupAct hu)
  · exact optOk_none

theorem memOk_traceGroup {s : State} {o : Out} {ask : Ask} {rep : Reply} (h : s.MemOk) : (s.traceGroup o ask rep).MemOk := by
  unfold State.traceGroup
  split
  · exact h
  · exact memOk_traceRec _ _ _ _ h

theorem optOk_evGroupReply {op : Nat} {s : State} (h : s.MemOk) : OptOk (evGroupReply op s) := by
  unfold evGroupReply
  dsimp only
  split
  · refine optOk_due (optOk_some ?_)
    split
    · exact memOk_lateTrap (memOk_abandon (memOk_traceGroup h))
    · exact memOk_modOwner (memOk_complete (memOk_traceGroup h))
  · exact optOk_none

theorem optOk_evGredCellsFree {die : Nat} {s : State} (h : s.MemOk) : OptOk (evGredCellsFree die s) := by
  unfold evGredCellsFree
  dsimp only
  split
  · exact optOk_none
  split
  · exact optOk_some (memOk_modDie _ _ h)
  · exact optOk_some (memOk_touch (memOk_modDie _ _ (memOk_runOps (memOk_modDie _ _ (memOk_setGroup h)))))

/-! ### EvObj -/

theorem memOk_objResult {s : State} {die : Nat} {x : DWord} (h : s.MemOk) : (s.objResult die x).MemOk := memOk_modDie _ _ h

theorem memOk_objError {s : State} {die code : Nat} (h : s.MemOk) : (s.objError die code).MemOk := memOk_objResult h

theorem optOk_evCreateQueue {die c : Nat} {s : State} (h : s.MemOk) : OptOk (evCreateQueue die c s) := by
  unfold evCreateQueue
  dsimp only
  split
  · exact optOk_some (memOk_objError h)
  split
  · exact optOk_some (memOk_objError h)
  split
  · exact optOk_some (memOk_objError h)
  · exact optOk_some (memOk_objResult (memOk_setQueue h))

theorem optOk_evCreateChain {die c : Nat} {s : State} (h : s.MemOk) : OptOk (evCreateChain die c s) := by
  unfold evCreateChain
  dsimp only
  split
  · exact optOk_some (memOk_objError h)
  split
  · exact optOk_some (memOk_objError h)
  split
  · exact optOk_some (memOk_objError h)
  · exact optOk_some (memOk_objResult (memOk_setChain h))

theorem optOk_evCreateEndpoint {die c : Nat} {s : State} (h : s.MemOk) : OptOk (evCreateEndpoint die c s) := by
  unfold evCreateEndpoint
  dsimp only
  split
  · exact optOk_some (memOk_objError h)
  split
  · exact optOk_some (memOk_objError h)
  split
  · exact optOk_some (memOk_objError h)
  · exact optOk_some (memOk_objResult h)

theorem optOk_evDestroyQueue {die c : Nat} {s : State} (h : s.MemOk) : OptOk (evDestroyQueue die c s) := by
  unfold evDestroyQueue
  dsimp only
  split
  · split
    · exact optOk_some (memOk_objError h)
    · exact optOk_some (memOk_objResult (memOk_bumpGen h))
  · exact optOk_some (memOk_objError h)

theorem optOk_evDestroyChain {die c : Nat} {s : State} (h : s.MemOk) : OptOk (evDestroyChain die c s) := by
  unfold evDestroyChain
  split
  · split
    · exact optOk_some (memOk_objError h)
    · exact optOk_some (memOk_objResult (memOk_bumpGen h))
  · exact optOk_some (memOk_objError h)

theorem optOk_evDestroyEndpoint {die c : Nat} {s : State} (h : s.MemOk) : OptOk (evDestroyEndpoint die c s) := by
  unfold evDestroyEndpoint
  split
  · split
    · exact optOk_some (memOk_objError h)
    · exact optOk_some (memOk_objResult (memOk_bumpGen h))
  · exact optOk_some (memOk_objError h)

theorem memOk_ifaceError {s : State} {i : Nat} (h : s.MemOk) : (s.ifaceError i).MemOk := memOk_fold (fun _ _ hu => memOk_fatal hu) (memOk_setIface h)

theorem memOk_clearSave {s : State} {c : Nat} (h : s.MemOk) : (s.clearSave c).MemOk := memOk_fold (fun _ _ hv => memOk_zeroRange _ _ hv) h

theorem optOk_evStopInterfaceRequest {i : Nat} {s : State} (h : s.MemOk) : OptOk (evStopInterfaceRequest i s) :=
  optOk_some (memOk_setIface (memOk_fold (fun _ _ hu => hu) (memOk_fold (fun _ _ hu => memOk_clearSave (memOk_ite hu (memOk_endContext hu))) h)))

theorem memOk_frozenWrite {s : State} {c : Nat} {f : State → State} (h : s.MemOk) (hk : ∀ (u : State), u.MemOk → (f u).MemOk) :
    (s.frozenWrite c f).MemOk := by
  unfold State.frozenWrite
  split
  · split
    · exact memOk_ifaceError h
    split
    · exact hk _ h
    · exact h
  · split
    · exact hk _ h
    · exact h

theorem memOk_writeCtxReg {s : State} {c off : Nat} {v : DWord} (h : s.MemOk) : (s.writeCtxReg c off v).MemOk := by
  have hf : ∀ f, (s.frozenWrite c fun u => u.modCtx c f).MemOk := fun f => memOk_frozenWrite h fun _ hu => memOk_modCtx c f hu
  unfold State.writeCtxReg
  exact memOk_ite (hf _) (memOk_ite (hf _) (memOk_ite (hf _) (memOk_ite (hf _) (memOk_ite h (memOk_ite h (memOk_ite h (memOk_ite h
    (memOk_ite h (memOk_ite h (memOk_ite h (memOk_ite h (memOk_ite h (memOk_ite h h)))))))))))))

theorem memOk_writeDieReg {s : State} {d off : Nat} {v : DWord} (h : s.MemOk) : (s.writeDieReg d off v).MemOk := by
  unfold State.writeDieReg
  exact memOk_ite h (memOk_ite h (memOk_ite h (memOk_ite h (memOk_ite h (memOk_ite (memOk_frozenWrite h fun _ hu => hu)
    (memOk_ite (memOk_ite h h) (memOk_ite h (memOk_ite h (memOk_ite h (memOk_ite h h))))))))))

theorem memOk_writeIfReg {s : State} {i off : Nat} {v : DWord} (h : s.MemOk) : (s.writeIfReg i off v).MemOk := by
  unfold State.writeIfReg
  dsimp only
  split
  · split
    · exact memOk_ifaceError h
    · exact memOk_setIface h
  · split
    · split
      · exact memOk_ifaceError h
      · exact memOk_setIface h
    · split
      · split
        · exact memOk_ifaceError h
        · exact memOk_setIface h
      · exact h

theorem optOk_evConfigRegisterWrite {addr size : Nat} {v : DWord} {s : State} (h : s.MemOk) : OptOk (evConfigRegisterWrite addr size v s) := by
  unfold evConfigRegisterWrite
  dsimp only
  split
  · exact optOk_some (memOk_countDrop h)
  split
  · exact optOk_some h
  split
  · exact optOk_some (memOk_ite h h)
  split
  · exact optOk_some (memOk_writeDieReg h)
  split
  · exact optOk_some (memOk_writeCtxReg h)
  split
  · exact optOk_some (memOk_writeIfReg h)
  · exact optOk_some h

/-! ### EvTile -/

theorem optOk_evTileOffer {core : Nat} {s : State} (h : s.MemOk) : OptOk (evTileOffer core s) := by
  unfold evTileOffer
  split
  · exact optOk_none
  split
  · exact optOk_none
  split
  · split
    · exact optOk_due (optOk_some (memOk_leaveDrain h))
    · exact optOk_due (optOk_some (memOk_setTile h))
  · exact optOk_none

theorem optOk_evTileHeaderAtHome {op : Nat} {s : State} (h : s.MemOk) : OptOk (evTileHeaderAtHome op s) := by
  unfold evTileHeaderAtHome
  dsimp only
  split
  · exact optOk_none
  refine optOk_due ?_
  split
  · exact optOk_some (memOk_setTile (memOk_serve h))
  · exact optOk_some (memOk_modHome (memOk_setTile (memOk_serve h)))

theorem optOk_evTileGrant {op : Nat} {s : State} (h : s.MemOk) : OptOk (evTileGrant op s) := by
  unfold evTileGrant
  dsimp only
  split
  · exact optOk_none
  · exact optOk_due (optOk_some (memOk_sendTile (memOk_ite h (memOk_serve h))))

theorem optOk_evTileRefused {op : Nat} {s : State} (h : s.MemOk) : OptOk (evTileRefused op s) := by
  unfold evTileRefused
  dsimp only
  split
  · exact optOk_none
  refine optOk_due (optOk_some ?_)
  split
  · exact memOk_refuseSlot (memOk_modOwner h)
  · exact memOk_refuseTile (memOk_modOwner h)

theorem optOk_evTileReofferTimer {core : Nat} {s : State} (h : s.MemOk) : OptOk (evTileReofferTimer core s) := by
  unfold evTileReofferTimer
  split
  · exact optOk_none
  split
  · exact optOk_none
  · exact optOk_due (optOk_some (memOk_setTile (memOk_reachCyc h)))

theorem optOk_evResidualRetryTimer {st slot : Nat} {s : State} (h : s.MemOk) : OptOk (evResidualRetryTimer st slot s) := by
  unfold evResidualRetryTimer
  split
  · exact optOk_none
  split
  · exact optOk_none
  · exact optOk_due (optOk_some (memOk_offerSlot (memOk_reachCyc h)))

theorem optOk_evFlushRequestAtHome {op : Nat} {s : State} (h : s.MemOk) : OptOk (evFlushRequestAtHome op s) := by
  unfold evFlushRequestAtHome
  dsimp only
  split
  · exact optOk_none
  · exact optOk_due (optOk_some (memOk_modHome (memOk_setTile h)))

theorem optOk_evTileApply {home op : Nat} {s : State} (h : s.MemOk) : OptOk (evTileApply home op s) := by
  unfold evTileApply
  dsimp only
  split
  · exact optOk_none
  · exact optOk_due (optOk_some (memOk_dropOut (memOk_modHome (memOk_applyTile h))))

theorem optOk_evAstPerformed {op : Nat} {s : State} (h : s.MemOk) : OptOk (evAstPerformed op s) := by
  unfold evAstPerformed
  dsimp only
  split
  · exact optOk_none
  · exact optOk_due (optOk_through h (fun _ hu => optOk_some (memOk_complete (memOk_ite (memOk_poisonTile (memOk_combineFor hu)) (memOk_writeRows
      (memOk_combineFor hu))))))

/-! ### FloatVec -/

theorem outOk_fpOp2 {i : Instr} {s : State} {d a b : VReg} {f : Nat → Nat → Nat → Nat → Res} (h : s.MemOk) : OutOk (fpOp2 i s d a b f) :=
  outOk_elemOp h

theorem outOk_fpOp1 {i : Instr} {s : State} {d a : VReg} {f : Nat → Nat → Nat → Res} (h : s.MemOk) : OutOk (fpOp1 i s d a f) := outOk_elemOp h

theorem outOk_execCvt {hdr : Hdr} {src : BitVec 4} {d a : VReg} {s : State} (h : s.MemOk) : OutOk (execCvt hdr src d a s) := by
  unfold execCvt
  refine outOk_gate h (fun _ _ hu => ?_)
  split
  · exact outOk_trapFor hu
  · exact outOk_commit (memOk_setStand hu)

/-! ### IntVec -/

theorem outOk_intOp2 {i : Instr} {s : State} {d a b : VReg} {f : Nat → Int → Int → Int} (h : s.MemOk) : OutOk (intOp2 i s d a b f) := outOk_laneOp h

/-! ### Scalar -/

theorem outOk_scalOp {i : Instr} {s : State} {d a b : SReg} {f : DWord → DWord → DWord} (h : s.MemOk) : OutOk (scalOp i s d a b f) := outOk_plain h

/-! ### Dispatch -/

/-- Every instruction and every event keeps the form of memory: an instruction by its way through `gate`, an event by `event`. -/
theorem outOk_exec {i : Instr} {s : State} (h : s.MemOk) : OutOk (exec i s) := by
  unfold exec
  cases i with
  | illegal => exact outOk_gate h (fun _ _ hu => outOk_illegal hu)
  | nop | mode | iset | idp4 | fset | fdp2 | p2s | s2p | lpfx | lred | lvote | v2s | sset | smovk | saddk | acvt | awin | ktst | h2s | s2h =>
    exact outOk_plain h
  | bra => exact outOk_execBra h
  | brx => exact outOk_execBrx h
  | join => exact outOk_gate h (fun _ _ hu => outOk_moved hu)
  | call => exact outOk_execCall h
  | ret => exact outOk_execRet h
  | exit => exact outOk_execExit h
  | wait => exact outOk_execWait h
  | yield => exact outOk_gate h (fun _ _ hu => outOk_commit hu)
  | spawn => exact outOk_execSpawn h
  | trap => exact outOk_gate h (fun _ _ hu => outOk_next (memOk_takeTrap (memOk_leave hu)))
  | eret => exact outOk_gate h (fun _ _ hu => outOk_next (memOk_eret hu))
  | brk => exact outOk_execBrk h
  | idem => exact outOk_execIdem h
  | iadd | isub | imul | imulh | imin | imax => exact outOk_intOp2 h
  | imad | and | or | xor | shl | shr | sar | sel | mov | not | iabs | ineg | popc | clz | brev | lrank | lidx | iaddk | movk | lshf | lbcs
    | lmatch | s2v =>
    exact outOk_laneOp h
  | fadd | fsub | fmul | fmin | fmax => exact outOk_fpOp2 h
  | ffma => exact outOk_elemOp h
  | fabs | fneg | frcp | frsq | fsqrt | fexp2 | flog2 | fsin | fcos => exact outOk_fpOp1 h
  | cvt => exact outOk_execCvt h
  | csrr => exact outOk_execCsrr h
  | csrw => exact outOk_execCsrw h
  | pand | por | pxor | pandn => exact outOk_predOp h
  | xchg | gjoin | gleave | gbar | gdel => exact outOk_gate h (fun _ _ hu => outOk_groupOp hu)
  | sadd | ssub | smul | sand | sor | sxor | sshl | sshr => exact outOk_scalOp h
  | sld | sst | tagset | tagget => exact outOk_gate h (fun _ _ hu => outOk_access hu)
  | ld => exact outOk_execLd h
  | st => exact outOk_execSt h
  | pref => exact outOk_execPref h
  | phase => exact outOk_execPhase h
  | discard => exact outOk_execDiscard h
  | aadd | amin | amax | aand | aor | axor | axch | acas => exact outOk_atomicOp h
  | tacc => exact outOk_execTacc h
  | ast => exact outOk_execAst h
  | ald => exact outOk_execAld h
  | rflush => exact outOk_execRflush h
  | cpin => exact outOk_execCpin h
  | cpout => exact outOk_execCpout h
  | tmark => exact outOk_gate h (fun _ _ hu => outOk_commit (memOk_traceRec _ _ _ _ hu))
  | vres => exact outOk_execVres h
  | vrel => exact outOk_gate h (fun _ _ hu => outOk_commit (memOk_upd (memOk_modStand _ _ (memOk_modSlot hu))))
  | ptst => exact outOk_execPtst h
  | ptld => exact outOk_execPtld h
  | btake => exact outOk_execBtake h
  | bpass => exact outOk_execBpass h
  | oclm => exact outOk_execOclm h
  | orel => exact outOk_execOrel h
  | old => exact outOk_execOld h
  | mma => exact outOk_execMma h
  | azero => exact outOk_execAzero h
  | amov => exact outOk_execAmov h
  | amovv => exact outOk_execAmovv h
  | gang => exact outOk_execGang h
  | cbld => exact outOk_execCbld h
  | gcrt => exact outOk_execGcrt h
  | gvote => exact outOk_execGvote h
  | gred => exact outOk_execGred h
  | ginfo => exact outOk_execGinfo h
  | qenq | qdeq | qsteal => exact outOk_gate h (fun _ _ hu => outOk_queueOp hu)
  | tdone => exact outOk_execTdone h
  | tfull | tempty | tstat => exact outOk_gate h (fun _ _ hu => outOk_lineOp hu)
  | chapp => exact outOk_execChapp h
  | chadv => exact outOk_execChadv h
  | chseq => exact outOk_execChseq h
  | launchRecordEnqueue => exact outOk_event h (optOk_evLaunchRecordEnqueue h)
  | grovePlacement => exact outOk_event h (optOk_evGrovePlacement h)
  | colevelLaunchPlacement => exact outOk_event h (optOk_evColevelLaunchPlacement h)
  | stealMessage => exact outOk_event h (optOk_evStealMessage h)
  | standRetire => exact outOk_event h (optOk_evStandRetire h)
  | completionCounterDecrement => exact outOk_event h (optOk_evCompletionCounterDecrement h)
  | forwardedRecord => exact outOk_event h (optOk_evForwardedRecord h)
  | schedulerQuery | thermalAlert | holdNoticeSend | spdmMeasurementsRequest => exact outOk_event h (optOk_due (optOk_some (memOk_tell _ h)))
  | greedyRunLimit => exact outOk_event h (optOk_due (optOk_some (memOk_giveUp h)))
  | contextSwitchTimeslice | contextSwitchIdle => exact outOk_event h (optOk_due (optOk_some (memOk_switchCore h)))
  | speculationSquash => exact outOk_event h (optOk_evSpeculationSquash h)
  | pageFaultResolved => exact outOk_event h (optOk_evPageFaultResolved h)
  | pageFaultFatal => exact outOk_event h (optOk_evPageFaultFatal h)
  | loadDataReturn => exact outOk_event h (optOk_evLoadDataReturn h)
  | storePerformed => exact outOk_event h (optOk_evStorePerformed h)
  | atomicAtHome => exact outOk_event h (optOk_evAtomicAtHome h)
  | atomicReply => exact outOk_event h (optOk_evAtomicReply h)
  | combineEntryTimeout => exact outOk_event h (optOk_evCombineEntryTimeout h)
  | publicationComplete => exact outOk_event h (optOk_evPublicationComplete h)
  | copyComplete => exact outOk_event h (optOk_evCopyComplete h)
  | oldFillComplete => exact outOk_event h (optOk_evOldFillComplete h)
  | mmaArrayStart => exact outOk_event h (optOk_evMmaArrayStart h)
  | mmaFinish => exact outOk_event h (optOk_evMmaFinish h)
  | aldComplete => exact outOk_event h (optOk_evAldComplete h)
  | astPerformed => exact outOk_event h (optOk_evAstPerformed h)
  | cbldTableWrite => exact outOk_event h (optOk_evCbldTableWrite h)
  | tileOffer => exact outOk_event h (optOk_evTileOffer h)
  | tileHeaderAtHome => exact outOk_event h (optOk_evTileHeaderAtHome h)
  | tileGrant => exact outOk_event h (optOk_evTileGrant h)
  | tileRefused => exact outOk_event h (optOk_evTileRefused h)
  | tileReofferTimer => exact outOk_event h (optOk_evTileReofferTimer h)
  | residualRetryTimer => exact outOk_event h (optOk_evResidualRetryTimer h)
  | flushRequestAtHome => exact outOk_event h (optOk_evFlushRequestAtHome h)
  | tileApply => exact outOk_event h (optOk_evTileApply h)
  | groupOpAtController => exact outOk_event h (optOk_evGroupOpAtController h)
  | groupReply => exact outOk_event h (optOk_evGroupReply h)
  | gredCellsFree => exact outOk_event h (optOk_evGredCellsFree h)
  | queueOpAtController => exact outOk_event h (optOk_evQueueOpAtController h)
  | remoteQenqMessage => exact outOk_event h (optOk_evRemoteQenqMessage h)
  | counterDecrementAtHome => exact outOk_event h (optOk_evCounterDecrementAtHome h)
  | successorEnqueueRetry => exact outOk_event h (optOk_evSuccessorEnqueueRetry h)
  | bufferBitAtHome => exact outOk_event h (optOk_evBufferBitAtHome h)
  | ioEntryStart => exact outOk_event h (optOk_evIoEntryStart h)
  | ioEntryComplete => exact outOk_event h (optOk_evIoEntryComplete h)
  | remoteOpTimeout => exact outOk_event h (optOk_evRemoteOpTimeout h)
  | holdNotice | schedulerMessageDropped | partitionReinitialise => exact outOk_event h (optOk_some h)
  | watchdogExpiry => exact outOk_event h (optOk_evWatchdogExpiry h)
  | ccmdAdmit => exact outOk_event h (optOk_evCcmdAdmit h)
  | ccmdEnd => exact outOk_event h (optOk_evCcmdEnd h)
  | ccmdVacate => exact outOk_event h (optOk_evCcmdVacate h)
  | replySlotWrite => exact outOk_event h (optOk_evReplySlotWrite h)
  | vacateComplete => exact outOk_event h (optOk_evVacateComplete h)
  | ccmdRestore => exact outOk_event h (optOk_evCcmdRestore h)
  | restoreGrovePlacement => exact outOk_event h (optOk_restoreOne h)
  | ccmdAttachDebugger | ccmdDetachDebugger => exact outOk_event h (optOk_evDebugger h)
  | tlbInvalidateContext | tlbInvalidateRange => exact outOk_event h (optOk_due (optOk_some (memOk_invalidate h)))
  | tlbInvalidationComplete | supplySag | thermalThrottle => exact outOk_event h (optOk_due (optOk_some (memOk_modDie _ _ h)))
  | ddirWrite => exact outOk_event h (optOk_some (memOk_ite h (memOk_modDie _ _ h)))
  | switchCommand => exact outOk_event h (optOk_evSwitchCommand h)
  | createQueue => exact outOk_event h (optOk_evCreateQueue h)
  | destroyQueue => exact outOk_event h (optOk_evDestroyQueue h)
  | createChain => exact outOk_event h (optOk_evCreateChain h)
  | destroyChain => exact outOk_event h (optOk_evDestroyChain h)
  | createEndpoint => exact outOk_event h (optOk_evCreateEndpoint h)
  | destroyEndpoint => exact outOk_event h (optOk_evDestroyEndpoint h)
  | configRegisterWrite => exact outOk_event h (optOk_evConfigRegisterWrite h)
  | lockInterfaceRequest => exact outOk_event h (optOk_due (optOk_some (memOk_tell _ (memOk_setIface h))))
  | startInterfaceRequest => exact outOk_event h (optOk_due (optOk_some (memOk_setIface h)))
  | stopInterfaceRequest => exact outOk_event h (optOk_evStopInterfaceRequest h)
  | interfaceLinkError => exact outOk_event h (optOk_due (optOk_some (memOk_ifaceError h)))
  | uncorrectableError => exact outOk_event h (optOk_evUncorrectableError h)
  | errorSelfTest => exact outOk_event h (optOk_evErrorSelfTest h)
  | coppiceScanEnd => exact outOk_event h (optOk_evCoppiceScanEnd h)
  | tokenTapVisit => exact outOk_event h (optOk_evTokenTapVisit h)
  | limiterRefill => exact outOk_event h (optOk_map (fun _ => memOk_modDie _ _ h))
  | packetArrival => exact outOk_event h (optOk_evPacketArrival h)
  | flitPayloadError => exact outOk_event h (optOk_evFlitPayloadError h)
  | linkFailure => exact outOk_event h (optOk_some (memOk_linkOut h))
  | wavelengthErrorWindow => exact outOk_event h (optOk_due (optOk_some (memOk_ite (memOk_linkOut h) h)))
  | wavelengthRetrainDone | boot => exact outOk_event h (optOk_due (optOk_some h))
  | debugHalt => exact outOk_event h (optOk_evDebugHalt h)
  | debugSetHeld | debugReleaseHeld => exact outOk_event h (optOk_hold h)
  | breakpointHit => exact outOk_event h (optOk_evBreakpointHit h)
  | singleStep => exact outOk_event h (optOk_evSingleStep h)
  | debugSetBreakpoint | debugSetWatchpoint => exact outOk_event h (optOk_due (optOk_some (memOk_modCore _ _ h)))
  | deterministicModeSwitch => exact outOk_event h (optOk_due (optOk_some (memOk_setCore h)))
  | flitHeaderError | thermalShutdown => exact outOk_event h (optOk_some (memOk_upd (memOk_fatalAll h)))

/-! ### Ahead -/

theorem optOk_aheadLoad {s g : State} {key idx : Nat} {a : Ahead} {i : Instr} (h : s.MemOk) : OptOk (s.aheadLoad g key idx a i) := by
  delta State.aheadLoad
  extract_lets k cp stalls op copse s2
  have hs : stalls.MemOk := memOk_modStand _ _ h
  have h2 : s2.MemOk := memOk_modSlot hs
  split
  · exact optOk_none
  split
  · extract_lets tlbs s1
    have ht : tlbs.MemOk := memOk_setCopse _ _ (memOk_modCore _ _ h)
    have h1 : s1.MemOk := memOk_issue (memOk_takeCharge ht)
    exact optOk_some (memOk_upd h1)
  · split
    · exact optOk_none
    · exact optOk_some (memOk_upd h2)
  · split
    · exact optOk_none
    · exact optOk_some hs

theorem optOk_lookPast {s : State} {key idx : Nat} (h : s.MemOk) : OptOk (s.lookPast key idx) := by
  delta State.lookPast
  extract_lets a
  split
  · exact optOk_none
  split
  · exact optOk_none
  extract_lets pc note
  have hn : ∀ u, (note u).MemOk := fun _ => h
  split
  · split
    · split
      · exact optOk_none
      · exact optOk_map hn
    · split
      · exact optOk_none
      · exact optOk_aheadLoad h
    · split
      · exact optOk_none
      · exact optOk_aheadLoad h
    · split
      · exact optOk_none
      · exact optOk_map hn
  · exact optOk_none

theorem optOk_seekLoad {s g : State} {key idx n : Nat} {a : Ahead} (h : s.MemOk) : OptOk (s.seekLoad key idx n g a) := by
  induction n generalizing g a with
  | zero => exact optOk_none
  | succ n ih =>
    unfold State.seekLoad
    dsimp only
    split
    · split
      · split
        · exact optOk_none
        · exact optOk_bind fun _ => ih
      · split
        · exact optOk_none
        · exact optOk_aheadLoad h
      · split
        · exact optOk_none
        · exact optOk_aheadLoad h
      · split
        · exact optOk_bind fun _ => ih
        · exact optOk_none
    · exact optOk_none

theorem optOk_lookOver {s : State} {key idx : Nat} (h : s.MemOk) : OptOk (s.lookOver key idx) := by
  unfold State.lookOver
  dsimp only
  split
  · exact optOk_none
  split
  · split
    · exact optOk_none
    split
    · exact optOk_seekLoad h
    split
    · exact optOk_bind fun _ => optOk_seekLoad h
    · exact optOk_none
  · exact optOk_none

/-- What a path that issues ahead leaves is made from the state itself, whatever the copy of the stand that it works on has come to (R22, R24). -/
theorem memOk_of_aheadMove {s t : State} {q : Nat} (h : s.MemOk) (hm : s.aheadMove = some (q, t)) : t.MemOk := by
  unfold State.aheadMove at hm
  extract_lets quarterOf at hm
  split at hm
  · next e =>
    obtain ⟨kv, -, hkv⟩ := List.exists_of_findSome?_eq_some e
    split at hkv
    · obtain ⟨u, hu, heq⟩ := Option.map_eq_some_iff.1 hkv
      cases hm
      cases heq
      refine (optOk_findSome fun i => ?_ : OptOk _) _ hu
      split
      · exact optOk_lookPast h
      · exact optOk_none
    · cases hkv
  · obtain ⟨c, -, hc⟩ := Option.bind_eq_some_iff.1 hm
    split at hc
    · obtain ⟨u, hu, heq⟩ := Option.map_eq_some_iff.1 hc
      cases heq
      exact optOk_lookOver h _ hu
    · cases hc

theorem memOk_settleAhead {s : State} (h : s.MemOk) : s.settleAhead.MemOk := memOk_of_mem h s.settleAhead_mem

theorem memOk_claim {s : State} {c : Cand} {pc : BitVec 17} (h : s.MemOk) : (s.claim c pc).1.MemOk := memOk_of_mem h (s.claim_mem c pc)

theorem outOk_keepSeen {op key ctx : Nat} {seen : SMap Byte} {stalled : List Stall} {r : Out?} (hr : OutOk r) :
    OutOk (keepSeen op key ctx seen stalled r) := by
  intro t ht
  obtain ⟨u, hu, hmem⟩ := keepSeen_next ht
  exact memOk_of_mem (hr u hu) hmem

/-! ### Run -/

theorem memOk_traceFlow {s : State} {key idx : Nat} {i : Instr} {before : Stand} (h : s.MemOk) : (s.traceFlow key idx i before).MemOk := by
  unfold State.traceFlow
  split
  · exact h
  split
  · exact h
  · exact memOk_traceRec _ _ _ _ h

theorem memOk_traceSample {s : State} {key idx : Nat} (h : s.MemOk) : (s.traceSample key idx).MemOk := memOk_traceRec _ _ _ _ h

theorem memOk_traceStall {s : State} {key : Nat} (h : s.MemOk) : (s.traceStall key).MemOk := by
  unfold State.traceStall
  split
  · exact memOk_fold (fun _ _ hu => memOk_traceSample hu) h
  · exact h

theorem memOk_settleStep {s : State} (h : s.MemOk) : s.settleStep.MemOk :=
  memOk_settleAhead (memOk_trimCaches (memOk_settleRestarts (memOk_releaseFlushes h)))

theorem outOk_perform {s : State} {c : Cand} {pc : BitVec 17} {i : Instr} (h : s.MemOk) : OutOk (s.perform c pc i) := by
  unfold State.perform
  split
  · next e => exact outOk_exec (memOk_fst e (memOk_claim h))
  next e =>
  exact outOk_keepSeen (outOk_exec (memOk_fst e (memOk_claim h)))

theorem memOk_probe {s : State} (h : s.MemOk) : s.probe.MemOk := h

theorem memOk_rouse {s : State} (h : s.MemOk) : s.rouse.MemOk := memOk_probe (memOk_wake h)

theorem outOk_finishIssue {s0 : State} {c : Cand} {i : Option Instr} {r : Out?} (hr : OutOk r) : OutOk (s0.finishIssue c i r) := by
  cases r with
  | fault => exact outOk_fault
  | refused => exact outOk_refused
  | next t =>
    have ht : t.MemOk := hr t rfl
    simp only [State.finishIssue]
    have h1 : ∀ {n y}, ((t.settleAge c n).afterIssue c n y).MemOk := memOk_afterIssue (memOk_settleAge ht)
    split
    · exact outOk_next (memOk_settleStep (memOk_ite h1 (memOk_traceStall h1)))
    refine outOk_next (memOk_rouse (memOk_settleStep (memOk_modCore _ _ ?_)))
    split
    · exact memOk_traceFlow (memOk_ite h1 h1)
    · exact memOk_ite h1 h1

theorem outOk_parkFetch {s : State} {c : Cand} {va : DWord} (h : s.MemOk) : OutOk (s.parkFetch c va) :=
  outOk_next (memOk_tell _ (memOk_modStand _ _ h))

theorem memOk_raiseLine {s : State} {c : Cand} {x : Nat × DWord × Mask} (h : s.MemOk) : (s.raiseLine c x).MemOk :=
  memOk_takeTrap (memOk_modStand _ _ h)

theorem outOk_issueNext {s : State} {c : Cand} (h : s.MemOk) : OutOk (s.issueNext c) := by
  have h0 : (s.beginIssue c).MemOk := memOk_turnTo h
  unfold State.issueNext
  dsimp only
  split
  · exact outOk_exec h
  split
  · exact outOk_finishIssue (outOk_next (memOk_raiseLine h0))
  split
  · exact outOk_exec h0
  have hf : ∀ {b : Prop} [Decidable b] {f}, (State.fetch (if b then (s.beginIssue c).modStand c.key f else s.beginIssue c) c.key
      (s.pcOf c)).1.MemOk :=
    memOk_fetch (memOk_ite h0 h0)
  split
  · next e => exact outOk_finishIssue (outOk_perform (memOk_fst e hf))
  · next e => exact outOk_finishIssue (outOk_trapFor (memOk_fst e hf))
  · next e => exact outOk_finishIssue (outOk_parkFetch (memOk_fst e hf))
  · next e => exact outOk_finishIssue (outOk_trapFor (memOk_fst e hf))

theorem outOk_takeEvent {s : State} {i : Instr} {rest : List Instr} (h : s.MemOk) : OutOk (s.takeEvent i rest) := by
  unfold State.takeEvent
  split
  · exact outOk_next h
  split
  · next e => exact outOk_next (memOk_rouse (memOk_settleStep (memOk_of_next e (outOk_exec h))))
  · exact outOk_exec h

theorem issueMove_ne_ahead {s t : State} {c : Cand} {q : Nat} : s.issueMove c ≠ .ahead q t := by
  unfold State.issueMove
  split
  · split <;> nofun
  · nofun

theorem memOk_of_nextMove {s t : State} {q : Nat} (h : s.MemOk) (hm : s.nextMove = .ahead q t) : t.MemOk := by
  unfold State.nextMove at hm
  split at hm
  · next e _ =>
    split at hm
    · exact absurd hm issueMove_ne_ahead
    · cases hm
      exact memOk_of_aheadMove h e
  · next e _ =>
    cases hm
    exact memOk_of_aheadMove h e
  · exact absurd hm issueMove_ne_ahead
  · split at hm <;> cases hm

/-! ### Step -/

/-- A step takes an event, issues, issues ahead or lets the clock tick. -/
theorem outOk_step {s : State} (h : s.MemOk) : OutOk (step s) := by
  unfold step
  split
  · exact outOk_fault
  split
  · exact outOk_takeEvent h
  split
  · exact outOk_takeEvent h
  · exact outOk_issueNext h
  · next e => exact outOk_next (memOk_settleStep (memOk_turnTo (memOk_of_nextMove h e)))
  · exact outOk_next (memOk_tick h)

end Sys2Proof.Machine

namespace Sys2Proof
open Machine

/-- Settles O59: a step is an event taken, an issue, an issue ahead or a tick of the clock, and `outOk_exec` says of every instruction and event that it
keeps the form of memory. -/
theorem stepKeepsMemory : Obligations.StepKeepsMemory := by
  unfold Obligations.StepKeepsMemory
  exact fun s t h ht => outOk_step h t ht

end Sys2Proof
end
